-- ==== Sys2Proof/Word.lean ====
section
/-! DEFINITION. The word types of Denut-3 (R1: bit 0 is the least significant bit of every field). -/
namespace Sys2Proof

abbrev Byte := BitVec 8
abbrev W16 := BitVec 16
abbrev W32 := BitVec 32
abbrev W64 := BitVec 64
abbrev W128 := BitVec 128
abbrev W256 := BitVec 256

end Sys2Proof
end

