-- ==== Sys2Proof/Syntax.lean ====
section
/-! DEFINITION. The commands of the block: one constructor per row of spec/opcode_table.json, in the table's order.
The table gives no operands (log 14: DESIGN CHOICE); a constructor carries what the rule of its row names: a context, a ring, a leaf
reference (17 bits, R27), a register value, the data that a port returns. -/
namespace Sys2Proof

/-- A dispatcher: the root's or a region's (R23). -/
inductive Disp where
  | root
  | region (r : Nat)
  deriving DecidableEq, Repr

/-- The two ports of R440. -/
inductive Port where
  | host
  | memory
  deriving DecidableEq, Repr

/-- Where a register access goes: an offset of the host window (R366), or an address of the DCP's control space (R386, Table 13.20). -/
inductive RegAddr where
  | host (off : Nat)
  | dcp (addr : Nat)
  deriving DecidableEq, Repr

/-- What a storage check found (R335): nothing, one corrected symbol, or an uncorrectable word. -/
inductive EccResult where
  | clean
  | corrected (symbol : Nat)
  | uncorrectable
  deriving DecidableEq, Repr

/-- A stored word that a command reads (Table 12.4): of a node, an edge, a descriptor cache line, the trace buffer, an event, a
gazetteer cache entry, an entry of a launch in a part of this unit code, a token in a receive queue, a signal counter, a
circular region, an accumulator, the front end's state of a context, a line of the signal-map or the event-map cache, a 16-byte word of the DCP's local
SRAM. -/
inductive Stored where
  | node (g : Nat)
  | edge (e : Nat)
  | descriptor (off : Nat)
  | trace (e : Nat)
  | event (ev : Nat)
  | gaz (idx : Nat)
  | entry (unit slot : Nat)
  | token (leaf q e : Nat)
  | signal (i : Nat)
  | creg (i : Nat)
  | tag (q t : Nat)
  | ring (c : Nat)
  | mapLine (evt : Bool) (line : Nat)
  | sram (a : Nat)
  deriving DecidableEq, Repr

/-- A word that a command reads and what the storage check finds in it (log 12: DESIGN CHOICE). -/
structure Hit where
  word : Stored
  res : EccResult
  deriving DecidableEq, Repr

/-- What a register read carries besides: the requester of a host read, for whom the other half is latched (R7), and the words of the DCP's local
SRAM that the check finds in error. -/
structure RegRead where
  rid : Nat
  hits : List Hit
  deriving DecidableEq, Repr

/-- The code and the PTAG of an operation that an engine presents (R178, Table 7.4); code 0 is SEND, 10 to 15 are reserved. -/
structure PortOp where
  code : BitVec 4
  ptag : Nat
  deriving DecidableEq, Repr

/-- A bank of an MU's memory (R410). -/
structure MuBank where
  site : Nat
  bank : Nat
  deriving DecidableEq, Repr

/-- Whose access meets a fallow bank: that of a packet, by its PTAG, or the row write of the STAT of a node (R260, R412). -/
inductive FallowTask where
  | packet (ptag : Nat)
  | stat (g : Nat)
  deriving DecidableEq, Repr

/-- An object with paired counts (R168): a signal counter or a circular region. -/
inductive PairObj where
  | signal (i : Nat)
  | creg (i : Nat)
  deriving DecidableEq, Repr

/-- A power gate that the host chip acknowledges (R449): the DOZE islands, the counter banks, or an MU bank. -/
inductive Gate where
  | doze
  | counterBanks
  | mu (site bank : Nat)
  deriving DecidableEq, Repr

inductive Instr where
  | nop (c : Nat)
  | loadGraph (c : Nat)
  | graphImageRead (gid : Nat)
  | unloadGraph (c : Nat)
  | patchGraph (c : Nat)
  | launch (c : Nat)
  | recordEvent (c : Nat)
  | recordEventApply (c r : Nat) (hits : List Hit)
  | waitEvent (c : Nat) (hits : List Hit)
  | waitEventTimeout (c r : Nat)
  | signal (c : Nat) (hits : List Hit)
  | fence (c : Nat)
  | writeTable (c : Nat)
  | setMode (c : Nat)
  | setModeApply
  | serviceStart (c : Nat)
  | serviceStop (c : Nat)
  | ringFetchRead (hits : List Hit)
  | ringFetchReturn (c r : Nat)
  | completionEntry (c : Nat)
  | completionWriteAck (c : Nat)
  | irqHoldExpiry (c : Nat)
  | ringDoorbell (c r : Nat) (tail : W32)
  | ringEnable (c r : Nat) (cfg : W32)
  | ringDisable (c r : Nat) (cfg : W32)
  | stopReq (c r : Nat)
  | ringResume (c r : Nat)
  | cplRingConfig (c : Nat) (base : Bool) (v : W64)
  | cplHeadWrite (c : Nat) (v : W32)
  | ctxCancel (c : Nat) (v : W64)
  | mboxDoorbell (c : Nat)
  | openCtx (c : Nat)
  | close (c : Nat)
  | query (c : Nat)
  | quiesce (c : Nat)
  | undefinedMessage (c : Nat)
  | chainPreset (s : Nat) (v : W64)
  | stepWrite (v : W64)
  | linkKeyWrite (v : W64)
  | linkKeyApply
  | svcReqTail (v : W32)
  | svcResHead (v : W32)
  | surveyStart (full : Bool)
  | replayCfgWrite (base : Bool) (v : W64)
  | replayHeadWrite (v : W32)
  | traceSpillHeadWrite (v : W32)
  | routeConfigWrite (off : Nat) (v : W64)
  | mapBaseWrite (evt : Bool) (v : W64)
  | counterRead (off size rid : Nat)
  | registerWrite (at_ : RegAddr) (size : Nat) (v : W64)
  | ltReqPost (w : BitVec 512)
  | ltRetPop
  | inspect
  | fsFree (n : Nat)
  | fsHealthWrite (v : W32)
  | hedgeWrite (edge : Bool) (i : Nat) (set : Bool)
  | monTx (ch : Byte)
  | monRxRead
  | trPost (w : W256)
  | pwrReq (v : W32)
  | fePost (c : Nat) (w : BitVec 512)
  | bootComplete (ftv : W16) (fwver : W32)
  | mgtBootStart
  | mgtBootData (w : W32)
  | bootBlockTimeout
  | bootInitDone
  | post (ok : Bool) (unit : Nat)
  | fwImageRead (bytes : List Byte) (err : Bool)
  | fwVerifyResult (ok : Bool)
  | fwStartTimeout
  | mgtTimeWrite (lo hi : W32)
  | mgtSigDataRead
  | mgtSigAck
  | mgtDrain
  | mgtQuickSurvey
  | mgtFullSurvey
  | mgtWake
  | readOut (store index : Nat) (res : EccResult)
  | uartRxChar (ch : Byte)
  | monBadLine
  | monHelp
  | monId
  | monHealth
  | monFault (n : Option Nat)
  | monHedge
  | monCtx (c : Nat)
  | monLaunch (s : Nat)
  | monCount (off : Nat)
  | monParcel (p : Nat)
  | monFallow
  | monTrace (n : Nat)
  | monPcs (leaf : Nat)
  | monDrain
  | monSurveyQuick
  | monSurveyFull
  | monBaud (rate : Nat)
  | por
  | sysReset
  | dntReset
  | resetRelease (por sys dnt : Bool)
  | freeze
  | freezeRelease
  | chainAdvance (s : Nat) (n : W16)
  | releaseWatchFire
  | sectionEndFire
  | expiryFire
  | admissionFire
  | tsBack (ts : W64)
  | startScan (slot : Nat)
  | dec (b : Nat) (hits : List Hit)
  | evt (b : Nat) (hits : List Hit)
  | decEvt (b : Nat) (hits : List Hit)
  | cancel (b : Nat) (hits : List Hit)
  | edgeWalk (w : Nat) (hits : List Hit)
  | readyEntryEnter (b : Nat)
  | descriptorFill (off : Nat) (err : Bool)
  | placement (disp : Disp) (hits : List Hit)
  | childLaunch (g : Nat)
  | affinityWaitExpiry (g : Nat)
  | packetNotice (leaf : Nat)
  | takenReport (leaf : Nat)
  | creditReturn (leaf : Nat)
  | completionReport (i : Nat)
  | waitTimeout (g : Nat)
  | conservationSweep (slot : Nat)
  | launchCompletionReturn (slot : Nat)
  | checkIntervalClose
  | intervalCompare (accepted : List (Nat × Nat × Nat)) (tallies : List (Nat × Nat × Nat))
  | scrubRead (edge : Bool) (unit word : Nat) (res : EccResult)
  | faultServe
  | dupCompareMismatch (unit group : Nat) (slots : List Nat)
  | lockstepMismatch (pc : W64)
  | rebaseSweep (obj : PairObj)
  | rebase (obj : PairObj)
  | rebaseComplete (obj : PairObj)
  | heartbeat (leaf : Nat)
  | hang (leaf : Nat)
  | read (leaf : Nat) (idleTo : BitVec 21)
  | idleTimeout (leaf : Nat)
  | mark (leaf : Nat)
  | rewind (leaf : Nat)
  | release (leaf ptag : Nat) (status : Byte) (digest : W64)
  | send (leaf : Nat) (op : PortOp) (hdr : W64) (payload : W256) (tmask : W32)
  | tokenArrival (i : Nat)
  | tokenAck (i : Nat)
  | claim (leaf ptag : Nat) (qmask : Byte) (sel : Bool)
  | unclaim (leaf ptag : Nat) (qmask : Byte)
  | recv (leaf ptag qidx : Nat) (timeout : BitVec 21) (hits : List Hit)
  | recvTimeout (leaf opslot : Nat)
  | raise (leaf ptag : Nat) (sig n : W16) (hits : List Hit)
  | take (leaf ptag : Nat) (sig n : W16) (timeout : BitVec 21) (hits : List Hit)
  | takeTimeout (leaf opslot : Nat)
  | crAcquire (leaf ptag creg : Nat) (n : W16) (hits : List Hit)
  | crCommit (leaf ptag creg : Nat) (n : W16) (hits : List Hit)
  | crWait (leaf ptag creg : Nat) (target : W32) (timeout : BitVec 21) (hits : List Hit)
  | crWaitTimeout (leaf opslot : Nat)
  | crDrain (leaf ptag creg : Nat) (n : W16) (hits : List Hit)
  | contributionApply (hits : List Hit)
  | resultDelivery (q tag : Nat)
  | logitChunk (i : Nat)
  | tokenScore (slot chan : Nat)
  | gazetteerLookup (base expert : Nat) (hits : List Hit)
  | tileBlockAck (slot chan j : Nat)
  | stagingSlotTake (idx : Nat)
  | statControlBlock (g : Nat)
  | rowFinish (g : Nat)
  | statEnd (g : Nat)
  | evalRequest (i : Nat)
  | evalResult
  | serviceRequestTake (w : BitVec 512)
  | stepBoundary
  | batchTableAck
  | stepCompletion (dones : List Byte)
  | drainOrder
  | drainWaitExpiry
  | drained
  | surveyEnd (failed : List (Nat × Byte × W64)) (passed : List Nat)
  | samplingTick (taps : List (Nat × W64 × BitVec 3))
  | lossRecord
  | traceSpillWrite (hits : List Hit)
  | replayDrain
  | dozeEntry
  | dozeWakeSource
  | wakeComplete
  | pwrGateAck (gate : Gate)
  | counterBankFallow
  | muBankFallow (at_ : MuBank) (writes : Nat)
  | muBankWake (site bank : Nat)
  | fallowAccess (site bank leaf : Nat) (task : FallowTask)
  | linkFrame (port : Nat) (frame : BitVec 576)
  | linkRetransmitRequest (port : Nat) (seq : W32)
  | linkConfirmation (port : Nat) (ackseq : W32)
  | linkConfirmSend (port : Nat)
  | linkConfirmTimeout (port : Nat)
  | linkUpChange (port : Nat) (up : Bool)
  | memoryReadResponse (port : Port) (tag : Nat) (data : List Byte) (err : Bool)
  | writeAck (port : Port) (tag : Nat) (err : Bool)
  | registerRead (at_ : RegAddr) (size : Nat) (rd : RegRead)
  | mgtStatusRead (health : Bool)
  | uartTxChar
  deriving DecidableEq, Repr

end Sys2Proof
end

