-- ==== Sys2Proof/Config.lean ====
section
/-! DEFINITION. The free values: what the spec leaves open has no body here, so no proof can rest on a value of it. -/
namespace Sys2Proof.Config

/-- Output `n` of the key generator seeded with ENTROPY (R70, R398; log 10: DESIGN CHOICE). The spec gives no function. -/
opaque keyGen (entropy : List Byte) (n : Nat) : W64

/-- By how much the sampled timestamp advances in a dispatch cycle, from the timestamp and FC (R165, R435; log 3: DESIGN CHOICE); 2, the most that a
cycle of the slowest licensed clock can see, bounds it where it is used. -/
opaque tsStep (ts fc : W64) : BitVec 2

/-- The sign of a zero that the spec does not state, by the table and the operands that it comes from (R248, R269; log 16: DESIGN CHOICE). -/
opaque zeroSign (operands : List Nat) : BitVec 1

/-- A result of the arithmetic that the spec does not state, by the tables and operands that it comes from (R248; log 16: DESIGN CHOICE). -/
opaque openResult (operands : List Nat) : W64

/-- Free value `n`: a result that the spec does not state for the operands met, by its number (log 16: DESIGN CHOICE). -/
opaque freeWord (n : Nat) : W64

/-- The site unit whose memory contains a system address, by the map that the firmware image carries for the instance; the spec
gives no such map (R331; log 40: DESIGN CHOICE). -/
opaque siteAt (addr : W64) : Option (BitVec 12)

end Sys2Proof.Config
end

