-- ==== Sys2Proof/Machine/State.lean ====
section
/-! DEFINITION. The state of the block as plain data: the configuration side `Cfg` (what boot, host registers, resets and
health set) and the running side `Dyn` (everything the sequencers change), with the queue of waiting commands.
Each structure cites the rules of spec/ that name what it holds; INVENTORY.md lists every piece with its reset value. -/
namespace Sys2Proof.Machine

/-- A sparse table: keys strictly rising, no entry equal to what an unlisted key reads as (`tset` in Bits keeps it). -/
abbrev Tab (α : Type) := List (Nat × α)

/-- Status codes, Table 0.6 (R11). -/
inductive Status where
  | ok | full | closed | noRoute | timeout | eccCorr | eccUncorr | digestMismatch | shadowMismatch | rangeFault
  | bankFallow | badDescriptor | epochRetired | cancelled | sendStall | tableSeam | coldFetchFail | determinism
  | conservation | hang | linkDigest
  deriving DecidableEq, Repr

/-- A 128-byte task descriptor: header, ranges and the two body words (R47, R50, R51). -/
structure Desc where
  w0 : W256
  w1 : W256
  w2 : W256
  w3 : W256
  deriving DecidableEq, Repr

/-- The command a request or an object belongs to: context, ring, DSEQ (Table 13.22). -/
structure CmdId where
  c : Nat
  r : Nat
  dseq : W32
  deriving DecidableEq, Repr

/-! ### Build, boot configuration and the configuration side -/

/-- Work-port generation of a slot (R125). -/
inductive Gen where
  | wp3
  | wp2
  deriving DecidableEq, Repr

/-- The slots built (Table 16.3): those of Sparax 2304 (R25, R26), or a licensee's list keyed 2560·region + 16·stub + slot. -/
inductive SlotMap where
  | sparax
  | list (t : Tab Gen)
  deriving DecidableEq, Repr

/-- Build parameters and static inputs (Table 16.3, R440). No command changes them. -/
structure Build where
  nRegMax : Nat
  nSiteMax : Nat
  nEdgeMax : Nat
  slots : SlotMap
  linkMax : Nat
  memWinBase : W64
  memWinSize : W64
  deriving DecidableEq, Repr

/-- One entry of the boot block's history list (Table 14.3). -/
structure HistEntry where
  unit : Nat
  charged : Nat
  surveyFailed : Bool
  ages : List Nat
  deriving DecidableEq, Repr

/-- The boot configuration block as parsed (Tables 14.2 and 14.3). -/
structure BootCfg where
  nReg : Nat
  nSite : Nat
  nEdge : Nat
  chipId : Nat
  flagged : Bool
  serial : List Byte
  priv : W64
  entropy : List Byte
  descBase : W64
  descSize : W64
  surveyBase : W64
  surveySize : W64
  fwAddr : W64
  time : W64
  muFallow : Byte
  muIdle : Nat
  cbIdle : Nat
  slots : Tab Byte
  disabled : List Nat
  links : Tab Nat
  hist : List HistEntry
  deriving DecidableEq, Repr

/-- Where boot stands (Table 14.4): in reset, waiting in a phase, failed, or complete. -/
inductive BootPhase where
  | p1 | p2 | p3 | p4 | p4Verify | p5 | booted | failed
  deriving DecidableEq, Repr

/-- DOZE (R405 to R407). -/
inductive Doze where
  | awake | dozing | waking
  deriving DecidableEq, Repr

/-- Health states, Table 12.7. -/
inductive Health where
  | service | draining | drained | survey | flagged
  deriving DecidableEq, Repr

/-- SURVEY_STAT (Table 13.7), but for PASSED and FAILED, which the fault summary counts. -/
structure Survey where
  full : Bool
  pass : Nat
  refused : Bool
  deriving DecidableEq, Repr

/-- A drain asked for or in progress (R355): a survey request waiting for it (quick or full), the classifying fault's status and
the index of its record, the units to hedge, whether the contexts have been told of the cause, and the timestamp at which DRAINING began. -/
structure Drain where
  survey : Option Bool
  cause : Option (Status × Nat)
  units : List Nat
  told : Bool
  since : W64
  deriving DecidableEq, Repr

/-- The configuration side: boot, resets, clocks, health, mode and the host's configuration registers. -/
structure Cfg where
  build : Build
  boot : BootCfg
  kept : Option (List Byte)
  phase : BootPhase
  bootStat : Nat
  bootDone : Bool
  rx : Option (List Byte)
  fwImage : List Byte
  porAsserted : Bool
  sysAsserted : Bool
  dntAsserted : Bool
  frozen : Bool
  freezeWait : Bool
  doze : Doze
  dozeReq : Bool
  health : Health
  drain : Option Drain
  survey : Survey
  det : Bool
  cblk : Nat
  shfrac : Nat
  fwver : W32
  ftv : W16
  tokStall : W16
  hangLimit : Byte
  drainWait : W32
  surveyMode : Bool
  gazBase : W64
  stageBase : W64
  stageSize : W64
  stageSlot : W32
  cfgIgn : Bool
  mapIgn : Bool
  rmsCtx : W64
  sigMapBase : W64
  evtMapBase : W64
  traceEn : Bool
  traceSpill : Bool
  spillBase : W64
  spillLog2 : BitVec 5
  pcsLog2 : BitVec 5
  pcsEn : Bool
  dozeEn : Bool
  dozeIdle : BitVec 20
  replayBase : W64
  replayLog2 : BitVec 5
  replayEn : Bool
  now : W64
  dcpRun : Bool
  dcpEntry : W64
  dcpHalted : Bool
  baud : Nat
  baudNext : Option Nat
  deriving DecidableEq, Repr

/-! ### The ports to memory -/

/-- What a read outstanding at a memory or host-bridge port is for. -/
inductive RdUse where
  | graphHdr (gid : Nat)
  | graphBody (gid : Nat)
  | patchHdr (gid : Nat)
  | patchBody (gid : Nat)
  | table (id : CmdId)
  | chainBases (slot : Nat)
  | svcBlock (id : CmdId)
  | ringFetch (c r : Nat)
  | descFill (off : Nat)
  | statBlock (slot g : Nat)
  | dcp
  | fwImage
  | mapLine (evt : Bool) (line : Nat)
  | gazLine (line : Nat) (lo hi : Bool)
  deriving DecidableEq, Repr

/-- A read: one job per logical transfer (log 8: DESIGN CHOICE); `shown` once it has been presented (R456). -/
structure RdJob where
  tag : Nat
  shown : Bool
  port : Port
  addr : W64
  len : Nat
  use : RdUse
  data : Option (List Byte)
  err : Bool
  deriving DecidableEq, Repr

/-- What a write outstanding at a port is for. A completion entry's write keeps its index (none once its ring has been set up
anew), whether it qualifies for an interrupt in MODE 1 (R302), and the fault record it reports. -/
inductive WrUse where
  | completion (c : Nat) (idx : Option W32) (qual : Bool) (record : Option Nat)
  | result (q tag : Nat)
  | selRow (slot chan : Nat)
  | tile (slot chan j : Nat)
  | batchTab
  | svcResult (idx : W32)
  | statRow (slot g : Nat)
  | spill (bytes : Nat)
  | replay (slots : Nat)
  | synthBody (leaf task : Nat)
  | gazEntry (idx : Nat)
  | map
  | dcp
  deriving DecidableEq, Repr

/-- A write: one job per logical transfer (log 8: DESIGN CHOICE). -/
structure WrJob where
  tag : Nat
  port : Port
  addr : W64
  data : List Byte
  use : WrUse
  deriving DecidableEq, Repr

structure Bus where
  reads : List RdJob
  writes : List WrJob
  deriving DecidableEq, Repr

/-- The tags returned with a word read from a work port (Table 5.6). -/
structure PortTags where
  idle : Bool
  first : Bool
  last : Bool
  valid : Nat
  ptag : Nat
  deriving DecidableEq, Repr

/-- A transfer presented at a port group by the command (log 13: DESIGN CHOICE). -/
inductive PortOut where
  | hostRead (rid : Nat) (v : W64)
  | memRead (port : Port) (tag : Nat) (addr : W64) (len : Nat)
  | memWrite (port : Port) (tag : Nat) (addr : W64) (data : List Byte)
  | msix (vector : Nat)
  | engWord (leaf : Nat) (word : W256) (tags : PortTags)
  | noMark (leaf : Nat)
  | sectEnd (leaf : Nat) (level : Bool)
  | shadowQual (leaf : Nat) (level : Bool)
  | tokRsp (leaf slot : Nat) (status : Status) (arg : W64) (hdr src : W64) (data : W256)
  | qWake (leaf q : Nat)
  | linkTx (port : Nat) (frame : BitVec 576)
  | readOut (data : W128) (check : BitVec 24) (stat : Nat)
  | uartTx (ch : Byte)
  | mgtRead (v : W32)
  | secReq (bytes : List Byte)
  | gateReq (gate : Gate) (off : Bool)
  | rebase (obj : PairObj) (d : W32)
  | dcpRead (v : W32)
  | dcpData (v : W64)
  | dcpFault
  deriving DecidableEq, Repr

/-! ### Front end and launch table -/

/-- Submission ring states, Table 10.2. -/
inductive RingState where
  | disabled | idle | active | held | stopped
  deriving DecidableEq, Repr

/-- The fetch of a ring: the read's tag while it is in flight, then the entries still to be taken. -/
structure Fetch where
  tag : Option Nat
  left : List (List Byte)
  deriving DecidableEq, Repr

/-- A submission ring (Tables 10.1, 13.16, 13.18). `stopFc` is the FC of the cycle in which the ring last stopped: a write of that same
cycle meets the hardware update under Table 0.2. -/
structure Ring where
  base : W64
  en : Bool
  gen : Bool
  log2 : BitVec 5
  dseq : W32
  head : W32
  tail : W32
  err : Byte
  cfgIgn : Bool
  stopReq : Bool
  pendingDb : Bool
  st : RingState
  snap : W32
  fetch : Option Fetch
  stopFc : Option W64
  deriving DecidableEq, Repr

/-- A hardware context (Table 13.16). `cplNext` is the index of the next completion entry to be written,
`irqPend` the qualifying entries acknowledged and not yet covered by an interrupt, `irqFrom` the FC at the first of them (R302);
`mboxTaken` says that the firmware has taken the message that is unanswered. -/
structure Ctx where
  isOpen : Bool
  rev : Nat
  svc : Bool
  cplIgn : Bool
  cseq : W32
  cplBase : W64
  cplEn : Bool
  cplLog2 : BitVec 5
  cplHead : W32
  cplTail : W32
  cplNext : W32
  irq : W32
  irqPend : Nat
  irqFrom : W64
  cancelMiss : Bool
  mboxIn : Tab W32
  mboxOut : Tab W32
  mboxBusy : Bool
  mboxBusyErr : Bool
  mboxReply : Bool
  mboxTaken : Bool
  rings : Tab Ring
  deriving DecidableEq, Repr

/-- How far a taken command has come (Table 10.7). A `refused` one broke its form (R290). -/
inductive CmdStage where
  | refused
  | posted
  | running
  | record
  | wait (timeout : W32) (onto : Bool) (value : W64) (since : W64)
  | fence (all : Bool)
  | returned
  deriving DecidableEq, Repr

/-- A command taken and not completed (R301). `seq` is the order of taking; `ops` holds Gen B bytes 63 to 16. -/
structure Cmd where
  seq : Nat
  id : CmdId
  op : Nat
  irq : Bool
  userdata : W64
  ops : BitVec 384
  consumed : W32
  stage : CmdStage
  deriving DecidableEq, Repr

/-- One launch that completed in the current or the previous check interval, with the banks it sent operations to in each
(R344). -/
structure LedgerEntry where
  id : CmdId
  slot : Nat
  banks : W64
  banksPrev : W64
  old : Bool
  deriving DecidableEq, Repr

/-- A request entry of the launch table (Table 13.22). `held` says that the front end still holds its command at the head of its ring by
back-pressure (Table 10.7): the request has not been posted. -/
structure Req where
  id : CmdId
  svc : Bool
  op : Nat
  ops : BitVec 384
  held : Bool
  deriving DecidableEq, Repr

/-- The front end. `opened` says that a context has been opened since boot (R388), `rr` is the context last served per level (R285); `order`
the rings whose fetch reads have returned with entries not yet taken, in the order of return (R285); `cancels` cancellations that wait for
a free request entry (R16, R296); `posts` are RING_ERROR and FAULT entries that wait for space (R299, R300, R344). -/
structure FrontEnd where
  opened : Bool
  ctxs : Tab Ctx
  cmds : List Cmd
  seq : Nat
  rr : Tab Nat
  order : List (Nat × Nat)
  cancels : List Req
  ledger : List LedgerEntry
  entry : BitVec 512
  posts : List (Nat × BitVec 512)
  deriving DecidableEq, Repr

/-- A return entry (Table 13.22); `kind` 0 COMMAND, 1 NOTIFY, 2 INSPECT, 3 a report to the firmware (R153).
`slot` is the launch slot it frees when popped; `fe` says whether the front end has turned it into an entry, `popped` whether the firmware has
freed it while the front end's entry still waits (R299). -/
structure Ret where
  kind : Nat
  id : CmdId
  svc : Bool
  op : Nat
  status : Status
  value : W64
  note : W32
  prog : W64
  stepv : W64
  mode : Byte
  part : Nat
  last : Bool
  data : W256
  slot : Option Nat
  fe : Bool
  popped : Bool
  deriving DecidableEq, Repr

structure LaunchTable where
  reqs : List Req
  rets : List Ret
  staged : BitVec 512
  deriving DecidableEq, Repr

/-! ### Graphs and launches -/

inductive GraphSt where
  | loading | resident | unloading
  deriving DecidableEq, Repr

/-- A LOAD_GRAPH or PATCH_GRAPH whose image is being read (R451): the bytes of the image read so far, in ascending order from its first, the
number to be read before the next check, and whether a read met an error. -/
structure ImageLoad where
  id : CmdId
  addr : W64
  bytes : List Byte
  want : Nat
  header : Bool
  bad : Bool
  deriving DecidableEq, Repr

/-- One patch: its place in the order of epochs, its run, the copies it made in the order of its entries (R62, R452). -/
structure Patch where
  ord : Nat
  base : Nat
  copies : List (Nat × Desc)
  deriving DecidableEq, Repr

/-- A live epoch (R63): its number modulo 256, its place in the order of epochs, its RELEASE count (R154). -/
structure Epoch where
  num : Nat
  ord : Nat
  relCount : Nat
  deriving DecidableEq, Repr

/-- A resident, loading or unloading graph; `survey` marks one that the firmware loads for the survey (R359). -/
structure Graph where
  st : GraphSt
  key : W64
  prog : W64
  nNodes : Nat
  nEdges : Nat
  edgeBase : Nat
  descBase : Nat
  affBase : Nat
  descs : List Desc
  patches : List Patch
  epochs : List Epoch
  affinity : Tab Nat
  racing : Bool
  damaged : Bool
  ordinal : W32
  load : Option ImageLoad
  patch : Option ImageLoad
  unload : Option CmdId
  survey : Bool
  deriving DecidableEq, Repr

/-- A run of the descriptor store whose bytes R130 still holds after its owner gave it up. -/
structure HeldRun where
  base : Nat
  len : Nat
  tasks : List Nat
  deriving DecidableEq, Repr

/-- The stores of graphs. `dcache` lists, per set, its lines (way, descriptor-store line, filled), the last used first. -/
structure GraphStore where
  graphs : Tab Graph
  edge : Tab W32
  keys : Nat
  dcache : Tab (List (Nat × Nat × Bool))
  heldRuns : List HeldRun
  deriving DecidableEq, Repr

inductive LPhase where
  | bases | wake | running | swept (final : Nat) | returned
  deriving DecidableEq, Repr

/-- A launch in its slot (R54 to R60). -/
structure Launch where
  id : CmdId
  svc : Bool
  graph : Nat
  epoch : Nat
  epochOrd : Nat
  base : Nat
  nodes : Nat
  bases : List W64
  seedidx : W32
  wdigest : W64
  idigest : W64
  mode : Byte
  stepv : W64
  ordinal : W32
  phase : LPhase
  failed : Option Status
  instTs : W64
  initSum : Nat
  applied : Nat
  touch : W64
  touchPrev : W64
  parent : Option (Nat × Nat)
  relReserved : Nat
  deriving DecidableEq, Repr

/-- Launch counters, the identity they were counted for, and the FC at its take (R414, R415). -/
structure LCount where
  id : CmdId
  svc : Bool
  fc : W64
  issues : Nat
  naks : Nat
  busy : Nat
  deriving DecidableEq, Repr

/-- A SET_MODE taken and not yet applied (R295). -/
structure ModeReq where
  id : CmdId
  mode : W32
  mask : W32
  deriving DecidableEq, Repr

structure Launches where
  slots : Tab Launch
  rowPtr : Nat
  modes : List ModeReq
  counts : Tab LCount
  deriving DecidableEq, Repr

/-! ### Counter banks -/

/-- Node states, Table 2.3. -/
inductive NState where
  | idle | armed | ready | rangeHeld | issued | running | done | failed | timedOut | cancelled
  deriving DecidableEq, Repr

/-- A node word (Table 2.2) and its start bit (R74). -/
structure NodeRec where
  mask : W32
  flags : W32
  affinity : Nat
  launch : Nat
  shadow : Bool
  evmode : Bool
  epoch : Nat
  prio : Nat
  st : NState
  pend : Nat
  start : Bool
  deriving DecidableEq, Repr

/-- Bank operations, Table 3.1. -/
inductive OpKind where
  | dec | evt | decEvt | cancel
  deriving DecidableEq, Repr

/-- An operation on its way to, or in, the input queue of a bank. -/
structure BankOp where
  kind : OpKind
  g : Nat
  slot : Nat
  bit : Nat
  walker : Nat
  cq : Nat
  deriving DecidableEq, Repr

/-- A ready entry (R81 to R83); `offered` is the FC since which it has been at the head of its outbox and offered to its list. -/
structure REntry where
  g : Nat
  slot : Nat
  level : Nat
  age : Nat
  offered : Option W64
  void : Bool
  waited : Bool
  affWait : Bool
  deriving DecidableEq, Repr

/-- A completed node in the completion queue: `next` edges sent, `left` operations sent and not applied (R78, R80). -/
structure CqEntry where
  idx : Nat
  slot : Nat
  g : Nat
  first : Nat
  count : Nat
  next : Nat
  left : Nat
  skipped : Bool
  deriving DecidableEq, Repr

/-- A walker at work on a span (R78): the completion-queue entry, the next edge of its node and the end of its span, and the operations of the
line it has read that wait for their banks' input queues, with those banks. -/
structure Walker where
  cq : Nat
  next : Nat
  stop : Nat
  wait : List (Nat × BankOp)
  deriving DecidableEq, Repr

/-- A comparison of a walker and bank pair that waits behind a record (R333, Table 12.12): the pair, what was sent and accepted, and the launches
that sent to the bank in its interval. -/
structure HeldCompare where
  pair : Nat
  sent : Nat
  accepted : Nat
  launches : List (Nat × CmdId)
  deriving DecidableEq, Repr

/-- The banks, the completion queue and the walkers. `queue` holds the input queues, of 16 entries each; `tallies` what the root formed for each
stub's interval report and `reported` what the stubs reported (R342). -/
structure Banks where
  nodes : Tab NodeRec
  queue : Tab (List BankOp)
  outbox : Tab (List REntry)
  cq : List CqEntry
  walkers : Tab Walker
  heldCmp : List HeldCompare
  sent : Tab Nat
  accepted : Tab Nat
  latchedSent : Tab Nat
  latchedAcc : Tab Nat
  tallies : Tab (Nat × Nat)
  reported : Tab (Nat × Nat)
  intervalFrom : W64
  deriving DecidableEq, Repr

/-! ### Dispatch -/

/-- A scoreboard entry: the range as declared (Table 2.8), the node, and its task; without one it is only held (R113). -/
structure SbEntry where
  range : W64
  g : Nat
  task : Option Nat
  deriving DecidableEq, Repr

/-- A node in an affinity-wait slot, since the FC of its placement (R102). -/
structure AffWait where
  disp : Disp
  g : Nat
  leaf : Nat
  since : W64
  deriving DecidableEq, Repr

/-- A SECTION's reservation of its members, the earlier first (R116). -/
structure Resv where
  g : Nat
  prio : Nat
  members : List Nat
  deriving DecidableEq, Repr

/-- What a task issued to engines is: a graph node, a tile of a ROUTE, or a cold fetch. -/
inductive TaskKind where
  | node
  | tile (chan j idx : Nat)
  | fetch (chan idx : Nat)
  deriving DecidableEq, Repr

/-- One packet of a task: the leaf, shadow copy or not, taken, the report (status, DIGEST, TOKDIG) once received with the FC
of its reception, and whether the packet has been released. -/
structure Copy where
  leaf : Nat
  shadow : Bool
  taken : Bool
  report : Option (Status × Nat × Nat)
  failAt : Nat
  released : Bool
  deriving DecidableEq, Repr

/-- A task issued and not yet completed; `idx` is its completion-queue entry (R77). `ended` says that its node has ended
already, so that what is still reported of it is discarded (Table 4.3, R346, R350). `body` is where its descriptor lies in the descriptor
store (R130), `commit` the FC of its commit (R342). -/
structure Task where
  idx : Nat
  kind : TaskKind
  slot : Nat
  g : Nat
  op : Nat
  body : Nat
  commit : W64
  copies : List Copy
  ended : Bool
  deriving DecidableEq, Repr

/-- A parcel of the parcel table (Tables 4.1, 4.2). -/
structure Parcel where
  first : Nat
  depth : Nat
  members : List Nat
  deriving DecidableEq, Repr

/-- The dispatchers. `shared` holds, at 16 × list + level, the entries of that level in the shared part of the list (R81), `took` per list the FC of
the last entry taken and how many it took then (R82); list 0 is the root's, list r + 1 that of region r. -/
structure Dispatch where
  root : List REntry
  regs : Tab (List REntry)
  shared : Tab Nat
  took : Tab (W64 × Nat)
  sbRoot : List SbEntry
  sbReg : Tab (List SbEntry)
  waits : List AffWait
  rot : Tab Nat
  resv : List Resv
  tasks : List Task
  age : Nat
  parcels : Tab Parcel
  deriving DecidableEq, Repr

/-! ### Engines -/

/-- A packet in a work port (R126 to R135): `sent` is the FC of its commit, `beats` how many beats of it the stub has written.
`fallow` says that an access of its task met a fallow bank (R412). -/
structure Pkt where
  task : Nat
  slot : Nat
  g : Nat
  ctx : Nat
  epoch : Nat
  op : Nat
  shadow : Bool
  words : List W256
  valid : Nat
  sent : W64
  beats : Nat
  bodyWait : Bool
  noticed : Bool
  ptag : Nat
  taken : Bool
  tokdig : Nat
  sectEnd : Bool
  hung : Bool
  fallow : Bool
  deriving DecidableEq, Repr

/-- A point in the chain: word `w` of the packet with tag `ptag`, or past the last noticed packet. -/
inductive Pt where
  | past
  | at (ptag w : Nat)
  deriving DecidableEq, Repr

/-- Where a token of a SEND stands: held behind its pair (R187), held for LINK_KEY (R195), sent, answered. -/
inductive TgtSt where
  | held | keyHeld | sent | fin
  deriving DecidableEq, Repr

/-- One token of a SEND: the multicast target's number (0 for a unicast) and the header it carries. -/
structure Tgt where
  i : Nat
  hdr : W64
  st : TgtSt
  deriving DecidableEq, Repr

/-- An operation slot of the token interface (R178, Table 15.4): the operation, its packet, its operands, when it was
presented (FC and order), and for a SEND its tokens and the masks gathered so far. -/
structure OpSlot where
  code : Nat
  ptag : Nat
  slot : Nat
  g : Nat
  ctx : Nat
  epoch : Nat
  hdr : W64
  payload : W256
  arg : W64
  timeout : Nat
  fc : W64
  seq : Nat
  tgts : List Tgt
  fullMask : W32
  failMask : W32
  worst : Status
  deriving DecidableEq, Repr

/-- The engine side of a leaf: its work port, credit, thread contexts, heartbeat and token interface. `secHeld` words of
credit are held by the SECTION task `secTask` (R115); `asm` is the port's assembly register (R126); `hung` stands from a HANG decision to the next pulse (R346). -/
structure Engine where
  pkts : List Pkt
  asm : W256
  rp : Pt
  sp : Option Pt
  blocked : Option (BitVec 21 × W64)
  reqAge : Nat
  used : Nat
  secHeld : Nat
  secTask : Option Nat
  threads : Nat
  silence : Nat
  hung : Bool
  ops : Tab OpSlot
  lastRead : Option (Nat × Nat)
  deriving DecidableEq, Repr

/-- A report of a released or hung packet on its way to the root (R143, R346). -/
structure Report where
  task : Nat
  slot : Nat
  g : Nat
  leaf : Nat
  code : Byte
  digest : W64
  tokdig : Nat
  hang : Bool
  deriving DecidableEq, Repr

/-- Reports and credits on their way: taken reports (leaf, task), credit returns (leaf, words, thread contexts, task). -/
structure Reports where
  takens : List (Nat × Nat)
  credits : List (Nat × Nat × Nat × Nat)
  reports : List Report
  reqAge : Nat
  deriving DecidableEq, Repr

/-! ### Tokens, combining, signals -/

/-- Who sent a token: an engine's operation slot (and the multicast target), a combining queue's result (part 0 or 1),
the routing engine's tally token, the SFU's result to its request `n`, or a peer chip through a link port. -/
inductive Sender where
  | engine (leaf opslot target : Nat)
  | comb (q tag part : Nat)
  | tally (slot chan j : Nat)
  | sfu (n : Nat)
  | link (port opslot : Nat)
  deriving DecidableEq, Repr

/-- A token on the fabric or in a queue (R173, R352). -/
structure Tok where
  hdr : W64
  src : W64
  payload : W256
  ddig : W64
  sender : Sender
  deriving DecidableEq, Repr

/-- An acknowledgement on its way back to the sender. -/
structure Ack where
  tok : Tok
  status : Status
  deriving DecidableEq, Repr

/-- A receive queue (R179, R180). -/
structure RQueue where
  isOpen : Bool
  sel : Bool
  leaf : Nat
  slot : Nat
  g : Nat
  epoch : Nat
  group : Byte
  last : Option Nat
  toks : List Tok
  deriving DecidableEq, Repr

/-- An entry of a decision log (Table 15.6). -/
structure LogEntry where
  fc : W64
  src : Nat
  schip : Nat
  qidx : Nat
  status : Nat
  tag : Nat
  deriving DecidableEq, Repr

structure Tokens where
  queues : Tab RQueue
  flight : List Tok
  acks : List Ack
  fulls : List ((Nat × Nat × Nat × Nat) × Nat)
  groups : Tab (List W32)
  routes : Tab W32
  log : Tab (List LogEntry)
  logPtr : Tab Nat
  opSeq : Nat
  deriving DecidableEq, Repr

/-- Where a tag stands: open, closed and to be delivered, delivery under way or held for a LINK_KEY, or held for a STAT (R202, R209). -/
inductive TagSt where
  | opened | closed | writing | sending (acked : Nat) | keyHeld (part : Nat) | held
  deriving DecidableEq, Repr

/-- An accumulator (R202 to R208, R352). For MAX and MIN `a` is the value kept, valid when `any`. -/
structure Tag where
  q : Nat
  tag : Nat
  st : TagSt
  a : Int
  any : Bool
  nan : Bool
  pinf : Bool
  ninf : Bool
  neg0 : Bool
  fast : W32
  count : Nat
  dsum : Nat
  remote : Bool
  status : Status
  orphan : Bool
  deriving DecidableEq, Repr

structure Combining where
  queues : Tab W256
  tags : List Tag
  intake : List Tok
  deriving DecidableEq, Repr

/-- A signal counter (R213); `ecc` is set while Table 12.4 has it answer ECC_UNCORR. -/
structure Sig where
  raised : W32
  taken : W32
  owner : Option Nat
  ecc : Bool
  deriving DecidableEq, Repr

/-- A signal operation on its way to the root, or a TAKE pending there (R214). -/
structure PendTake where
  ctr : Nat
  leaf : Nat
  opslot : Nat
  n : Nat
  timed : Bool
  since : W64
  deriving DecidableEq, Repr

/-- A circular region (Table 7.10, R217). -/
structure CReg where
  entry : W128
  v : W32
  p : W32
  c : W32
  ecc : Bool
  deriving DecidableEq, Repr

/-- A pending acquisition (`wait` false, `n` slots) or wait (`wait` true, for target `n`) at a region (R217). -/
structure PendCr where
  creg : Nat
  leaf : Nat
  opslot : Nat
  wait : Bool
  n : Nat
  timed : Bool
  since : W64
  deriving DecidableEq, Repr

/-- An operation held until a rebase of its object completes or its dispatcher has room (R170, R217): an engine's, by its
slot, or a raise of Denut's own by `own`. -/
structure HeldOp where
  obj : PairObj
  leaf : Nat
  opslot : Nat
  own : Option Nat
  deriving DecidableEq, Repr

/-- A signal operation whose identifier's map entry is being read: a RAISE or TAKE of an engine by its slot, or a raise of Denut's own by `own` (R213,
R214). -/
structure MapWait where
  ctx : Nat
  id : Nat
  leaf : Nat
  opslot : Nat
  own : Option Nat
  deriving DecidableEq, Repr

/-- Signals, events and circular regions. `map` and `emap` are the maps as Denut has written them, by which counters and events are bound; `cache` and
`ecache` the cached entries, the last used first (R213, R293). -/
structure Signals where
  map : Tab W32
  cache : List (Nat × W32)
  mapWaits : List MapWait
  ctrs : Tab Sig
  takes : List PendTake
  emap : Tab W32
  ecache : List (Nat × W32)
  events : Tab W64
  evEcc : List Nat
  cregs : Tab CReg
  crWaits : List PendCr
  rebases : List (PairObj × W32)
  held : List HeldOp
  deriving DecidableEq, Repr

/-! ### Routing and the SFU -/

/-- A closed tile: its expert is not HOT or STAGED yet and its block is unwritten (log 29: DEDUCED), the block write is out, the tile
is a candidate, it is issued. -/
inductive TileSt where
  | waiting | writing | acked | issued
  deriving DecidableEq, Repr

/-- A closed tile (R232 to R235, R243). -/
structure Tile where
  j : Nat
  expert : Nat
  half : Nat
  recs : List W64
  st : TileSt
  age : Nat
  deriving DecidableEq, Repr

/-- A running ROUTE (R222 to R247): `bufs` holds the logits of reserved tokens, `complete` the complete unscored tokens in
order, `scored0` and `scored1` the tokens scored per half, `lists` the records of expert e and half h at 2e + h. -/
structure Route where
  slot : Nat
  chan : Nat
  g : Nat
  layer : W256
  batch : Nat
  tile : Nat
  outBase : W64
  tokBase : W64
  combq : Nat
  chunks : List Nat
  bufs : Tab (Tab W32)
  complete : List Nat
  scored0 : Nat
  scored1 : Nat
  rowsOut : Nat
  lists : Tab (List W64)
  looked : List Nat
  tiles : List Tile
  nextTile : Nat
  counts : Tab Nat
  tallyLeft : List Nat
  tallyOut : List Nat
  deriving DecidableEq, Repr

/-- An entry in the gazetteer cache: the entry of Table 8.5 with USERS kept by Denut. -/
structure Gaz where
  entry : W256
  use : Nat
  deriving DecidableEq, Repr

/-- A staging slot in use: the expert's gazetteer index and entry, the order of its last tile commit (R243). -/
structure Stage where
  idx : Nat
  entry : W256
  last : Nat
  deriving DecidableEq, Repr

structure Routing where
  layers : Tab W256
  routes : List Route
  gcache : Tab Gaz
  stages : Tab Stage
  fetchWait : List (Nat × Nat × Nat)
  holders : Tab (Nat × List Nat)
  clock : Nat
  deriving DecidableEq, Repr

/-- A function table image (R268): the 32-byte header and the segments' coefficients. -/
structure FnTab where
  hdr : W256
  segs : List (W32 × W32 × W32)
  deriving DecidableEq, Repr

/-- A function slot: its two banks and which is in force (R267, R277). -/
structure FnSlot where
  a : Option FnTab
  b : Option FnTab
  cur : Bool
  deriving DecidableEq, Repr

/-- A running STAT (R252 to R263): whether it runs on the RMS lanes, the queue entries and the banks in force at its issue, the control block once read, the
consumed components at 3·row + component (value, flags, REMOTE, status), the rows whose components are all consumed in that
order, how many rows are finished, how many row writes are out. -/
structure Stat where
  slot : Nat
  g : Nat
  rows : Nat
  dst : W64
  finish : Nat
  rms : Bool
  fast : Bool
  combq : Nat
  qs : Tab W256
  block : Option W256
  got : Tab (Int × Nat × Bool × Status)
  ready : List Nat
  finished : Nat
  writesOut : Nat
  banks : W32
  deriving DecidableEq, Repr

/-- An accepted evaluation request, its number, the bank it was decided on, whether its result is out. -/
structure EvalReq where
  n : Nat
  tok : Tok
  bank : Bool
  sent : Bool
  deriving DecidableEq, Repr

structure Sfu where
  slots : Tab FnSlot
  stats : List Stat
  intake : List EvalReq
  seq : Nat
  deriving DecidableEq, Repr

/-! ### Standing service, faults, trace, replay, management, links, chainage, power -/

/-- A service request in the pending window (Table 10.13, R307). -/
structure SvcReq where
  w : BitVec 512
  order : Nat
  admissible : Bool
  expired : Bool
  deriving DecidableEq, Repr

/-- A batch slot (R308); `fresh` while it has been admitted at the step that is next or in flight. -/
structure BatchSlot where
  w : BitVec 512
  steps : W32
  fresh : Bool
  deriving DecidableEq, Repr

/-- The standing service (R305 to R310). `lastStep` and `lastCairn` are what the last completed step's results carry, `results` the
entries that wait for room in the result ring, `resNext` the index of the next one written. -/
structure Service where
  run : Bool
  stopping : Option Bool
  ctx : Nat
  gid : Nat
  block : BitVec 512
  reqHead : W32
  reqTail : W32
  reqSnap : W32
  reqPend : Bool
  resHead : W32
  resTail : W32
  resNext : W32
  resSeq : W32
  window : List SvcReq
  order : Nat
  batch : Tab BatchSlot
  inFlight : Bool
  writing : Bool
  stepDone : Bool
  lastStep : W64
  lastCairn : W256
  results : List (BitVec 512)
  stopCmds : List CmdId
  deriving DecidableEq, Repr

/-- A fault record (Table 12.1). -/
structure FRec where
  fseq : W32
  status : Status
  mech : Nat
  unit : Nat
  plane : Nat
  ctx : Option Nat
  launch : Option Nat
  node : Option Nat
  eng : Option Nat
  charge : Bool
  detail : W64
  ts : W64
  deriving DecidableEq, Repr

/-- A record in the summary: whether the firmware has begun to serve it, whether its FAULT entry is done, whether its
signature is acknowledged (R334). -/
structure FEntry where
  record : FRec
  served : Bool
  posted : Bool
  acked : Bool
  deriving DecidableEq, Repr

/-- History of a unit as the firmware keeps it from the boot block and the exports (R363, R364): stamps of charged events and of
survey failures, charged events in all, whether its last survey failed it, whether two in a row have. -/
structure UnitHist where
  stamps : List Nat
  total : Nat
  failStamps : List Nat
  lastFailed : Bool
  twice : Bool
  deriving DecidableEq, Repr

/-- A record waiting at its source, with the answers that wait behind it (R333, Table 12.12) and the FAULT entries, by context, that will carry its
index (R344). -/
structure WRec where
  record : FRec
  outs : List PortOut
  late : List (Nat × BitVec 512)
  deriving DecidableEq, Repr

/-- The fault summary and what the firmware keeps for it. `scrub` holds the next word of each bank and each slice by unit code (R336), `corrected` the
words whose last scrub visit corrected them (R337); `passed` and `failed` the units of the survey, `again` those that its second pass tests
once more (R362). -/
structure FaultSummary where
  recs : Tab FEntry
  waiting : List WRec
  fseq : W32
  hedgeSite : List Nat
  hedgeEdge : List Nat
  sigs : List (Nat × List Byte)
  sigPos : Nat
  hist : Tab UnitHist
  corrected : List (Nat × Nat)
  scrub : Tab Nat
  passed : List Nat
  failed : List Nat
  again : List Nat
  deriving DecidableEq, Repr

structure Trace where
  buf : List W256
  dropped : Nat
  firstTs : W64
  staged : W256
  rdIdx : Nat
  spillHead : W32
  spillTail : W32
  spillOut : Nat
  deriving DecidableEq, Repr

/-- A staged replay record: its slots, and the read that will give its IMGDIG (R326). -/
structure RRec where
  slots : List W256
  img : Option CmdId
  glob : Bool
  deriving DecidableEq, Repr

structure Replay where
  stage : List RRec
  recording : Bool
  lseq : W32
  head : W32
  tail : W32
  full : Bool
  cfgErr : Bool
  headErr : Bool
  dropW : Bool
  startFc : W64
  deriving DecidableEq, Repr

/-- Monitor channel and management port. `answer` holds the lines of the last monitor answer (log 15: DESIGN CHOICE). -/
structure Mon where
  tx : List Byte
  rx : List Byte
  rxOver : Bool
  answer : List (List (String × Nat))
  result : Option Status
  statUnread : Bool
  healthUnread : Bool
  deriving DecidableEq, Repr

/-- A link endpoint (R445, Table 15.4). -/
structure Link where
  up : Bool
  txSeq : W32
  rxSeq : W32
  peerAck : W32
  unconf : List (BitVec 576 × Nat × W64)
  discarding : Bool
  owed : Bool
  owedFrom : W64
  tokSent : W64
  tokRcvd : W64
  ackSent : W64
  ackRcvd : W64
  deriving DecidableEq, Repr

structure Links where
  key : W64
  pendKey : Option W64
  ports : Tab Link
  holdSends : List (Nat × Nat)
  deriving DecidableEq, Repr

/-- An entry of the release or section-end watch: node, a section's task, stream, target; when it was found reached (the cycle and the
distance then), and whether a section's notice has risen. -/
structure Watch where
  slot : Nat
  g : Nat
  task : Nat
  stream : Nat
  target : W64
  found : Option (Nat × Nat)
  fired : Bool
  deriving DecidableEq, Repr

/-- An entry of the expiry or admission watch: request order, RSEQ, stream, target. -/
structure SvcWatch where
  order : Nat
  rseq : W32
  stream : Nat
  target : W64
  found : Option (Nat × Nat)
  deriving DecidableEq, Repr

/-- Chainage; `clock` counts the cycles of the power controller's island (R160). -/
structure Chainage where
  chain : Tab W64
  preref : W16
  release : List Watch
  sect : List Watch
  expiry : List SvcWatch
  admission : List SvcWatch
  clock : Nat
  deriving DecidableEq, Repr

/-- The power controller: fallow and waking banks, and the requests that the host chip has not acknowledged (true: gate, false:
restore). The data plane's reports: the timestamps since which it is idle (R405) and no launch is in flight (R408), the writes in flight at
each MU bank as its stub last reported them, the MU banks that something covers, and since when each other bank is uncovered (R410);
`upTs` is the timestamp at the end of boot. -/
structure Power where
  gates : List (Gate × Bool)
  cbFallow : Bool
  cbWaking : Bool
  muFallow : List Nat
  muWaking : List Nat
  idleFrom : Option W64
  launchFrom : Option W64
  muWrites : Tab Nat
  muCovered : List Nat
  muFrom : Tab W64
  upTs : W64
  deriving DecidableEq, Repr

/-- A host access held by DOZE or a freeze (R368), or an order of the controller held by DOZE: a drain, or a quick or full survey (R406). -/
inductive HostAccess where
  | write (off size : Nat) (v : W64)
  | read (off size rid : Nat)
  | order (survey : Option Bool)
  deriving DecidableEq, Repr

/-- The running side of the machine. `ram` holds the bytes of the DCP's local SRAM that its load or a commanded DCP write has set. -/
structure Dyn where
  outs : List PortOut
  fc : W64
  ts : W64
  free : Nat
  step : W64
  held : List HostAccess
  latch : List ((Nat × Nat) × W32)
  cnt : Tab W64
  bankTally : Tab Nat
  bus : Bus
  fe : FrontEnd
  lt : LaunchTable
  gs : GraphStore
  ls : Launches
  nb : Banks
  dp : Dispatch
  en : Tab Engine
  rep : Reports
  tk : Tokens
  cb : Combining
  sg : Signals
  rt : Routing
  sf : Sfu
  sv : Service
  fs : FaultSummary
  tr : Trace
  rp : Replay
  mn : Mon
  lk : Links
  ch : Chainage
  pw : Power
  ram : Tab Byte
  deriving DecidableEq, Repr

/-- The block without its command queue. -/
structure Block where
  cfg : Cfg
  d : Dyn
  deriving DecidableEq, Repr

/-- The state: the waiting commands, first in first out, and the block. -/
structure State where
  pending : List Instr
  m : Block
  deriving DecidableEq, Repr

/-- Reasons to stop with a fault. The block never stops on its own: every failure that the spec describes is a status, a
fault record or a refused command, and the run goes on. The one reason is kept for a step that no rule describes. -/
inductive Fault where
  /-- Raised by no command; safe, because a stopped run proves nothing. -/
  | unreachable
  deriving DecidableEq, Repr

/-- Reasons to refuse a command. -/
inductive Refusal where
  /-- Raised by Machine/Dispatch.lean for a command whose meaning is not written; safe, because nothing is claimed of it. -/
  | notModelled (mnemonic : String)
  deriving DecidableEq, Repr

/-! ### Reset -/

/-- Sparax 2304 as built (Table 16.3, R440). -/
def Build.sparax2304 : Build :=
  { nRegMax := 16, nSiteMax := 144, nEdgeMax := 1, slots := .sparax, linkMax := 9,
    memWinBase := 0, memWinSize := 0x0000400000000000 }

/-- No boot configuration block taken yet: every field 0 (DESIGN CHOICE, log 6). -/
def BootCfg.none : BootCfg :=
  { nReg := 0, nSite := 0, nEdge := 0, chipId := 0, flagged := false, serial := [], priv := 0, entropy := [],
    descBase := 0, descSize := 0, surveyBase := 0, surveySize := 0, fwAddr := 0, time := 0, muFallow := 0,
    muIdle := 0, cbIdle := 0, slots := [], disabled := [], links := [], hist := [] }

/-- The configuration side after POR_N, in boot phase 1 (R391, R399, Tables 13.2 to 13.15). -/
def Cfg.reset (build : Build) : Cfg :=
  { build := build, boot := .none, kept := none, phase := .p1, bootStat := 0, bootDone := false, rx := none,
    fwImage := [], porAsserted := false, sysAsserted := false, dntAsserted := false, frozen := false,
    freezeWait := false, doze := .awake, dozeReq := false, health := .service, drain := none,
    survey := { full := false, pass := 0, refused := false },
    det := false, cblk := 2, shfrac := 0, fwver := 0, ftv := 0, tokStall := 0x0100, hangLimit := 0x10,
    drainWait := 0x000186A0, surveyMode := false, gazBase := 0, stageBase := 0, stageSize := 0, stageSlot := 0,
    cfgIgn := false, mapIgn := false, rmsCtx := 0, sigMapBase := 0, evtMapBase := 0, traceEn := true,
    traceSpill := false, spillBase := 0, spillLog2 := 0, pcsLog2 := 16, pcsEn := false, dozeEn := true,
    dozeIdle := 1000, replayBase := 0, replayLog2 := 0, replayEn := false, now := 0, dcpRun := false, dcpEntry := 0,
    dcpHalted := false, baud := 115200, baudNext := none }

/-- The standing service when none runs. -/
def Service.none : Service :=
  { run := false, stopping := .none, ctx := 0, gid := 0, block := 0, reqHead := 0, reqTail := 0, reqSnap := 0, reqPend := false, resHead := 0,
    resTail := 0, resNext := 0, resSeq := 0, window := [], order := 0, batch := [], inFlight := false, writing := false,
    stepDone := false, lastStep := 0, lastCairn := 0, results := [], stopCmds := [] }

/-- The running side after POR_N (R391 and the Reset columns of chapter 13). -/
def Dyn.reset : Dyn :=
  { outs := [], fc := 0, ts := 0, free := 0, step := 0, held := [], latch := [], cnt := [], bankTally := [],
    bus := { reads := [], writes := [] },
    fe := { opened := false, ctxs := [], cmds := [], seq := 0, rr := [], order := [], cancels := [], ledger := [], entry := 0, posts := [] },
    lt := { reqs := [], rets := [], staged := 0 },
    gs := { graphs := [], edge := [], keys := 0, dcache := [], heldRuns := [] },
    ls := { slots := [], rowPtr := 0, modes := [], counts := [] },
    nb := { nodes := [], queue := [], outbox := [], cq := [], walkers := [], heldCmp := [], sent := [], accepted := [], latchedSent := [],
            latchedAcc := [], tallies := [], reported := [], intervalFrom := 0 },
    dp := { root := [], regs := [], shared := [], took := [], sbRoot := [], sbReg := [], waits := [], rot := [], resv := [], tasks := [],
            age := 0, parcels := [] },
    en := [], rep := { takens := [], credits := [], reports := [], reqAge := 0 },
    tk := { queues := [], flight := [], acks := [], fulls := [], groups := [], routes := [], log := [],
            logPtr := [], opSeq := 0 },
    cb := { queues := [], tags := [], intake := [] },
    sg := { map := [], cache := [], mapWaits := [], ctrs := [], takes := [], emap := [], ecache := [], events := [], evEcc := [],
            cregs := [], crWaits := [], rebases := [], held := [] },
    rt := { layers := [], routes := [], gcache := [], stages := [], fetchWait := [], holders := [], clock := 0 },
    sf := { slots := [], stats := [], intake := [], seq := 0 },
    sv := .none,
    fs := { recs := [], waiting := [], fseq := 0, hedgeSite := [], hedgeEdge := [], sigs := [], sigPos := 0,
            hist := [], corrected := [], scrub := [], passed := [], failed := [], again := [] },
    tr := { buf := [], dropped := 0, firstTs := 0, staged := 0, rdIdx := 0, spillHead := 0, spillTail := 0,
            spillOut := 0 },
    rp := { stage := [], recording := false, lseq := 0, head := 0, tail := 0, full := false, cfgErr := false,
            headErr := false, dropW := false, startFc := 0 },
    mn := { tx := [], rx := [], rxOver := false, answer := [], result := .none, statUnread := false,
            healthUnread := false },
    lk := { key := 0, pendKey := .none, ports := [], holdSends := [] },
    ch := { chain := [], preref := 0, release := [], sect := [], expiry := [], admission := [], clock := 0 },
    pw := { gates := [], cbFallow := false, cbWaking := false, muFallow := [], muWaking := [], idleFrom := none, launchFrom := none,
            muWrites := [], muCovered := [], muFrom := [], upTs := 0 },
    ram := [] }

/-- The machine right after reset: POR_N released, boot phase 1 beginning (R391, R399; log 6: DESIGN CHOICE), no command waiting. -/
def State.reset : State :=
  { pending := [], m := { cfg := Cfg.reset .sparax2304, d := .reset } }

end Sys2Proof.Machine
end

