-- ==== Sys2Proof/Machine/Bits.lean ====
section
/-! DEFINITION. Bit fields, little-endian bytes (R1, R2), sparse tables, sorting, the mixing function and permutation of R69,
the check codes of R335, R395 and Table 16.9, and digest arithmetic (R210). -/
namespace Sys2Proof.Machine

/-! ### Fields -/

/-- The `n` bits of `x` from bit `lo` up. -/
def bits (x lo n : Nat) : Nat := (x >>> lo) % 2 ^ n

/-- Bit `i` of `x`. -/
def bit (x i : Nat) : Bool := (x >>> i) % 2 == 1

/-- `x` with bits [lo + n - 1 : lo] replaced by `v`. -/
def setBits (x lo n v : Nat) : Nat := x - bits x lo n * 2 ^ lo + (v % 2 ^ n) * 2 ^ lo

def b2n (b : Bool) : Nat := if b then 1 else 0

def optNat (o : Option Nat) : Nat := o.getD 0

/-- Number of ones among the low `n` bits. -/
def popcount : Nat → Nat → Nat
  | 0, _ => 0
  | n + 1, x => x % 2 + popcount n (x / 2)

/-- The positions of the ones among the low `n` bits, ascending. -/
def onesFrom : Nat → Nat → Nat → List Nat
  | 0, _, _ => []
  | n + 1, i, x => if bit x i then i :: onesFrom n (i + 1) x else onesFrom n (i + 1) x

def ones (n x : Nat) : List Nat := onesFrom n 0 x

/-! ### Bytes -/

def leNat : List Byte → Nat
  | [] => 0
  | b :: t => b.toNat + 256 * leNat t

def leBytes : Nat → Nat → List Byte
  | 0, _ => []
  | n + 1, v => BitVec.ofNat 8 v :: leBytes n (v / 256)

/-- The `n`-byte little-endian number at byte `off`; bytes past the end read 0. -/
def leAt (bs : List Byte) (off n : Nat) : Nat := leNat ((bs.drop off).take n)

/-- Cuts a list into pieces of `n`, at most `fuel` of them. -/
def chunks (n : Nat) : Nat → List α → List (List α)
  | 0, _ => []
  | fuel + 1, l => if l.isEmpty then [] else l.take n :: chunks n fuel (l.drop n)

/-! ### Sparse tables -/

def tget : Tab α → Nat → Option α
  | [], _ => none
  | (k', v) :: t, k => if k = k' then some v else tget t k

def tgetD (t : Tab α) (k : Nat) (dflt : α) : α := (tget t k).getD dflt

def tdel : Tab α → Nat → Tab α
  | [], _ => []
  | (k', v) :: t, k => if k = k' then t else (k', v) :: tdel t k

def tput : Tab α → Nat → α → Tab α
  | [], k, v => [(k, v)]
  | (k', v') :: t, k, v =>
    if k < k' then (k, v) :: (k', v') :: t
    else if k = k' then (k, v) :: t
    else (k', v') :: tput t k v

/-- Write of a table whose unlisted entries read as `dflt`: the canonical form lists no such entry. -/
def tset [DecidableEq α] (t : Tab α) (k : Nat) (v dflt : α) : Tab α :=
  if v = dflt then tdel t k else tput t k v

/-- The canonical form of a table: keys strictly rising. -/
def tsorted : Tab α → Bool
  | [] => true
  | [_] => true
  | (a, _) :: (b, v) :: t => a < b && tsorted ((b, v) :: t)

/-- The canonical form of a table whose unlisted entries read as `dflt`. -/
def twf [DecidableEq α] (dflt : α) (t : Tab α) : Bool := tsorted t && t.all (fun e => e.2 ≠ dflt)

def tkeys (t : Tab α) : List Nat := t.map (·.1)

def tvals (t : Tab α) : List α := t.map (·.2)

/-- Updates an entry that is present; nothing else. -/
def tmod (t : Tab α) (k : Nat) (f : α → α) : Tab α := t.map (fun e => if e.1 = k then (e.1, f e.2) else e)

/-- The lowest of `n` numbers from `i` that is not in the list. -/
def firstFree : Nat → Nat → List Nat → Option Nat
  | 0, _, _ => none
  | n + 1, i, used => if used.contains i then firstFree n (i + 1) used else some i

/-- The lowest number not in the list (there are at most `used.length` in the way). -/
def freshNat (used : List Nat) : Nat := (firstFree (used.length + 1) 0 used).getD used.length

/-! ### Lists -/

def insertBy (le : α → α → Bool) (a : α) : List α → List α
  | [] => [a]
  | b :: t => if le a b then a :: b :: t else b :: insertBy le a t

/-- Stable insertion sort. -/
def isort (le : α → α → Bool) : List α → List α
  | [] => []
  | a :: t => insertBy le a (isort le t)

/-- The first element of least `f`. -/
def minBy (f : α → Nat) : List α → Option α
  | [] => none
  | a :: t =>
    match minBy f t with
    | none => some a
    | some b => if f a ≤ f b then some a else some b

/-- Removes the first element satisfying `p`. -/
def dropFirst (p : α → Bool) : List α → List α
  | [] => []
  | a :: t => if p a then t else a :: dropFirst p t

/-- Replaces each element satisfying `p` by its image. -/
def mapIf (p : α → Bool) (f : α → α) (l : List α) : List α := l.map (fun a => if p a then f a else a)

/-- Replaces the first element satisfying `p` by its image. -/
def mapFirst (p : α → Bool) (f : α → α) : List α → List α
  | [] => []
  | a :: t => if p a then f a :: t else a :: mapFirst p f t

def listSum (l : List Nat) : Nat := l.foldl (· + ·) 0

def listMax (l : List Nat) : Nat := l.foldl max 0

/-- The numbers lo, lo + 1, ..., lo + n - 1. -/
def upFrom (lo : Nat) : Nat → List Nat
  | 0 => []
  | n + 1 => lo :: upFrom (lo + 1) n

/-- Least recently used list: key `k` becomes the newest, with value `v`; the list keeps at most `n`. -/
def lruPut (l : List (Nat × α)) (k : Nat) (v : α) (n : Nat) : List (Nat × α) := ((k, v) :: l.filter (fun e => e.1 ≠ k)).take n

/-! ### Modular arithmetic -/

def p32 : Nat := 2 ^ 32
def p64 : Nat := 2 ^ 64
def max64 : Nat := 2 ^ 64 - 1

def w32 (n : Nat) : W32 := BitVec.ofNat 32 n
def w64 (n : Nat) : W64 := BitVec.ofNat 64 n
def w256 (n : Nat) : W256 := BitVec.ofNat 256 n

/-- Free-running 32-bit indices: the distance from `a` on to `b` (R281). -/
def dist32 (a b : W32) : Nat := (b - a).toNat

/-- Digest sum, modulo 2^64 - 1 (R210). -/
def digAdd (a b : Nat) : Nat := (a + b) % max64

/-- An exact sum folded to a digest (R210). -/
def digFold (s : Int) : Nat := (s % (max64 : Int)).toNat

/-- Digest of memory: the sum of its little-endian 64-bit words, the last padded with zero bytes (Table 8.5, Table 11.6). -/
def digBytes (bs : List Byte) : Nat :=
  (chunks 8 (bs.length / 8 + 1) bs).foldl (fun s c => digAdd s (leNat c)) 0

/-- The mixing function of R69. -/
def mix64 (z : Nat) : Nat :=
  let z := ((z ^^^ (z >>> 30)) * 0xBF58476D1CE4E5B9) % p64
  let z := ((z ^^^ (z >>> 27)) * 0x94D049BB133111EB) % p64
  z ^^^ (z >>> 31)

def bankRound (k q i hi lo : Nat) : Nat × Nat :=
  let t := mix64 (k ^^^ (q <<< 8) ^^^ i)
  (lo, hi ^^^ bits t (3 * lo) 3)

/-- The bank of node n of a graph with key k (R69). -/
def bankOf (k n : Nat) : Nat :=
  let q := n >>> 6
  let r0 := bankRound k q 0 (bits n 3 3) (bits n 0 3)
  let r1 := bankRound k q 1 r0.1 r0.2
  let r2 := bankRound k q 2 r1.1 r1.2
  let r3 := bankRound k q 3 r2.1 r2.2
  (r3.1 <<< 3) ||| r3.2

/-! ### Check codes -/

/-- One bit of a reflected CRC with polynomial `poly`. -/
def crcBit (poly c : Nat) : Nat := if c % 2 = 1 then (c / 2) ^^^ poly else c / 2

def crcByte (poly c b : Nat) : Nat :=
  let c := c ^^^ b
  crcBit poly (crcBit poly (crcBit poly (crcBit poly (crcBit poly (crcBit poly (crcBit poly (crcBit poly c)))))))

def crcRun (poly : Nat) : List Byte → Nat → Nat
  | [], c => c
  | b :: t, c => crcRun poly t (crcByte poly c b.toNat)

/-- CRC-32 of IEEE 802.3 (Table 14.2): polynomial 0x04C1_1DB7 reflected, all ones at start and end. -/
def crc32 (bs : List Byte) : Nat := crcRun 0xEDB88320 bs 0xFFFFFFFF ^^^ 0xFFFFFFFF

/-- CRC-32C (Table 16.9): polynomial 0x1EDC_6F41 reflected, all ones at start and end, over the 68 bytes of bits [543:0]
(the reflection and the constants are the code's usual ones: PRESUMED, log 20). -/
def crc32c (bs : List Byte) : Nat := crcRun 0x82F63B78 bs 0xFFFFFFFF ^^^ 0xFFFFFFFF

/-- Multiplication by x in the field of R335. -/
def gfX (a : Nat) : Nat := if a ≥ 128 then ((2 * a) % 256) ^^^ 0x1D else 2 * a

def gfMulGo : Nat → Nat → Nat → Nat
  | 0, _, _ => 0
  | n + 1, a, b => (if b % 2 = 1 then a else 0) ^^^ gfMulGo n (gfX a) (b / 2)

def gfMul (a b : Nat) : Nat := gfMulGo 8 a b

/-- One step of the division by (x + 1)(x + α)(x + α²) = x³ + 7x² + 14x + 8 over the field of R335. -/
def rsStep (r : Nat × Nat × Nat) (d : Nat) : Nat × Nat × Nat :=
  let f := r.2.2 ^^^ d
  (gfMul f 8, r.1 ^^^ gfMul f 14, r.2.1 ^^^ gfMul f 7)

/-- The check bytes c2, c1, c0 of a 128-bit word as 24 bits (R335). -/
def rsCheck (w : Nat) : Nat :=
  let r := (leBytes 16 w).reverse.foldl (fun r d => rsStep r d.toNat) (0, 0, 0)
  r.1 + 256 * r.2.1 + 65536 * r.2.2

end Sys2Proof.Machine
end

