-- ==== Sys2Proof/Machine/Flags.lean ====
section
/-! DEFINITION. Status codes and the boot, idle and health codes: the block's flag values (Tables 0.6, 5.8, 12.7, 14.5). -/
namespace Sys2Proof.Machine

/-- The 8-bit code of a status (Table 0.6). -/
def Status.code : Status → Nat
  | .ok => 0 | .full => 1 | .closed => 2 | .noRoute => 3 | .timeout => 4 | .eccCorr => 5 | .eccUncorr => 6
  | .digestMismatch => 7 | .shadowMismatch => 8 | .rangeFault => 9 | .bankFallow => 10 | .badDescriptor => 11
  | .epochRetired => 12 | .cancelled => 13 | .sendStall => 14 | .tableSeam => 15 | .coldFetchFail => 16
  | .determinism => 17 | .conservation => 18 | .hang => 19 | .linkDigest => 20

/-- The status of a code; codes 0x15 to 0xFF are not status codes (R11). -/
def Status.ofCode : Nat → Option Status
  | 0 => some .ok | 1 => some .full | 2 => some .closed | 3 => some .noRoute | 4 => some .timeout
  | 5 => some .eccCorr | 6 => some .eccUncorr | 7 => some .digestMismatch | 8 => some .shadowMismatch
  | 9 => some .rangeFault | 10 => some .bankFallow | 11 => some .badDescriptor | 12 => some .epochRetired
  | 13 => some .cancelled | 14 => some .sendStall | 15 => some .tableSeam | 16 => some .coldFetchFail
  | 17 => some .determinism | 18 => some .conservation | 19 => some .hang | 20 => some .linkDigest
  | _ => none

/-- Health codes of Table 12.7. -/
def Health.code : Health → Nat
  | .service => 0 | .draining => 1 | .drained => 2 | .survey => 3 | .flagged => 4

def Health.ofCode : Nat → Option Health
  | 0 => some .service | 1 => some .draining | 2 => some .drained | 3 => some .survey | 4 => some .flagged
  | _ => none

/-- Ring state codes of Table 10.2. -/
def RingState.code : RingState → Nat
  | .disabled => 0 | .idle => 1 | .active => 2 | .held => 3 | .stopped => 4

/-- Node state codes of Table 2.3. -/
def NState.code : NState → Nat
  | .idle => 0 | .armed => 1 | .ready => 2 | .rangeHeld => 3 | .issued => 4 | .running => 5 | .done => 6
  | .failed => 7 | .timedOut => 8 | .cancelled => 9

end Sys2Proof.Machine
end

