-- ==== Sys2Proof/Machine/Ops.lean ====
section
/-! DEFINITION. The operations every family shares: outcomes, gating, engine references, counters, fault records, trace
records, replay records, launch-table returns and the ports to memory. -/
namespace Sys2Proof.Machine

abbrev Res := Host.Outcome State Fault Refusal

/-! ### Running a command -/

/-- A command whose effect is a function of the block; the waiting commands are no part of it. The transfers presented by
the command before are taken back first (log 13: DESIGN CHOICE). -/
def runBlock (f : Block → Block) (s : State) : Res :=
  .next { s with m := f { s.m with d := { s.m.d with outs := [] } } }

/-- A command that changes only the running side. -/
def runDyn (f : Cfg → Dyn → Dyn) (s : State) : Res :=
  runBlock (fun b => { b with d := f b.cfg b.d }) s

/-- A change of the running side alone, as a change of the block. -/
def onD (b : Block) (f : Cfg → Dyn → Dyn) : Block := { b with d := f b.cfg b.d }

/-- Some reset input is asserted (R391). -/
def Cfg.inReset (k : Cfg) : Bool := k.porAsserted || k.sysAsserted || k.dntAsserted

/-- The dispatch and DCP clocks run: no reset, no freeze (R423), not DOZE (R405 to R407). -/
def Cfg.clocked (k : Cfg) : Bool := !k.inReset && !k.frozen && k.doze == .awake

/-- Denut is out of reset and its configuration has been written into the planes (phase 5 on, Table 14.4). -/
def Cfg.up (k : Cfg) : Bool := k.phase == .p5 || k.phase == .booted

/-- The data plane and the front end work: clocked, and boot complete (R399, R400). -/
def Cfg.serving (k : Cfg) : Bool := k.clocked && k.phase == .booted

/-- The firmware runs (R399 phase 5, R345). -/
def Cfg.fwRuns (k : Cfg) : Bool := k.clocked && k.dcpRun && !k.dcpHalted

/-- A row of the data plane or the front end: it happens only while they work (log 5: DESIGN CHOICE). -/
def runServing (f : Cfg → Dyn → Dyn) (s : State) : Res :=
  runDyn (fun k d => if k.serving then f k d else d) s

/-- A row of the firmware. -/
def runFw (f : Cfg → Dyn → Dyn) (s : State) : Res :=
  runDyn (fun k d => if k.fwRuns then f k d else d) s

/-- A row of the firmware that also writes the configuration side. -/
def runFwBlock (f : Block → Block) (s : State) : Res :=
  runBlock (fun b => if b.cfg.fwRuns then f b else b) s

def out (d : Dyn) (o : PortOut) : Dyn := { d with outs := d.outs ++ [o] }

/-! ### Engines -/

/-- An engine after reset: an empty port, nothing saved, all its credit free (Table 5.1). -/
def Engine.init : Engine :=
  { pkts := [], asm := 0, rp := .past, sp := none, blocked := none, reqAge := 0, used := 0, secHeld := 0, secTask := none,
    threads := 0, silence := 0, hung := false, ops := [], lastRead := none }

def getEng (d : Dyn) (l : Nat) : Engine := tgetD d.en l .init

def setEng (d : Dyn) (l : Nat) (e : Engine) : Dyn := { d with en := tset d.en l e .init }

def modEng (d : Dyn) (l : Nat) (f : Engine → Engine) : Dyn := setEng d l (f (getEng d l))

/-- Presents a transfer; the answer to a token-interface operation frees its operation slot (R178). -/
def emit (d : Dyn) (o : PortOut) : Dyn :=
  match o with
  | .tokRsp l j _ _ _ _ _ => out (modEng d l (fun e => { e with ops := tdel e.ops j })) o
  | _ => out d o

/-- A request to gate or to restore a power island (R449). -/
def gateReq (d : Dyn) (g : Gate) (off : Bool) : Dyn :=
  out { d with pw := { d.pw with gates := d.pw.gates.filter (fun x => x.1 ≠ g) ++ [(g, off)] } } (.gateReq g off)

/-- The host chip has acknowledged what was last asked of an island. -/
def gateAcked (d : Dyn) (g : Gate) : Bool := !d.pw.gates.any (fun x => x.1 = g)

/-! ### Engine references (R27 to R30) -/

def Cfg.nReg (k : Cfg) : Nat := k.boot.nReg
def Cfg.nSite (k : Cfg) : Nat := k.boot.nSite
def Cfg.nEdge (k : Cfg) : Nat := k.boot.nEdge

def leafRegion (l : Nat) : Nat := bits l 12 4
def leafStub (l : Nat) : Nat := bits l 4 8
def leafSlot (l : Nat) : Nat := bits l 0 4
def isParcelRef (l : Nat) : Bool := bit l 16
def mkLeaf (region stub slot : Nat) : Nat := region * 4096 + stub * 16 + slot

/-- The slot byte of a leaf (Table 14.3). -/
def Cfg.slotByte (k : Cfg) (l : Nat) : Nat :=
  (tgetD k.boot.slots (2560 * leafRegion l + 16 * leafStub l + leafSlot l) 0).toNat

def Cfg.stubExists (k : Cfg) (l : Nat) : Bool :=
  leafRegion l < k.nReg && (leafStub l < k.nSite || (144 ≤ leafStub l && leafStub l < 144 + k.nEdge))

def isRootRef (l : Nat) : Bool := l < 65536 && leafRegion l = 0 && 0xF0 ≤ leafStub l

/-- R28 for a leaf reference. -/
def Cfg.leafValid (k : Cfg) (l : Nat) : Bool :=
  l < 65536 && ((k.stubExists l && bit (k.slotByte l) 7) || isRootRef l)

def Cfg.unitDisabled (k : Cfg) (l : Nat) : Bool := k.boot.disabled.contains (160 * leafRegion l + leafStub l)

/-- A populated slot of a unit that is not disabled (R29). -/
def Cfg.present (k : Cfg) (l : Nat) : Bool :=
  l < 65536 && k.stubExists l && bit (k.slotByte l) 7 && !k.unitDisabled l

/-- Engine class of Table 1.7. -/
def Cfg.classOf (k : Cfg) (l : Nat) : Nat := bits (k.slotByte l) 0 4

/-- A task engine: present, of a class that accepts tasks. -/
def Cfg.taskEngine (k : Cfg) (l : Nat) : Bool := k.present l && k.classOf l ≠ 6

def Cfg.isWp2 (k : Cfg) (l : Nat) : Bool := bit (k.slotByte l) 6

/-- Every leaf reference with a populated slot byte, ascending. -/
def Cfg.allLeaves (k : Cfg) : List Nat :=
  (k.boot.slots.map (fun e => mkLeaf (e.1 / 2560) (e.1 % 2560 / 16) (e.1 % 16))).filter k.present

/-- Unit code of the unit a leaf belongs to (Table 12.3). -/
def unitOf (l : Nat) : Nat := (if 144 ≤ leafStub l then 4096 else 0) + bits l 4 12

/-- Bit of HEDGE_EDGE of an edge-stub slot (Table 13.21). -/
def edgeHedgeBit (l : Nat) : Nat := 16 * (16 * leafRegion l + leafStub l - 144) + leafSlot l

/-- The unit of a leaf is hedged (R357). -/
def hedged (d : Dyn) (l : Nat) : Bool :=
  if 144 ≤ leafStub l then d.fs.hedgeEdge.contains (edgeHedgeBit l)
  else d.fs.hedgeSite.contains (bits l 4 12)

/-! ### Counters (R375) -/

/-- Adds to the counter at a host-window offset, saturating. -/
def count (d : Dyn) (off n : Nat) : Dyn :=
  { d with cnt := tset d.cnt off (w64 (min max64 ((tgetD d.cnt off 0).toNat + n))) 0 }

def cReadyBp : Nat := 0x200
def cBankSkew : Nat := 0x208
def cSbFull : Nat := 0x218
def cShadowSkip : Nat := 0x220
def cPortErr : Nat := 0x228
def cTokDisc : Nat := 0x230
def cTsBack : Nat := 0x238
def cLinkSkew : Nat := 0x240
def cStageWait : Nat := 0x248
def cRmsDeny : Nat := 0x250
def cTableStep : Nat := 0x258
def cStatOrph : Nat := 0x260
def cReplayWait : Nat := 0x268
def cNodeTmo : Nat := 0x270
def cTokNak : Nat := 0x278
def cTraceLost : Nat := 0xA20
def cEccCe (store : Nat) : Nat := 0x300 + 8 * store
def cEccUe (store : Nat) : Nat := 0x340 + 8 * store
def cRegIssue (r : Nat) : Nat := 0x400 + 0x20 * r
def cRegBusy (r : Nat) : Nat := 0x408 + 0x20 * r
def cRegNak (r : Nat) : Nat := 0x410 + 0x20 * r

/-! ### Trace records (R418 to R422) -/

/-- A record: the head of Table 15.1 and the body in bytes 31 to 10. -/
def traceRec (ts : W64) (type plane body : Nat) : W256 :=
  w256 (ts.toNat + type * 2 ^ 64 + plane * 2 ^ 72 + body * 2 ^ 80)

def traceCap : Nat := 131072

/-- Room for a record that enters: the spilling buffer keeps one entry for a LOSS record; the ring overwrites its oldest. -/
def traceRoom (k : Cfg) (d : Dyn) : Bool := !k.traceSpill || d.tr.buf.length < traceCap - 1

def tracePush (d : Dyn) (w : W256) : Dyn :=
  { d with tr := { d.tr with buf := (d.tr.buf ++ [w]).drop (d.tr.buf.length + 1 - traceCap) } }

/-- The LOSS record, written once a record has room again (R422). -/
def traceLoss (k : Cfg) (d : Dyn) : Dyn :=
  if d.tr.dropped = 0 || !traceRoom k d then d
  else
    let d := tracePush d (traceRec d.ts 0x01 2 (d.tr.dropped + d.tr.firstTs.toNat * 2 ^ 64))
    { d with tr := { d.tr with dropped := 0, firstTs := 0 } }

/-- A record reaches the sink: it enters, is dropped for want of room, or TRACE_CTL.EN keeps it out (R20, R422). -/
def trace (k : Cfg) (d : Dyn) (type plane body : Nat) : Dyn :=
  if !k.traceEn then d
  else
    let d := traceLoss k d
    if traceRoom k d then tracePush d (traceRec d.ts type plane body)
    else count { d with tr := { d.tr with dropped := d.tr.dropped + 1,
                                          firstTs := if d.tr.dropped = 0 then d.ts else d.tr.firstTs } } cTraceLost 1

/-- A STATE record (Table 15.2). -/
def traceState (k : Cfg) (d : Dyn) (kind new old : Nat) : Dyn :=
  trace k d 0x05 2 (kind + new * 2 ^ 16 + old * 2 ^ 48)

/-! ### Fault records (R330 to R333) -/

/-- The plane of a unit: control for the DCP, the front end and the mailboxes, management for its parts, else data (Tables 12.1, 12.3). -/
def planeOf (unit : Nat) : Nat := if unit / 4096 = 6 then 1 else if unit / 4096 = 7 then 2 else 0

/-- A record against a unit, with nothing else set. -/
def frec (mech : Nat) (status : Status) (unit : Nat) : FRec :=
  { fseq := 0, status := status, mech := mech, unit := unit, plane := planeOf unit, ctx := none, launch := none, node := none,
    eng := none, charge := [0x01, 0x03, 0x04, 0x05, 0x06, 0x08, 0x09, 0x13].contains mech, detail := 0, ts := 0 }

/-- FLAGS of Table 12.1. -/
def FRec.flags (r : FRec) : Nat :=
  b2n r.ctx.isSome + 2 * b2n r.launch.isSome + 4 * b2n r.node.isSome + 8 * b2n r.eng.isSome + 16 * b2n r.charge

def FRec.planeCtx (r : FRec) : Nat := r.plane * 64 + optNat r.ctx

/-- The 32 bytes of a record (Table 12.1). -/
def FRec.word (r : FRec) : W256 :=
  w256 (r.fseq.toNat + r.status.code * 2 ^ 32 + r.mech * 2 ^ 40 + r.planeCtx * 2 ^ 48 + r.flags * 2 ^ 56
    + r.unit * 2 ^ 64 + optNat r.launch * 2 ^ 80 + optNat r.node * 2 ^ 96 + optNat r.eng * 2 ^ 120
    + r.detail.toNat * 2 ^ 128 + r.ts.toNat * 2 ^ 192)

/-- The entry kept for a DCP lockstep record (R333). -/
def lockstepEntry : Nat := 1023

/-- The entry a record would take: the lowest free one of its kind (log 17: DESIGN CHOICE). -/
def faultSlot (d : Dyn) (mech : Nat) : Option Nat :=
  if mech = 0x13 then (if (tget d.fs.recs lockstepEntry).isNone then some lockstepEntry else none)
  else firstFree lockstepEntry 0 (tkeys d.fs.recs)

/-- Every entry but the kept one is occupied. -/
def summaryFull (d : Dyn) : Bool := (faultSlot d 0).isNone

/-- Two records come from one source (R333): the mechanism at the unit and engine slot, for a pair of counts with its walker, for a launch's
conservation with the launch (Table 12.12; log 103: DEDUCED). -/
def FRec.sameSource (a b : FRec) : Bool :=
  a.mech = b.mech && a.unit = b.unit && a.eng = b.eng && (a.mech ≠ 0x04 || a.detail.toNat % 64 = b.detail.toNat % 64)
    && (a.mech ≠ 0x05 || a.launch = b.launch)

/-- A record of this source waits (R333). -/
def sourceHolds (d : Dyn) (r : FRec) : Bool := d.fs.waiting.any (fun w => w.record.sameSource r)

/-- A record of a mechanism at a unit waits; so does the unit's next work of the kind that Table 12.12 names. -/
def unitWaits (d : Dyn) (mech unit : Nat) : Bool := d.fs.waiting.any (fun w => w.record.mech = mech && w.record.unit = unit)

/-- A record of a mechanism waits. -/
def mechWaits (d : Dyn) (mech : Nat) : Bool := d.fs.waiting.any (fun w => w.record.mech = mech)

/-- A record enters the summary at an entry: FSEQ counts it and the trace sink gets its FAULT record. -/
def faultEnter (k : Cfg) (d : Dyn) (n : Nat) (r : FRec) : Dyn :=
  let r := { r with fseq := d.fs.fseq }
  let d := { d with fs := { d.fs with
    recs := tput d.fs.recs n { record := r, served := false, posted := false, acked := false },
    fseq := d.fs.fseq + 1 } }
  trace k d 0x04 r.plane
    (r.fseq.toNat + r.status.code * 2 ^ 32 + r.mech * 2 ^ 40 + r.unit * 2 ^ 48 + r.flags * 2 ^ 64
      + r.planeCtx * 2 ^ 72 + optNat r.launch * 2 ^ 80 + optNat r.node * 2 ^ 96 + optNat r.eng * 2 ^ 120)

/-- A record enters at an entry, and what waited behind it goes on: its answers, and the FAULT entries, which carry the record's index in VALUE
(R333, R344). -/
def recordIn (k : Cfg) (d : Dyn) (n : Nat) (w : WRec) : Dyn :=
  let d := w.outs.foldl emit (faultEnter k d n w.record)
  { d with fe := { d.fe with posts := d.fe.posts ++ w.late.map (fun p => (p.1, p.2 ||| BitVec.ofNat 512 (n * 2 ^ 128))) } }

/-- A detected fault with the answers and FAULT entries that wait behind its record (R19, R333, Table 12.12): it enters, or waits at its
source; a source that already holds a waiting record detects nothing. -/
def faultFull (k : Cfg) (d : Dyn) (r : FRec) (outs : List PortOut) (late : List (Nat × BitVec 512)) : Dyn :=
  if sourceHolds d r then d
  else
    let w : WRec := { record := { r with ts := d.ts }, outs := outs, late := late }
    match (if d.fs.waiting.any (fun x => (x.record.mech = 0x13) = (r.mech = 0x13)) then none else faultSlot d r.mech) with
    | some n => recordIn k d n w
    | none => { d with fs := { d.fs with waiting := d.fs.waiting ++ [w] } }

def faultWith (k : Cfg) (d : Dyn) (r : FRec) (outs : List PortOut) : Dyn := faultFull k d r outs []

def fault (k : Cfg) (d : Dyn) (r : FRec) : Dyn := faultWith k d r []

/-- A unit passes a test of the survey, unless it has failed one; a unit fails one (Table 13.7). -/
def unitPassed (d : Dyn) (u : Nat) : Dyn :=
  if d.fs.failed.contains u || d.fs.passed.contains u then d else { d with fs := { d.fs with passed := d.fs.passed ++ [u] } }

def unitFailed (d : Dyn) (u : Nat) : Dyn :=
  { d with fs := { d.fs with passed := d.fs.passed.filter (· ≠ u), failed := d.fs.failed.filter (· ≠ u) ++ [u] } }

/-- Root part unit codes (Table 12.3). -/
def rootUnit (i : Nat) : Nat := 5 * 4096 + i
def bankUnit (b : Nat) : Nat := 2 * 4096 + b

/-- The front end. -/
def frontUnit : Nat := 6 * 4096 + 1

/-- A dispatcher's unit code. -/
def dispUnit : Disp → Nat
  | .root => rootUnit 0
  | .region r => 4 * 4096 + r

/-! ### Replay records (R325 to R328) -/

/-- The buffer has room for records of `n` slots: 16 of its 256 are for global records alone (R328). -/
def rpFits (d : Dyn) (n : Nat) (glob : Bool) : Bool :=
  let used := listSum (d.rp.stage.map (fun r => r.slots.length))
  let usedNg := listSum ((d.rp.stage.filter (fun r => !r.glob)).map (fun r => r.slots.length))
  used + n ≤ 256 && (glob || usedNg + n ≤ 240)

/-- Records of `n` slots can be staged, or none is made (R328). -/
def rpRoom (d : Dyn) (n : Nat) (glob : Bool) : Bool := !d.rp.recording || rpFits d n glob

/-- Stages a record when recording is under way (Table 11.5). `data` is the 16-byte DATA field. -/
def rpPut (d : Dyn) (type : Nat) (glob : Bool) (ctx sub data : Nat) (body : List W256) (img : Option CmdId) : Dyn :=
  if !d.rp.recording then d
  else
    let head := w256 (sub + ((if glob then 64 else 0) + ctx) * 2 ^ 8 + body.length * 2 ^ 16 + type * 2 ^ 24
      + d.rp.lseq.toNat * 2 ^ 32 + (d.fc - d.rp.startFc).toNat * 2 ^ 64 + data * 2 ^ 128)
    { d with rp := { d.rp with stage := d.rp.stage ++ [{ slots := head :: body, img := img, glob := glob }],
                               lseq := d.rp.lseq + 1 } }

/-- A RING_ENTRY record with the IMGDIG it waited for. -/
def RRec.withImg (r : RRec) (dig : Nat) : RRec :=
  match r.slots with
  | h :: t => { r with img := none, slots := (h ||| w256 (dig * 2 ^ 192)) :: t }
  | [] => { r with img := none }

/-- Gives a staged RING_ENTRY record its IMGDIG once the memory that its command reads has been read (R326). -/
def rpImg (d : Dyn) (id : CmdId) (dig : Nat) : Dyn :=
  let st := mapIf (fun r => r.img = some id) (fun r => r.withImg dig) d.rp.stage
  { d with rp := { d.rp with stage := st } }

/-- A register write that needs a GLOBAL record finds the reserve exhausted: it is ignored, with a record (R328). -/
def dropWrite (k : Cfg) (d : Dyn) (off : Nat) : Dyn :=
  fault k { d with rp := { d.rp with dropW := true } }
    { frec 0x12 .determinism (6 * 4096 + 1) with detail := w64 off }

/-! ### Cycles and ticks -/

/-- Dispatch cycles since a value of FC. -/
def cyclesSince (d : Dyn) (fc : W64) : Nat := (d.fc - fc).toNat

/-! ### Launch-table returns (Table 13.22) -/

def pushRet (d : Dyn) (r : Ret) : Dyn := { d with lt := { d.lt with rets := d.lt.rets ++ [r] } }

/-- A return of KIND 0 for a command. -/
def cmdRet (id : CmdId) (op : Nat) (st : Status) (value : W64) : Ret :=
  { kind := 0, id := id, svc := false, op := op, status := st, value := value, note := 0, prog := 0, stepv := 0,
    mode := 0, part := 0, last := false, data := 0, slot := none, fe := false, popped := false }

/-! ### Ports to memory (R440, log 8: DESIGN CHOICE) -/

def Cfg.portOf (k : Cfg) (a : Nat) : Port :=
  if k.build.memWinBase.toNat ≤ a && a < k.build.memWinBase.toNat + k.build.memWinSize.toNat then .memory else .host

def busTag (d : Dyn) (p : Port) : Nat :=
  freshNat (((d.bus.reads.filter (·.port = p)).map (·.tag)) ++ ((d.bus.writes.filter (·.port = p)).map (·.tag)))

/-- A write of Denut's own to some of these bytes has been presented and not yet acknowledged (R456). -/
def writePending (d : Dyn) (a len : Nat) : Bool :=
  d.bus.writes.any (fun w => a < w.addr.toNat + w.data.length && w.addr.toNat < a + len)

/-- Presents a read at a port, or holds it back while a write to its bytes is out (R456). -/
def busReadOn (p : Port) (d : Dyn) (a len : Nat) (use : RdUse) : Dyn :=
  let t := busTag d p
  let now := !writePending d a len
  let j : RdJob := { tag := t, shown := now, port := p, addr := w64 a, len := len, use := use, data := none, err := false }
  let d := { d with bus := { d.bus with reads := d.bus.reads ++ [j] } }
  if now then out d (.memRead p t (w64 a) len) else d

/-- Presents a read at the port of its address (R440). -/
def busRead (k : Cfg) (d : Dyn) (a len : Nat) (use : RdUse) : Dyn := busReadOn (k.portOf a) d a len use

/-- Presents the reads that no write holds back any longer. -/
def showReads (d : Dyn) : Dyn :=
  d.bus.reads.foldl (fun d j =>
    if j.shown || writePending d j.addr.toNat j.len then d
    else
      let rs := mapIf (fun x => x = j) (fun x => { x with shown := true }) d.bus.reads
      out { d with bus := { d.bus with reads := rs } } (.memRead j.port j.tag j.addr j.len)) d

/-- Presents a write at a port. -/
def busWriteOn (p : Port) (d : Dyn) (a : Nat) (data : List Byte) (use : WrUse) : Dyn :=
  let t := busTag d p
  let d := { d with bus := { d.bus with
    writes := d.bus.writes ++ [{ tag := t, port := p, addr := w64 a, data := data, use := use }] } }
  out d (.memWrite p t (w64 a) data)

/-- Presents a write at the port of its address (R440). -/
def busWrite (k : Cfg) (d : Dyn) (a : Nat) (data : List Byte) (use : WrUse) : Dyn := busWriteOn (k.portOf a) d a data use

/-- The read for a use whose data has returned. -/
def readDone (d : Dyn) (use : RdUse) : Option RdJob := d.bus.reads.find? (fun j => j.use = use && j.data.isSome)

def dropRead (d : Dyn) (use : RdUse) : Dyn :=
  { d with bus := { d.bus with reads := d.bus.reads.filter (fun j => j.use ≠ use) } }

/-! ### Contexts and rings -/

/-- A ring as OPEN, CLOSE and reset leave it (R383). -/
def Ring.init : Ring :=
  { base := 0, en := false, gen := false, log2 := 0, dseq := 0, head := 0, tail := 0, err := 0, cfgIgn := false,
    stopReq := false, pendingDb := false, st := .disabled, snap := 0, fetch := none, stopFc := none }

/-- A context's page after reset (Table 13.16). -/
def Ctx.init : Ctx :=
  { isOpen := false, rev := 0, svc := false, cplIgn := false, cseq := 0, cplBase := 0, cplEn := false, cplLog2 := 0,
    cplHead := 0, cplTail := 0, cplNext := 0, irq := 0, irqPend := 0, irqFrom := 0, cancelMiss := false, mboxIn := [], mboxOut := [],
    mboxBusy := false, mboxBusyErr := false, mboxReply := false, mboxTaken := false,
    rings := [] }

def getCtx (d : Dyn) (c : Nat) : Ctx := tgetD d.fe.ctxs c .init

def setCtx (d : Dyn) (c : Nat) (x : Ctx) : Dyn := { d with fe := { d.fe with ctxs := tset d.fe.ctxs c x .init } }

def modCtx (d : Dyn) (c : Nat) (f : Ctx → Ctx) : Dyn := setCtx d c (f (getCtx d c))

def Ctx.ring (x : Ctx) (r : Nat) : Ring := tgetD x.rings r .init

def Ctx.setRing (x : Ctx) (r : Nat) (g : Ring) : Ctx := { x with rings := tset x.rings r g .init }

def getRing (d : Dyn) (c r : Nat) : Ring := (getCtx d c).ring r

def modRing (d : Dyn) (c r : Nat) (f : Ring → Ring) : Dyn :=
  modCtx d c (fun x => x.setRing r (f (x.ring r)))

def Cfg.priv (k : Cfg) (c : Nat) : Bool := bit k.boot.priv.toNat c

/-! ### Modes and launch state -/

/-- DNT_MODE (Table 13.4). -/
def Cfg.modeWord (k : Cfg) : Nat := b2n k.det + k.cblk * 16 + k.shfrac * 256

/-- DNT_MODE in the cairn layout (Table 11.4). -/
def Cfg.modeByte (k : Cfg) : Nat := b2n k.det * 128 + k.cblk

/-- A launch is in flight from its take until its completion return is posted. -/
def Launch.inFlight (l : Launch) : Bool := l.phase ≠ .returned

def launchesInFlight (d : Dyn) : List (Nat × Launch) := d.ls.slots.filter (fun e => e.2.inFlight)

def noLaunch (d : Dyn) : Bool := (launchesInFlight d).isEmpty

/-- PROG, counts and identity of the slot (R414). -/
def addCount (d : Dyn) (slot : Nat) (f : LCount → LCount) : Dyn :=
  { d with ls := { d.ls with counts := tmod d.ls.counts slot f } }

def sat32 (n : Nat) : Nat := min (p32 - 1) n

def addIssues (d : Dyn) (slot n : Nat) : Dyn := addCount d slot (fun c => { c with issues := sat32 (c.issues + n) })
def addNaks (d : Dyn) (slot n : Nat) : Dyn := addCount d slot (fun c => { c with naks := sat32 (c.naks + n) })

/-- FC is at a sampling tick (R416). -/
def atTick (k : Cfg) (d : Dyn) : Bool := d.fc.toNat % 2 ^ k.pcsLog2.toNat = 0

/-- A LAUNCH_SAMPLE record of a slot (Table 15.2). -/
def launchSample (k : Cfg) (d : Dyn) (slot : Nat) (fin : Bool) : Dyn :=
  match tget d.ls.counts slot with
  | none => d
  | some c =>
    trace k d 0x03 0 (c.id.dseq.toNat + (slot + c.id.c * 2 ^ 10) * 2 ^ 32
      + (c.id.r + b2n fin * 64 + b2n c.svc * 128) * 2 ^ 48 + c.issues * 2 ^ 64 + c.naks * 2 ^ 96 + c.busy * 2 ^ 128)

end Sys2Proof.Machine
end

