-- ==== Sys2Proof/Machine/Operands.lean ====
section
/-! DEFINITION. Operand forms: the fields of descriptors (R47 to R52), of edge words (R43), of commands (R287 to R289), the
leaf set of a target (R106), and the rules that refuse a descriptor or a command. -/
namespace Sys2Proof.Machine

/-! ### Descriptor fields (Tables 2.6, 2.8, 2.9) -/

def Desc.h (x : Desc) (lo n : Nat) : Nat := bits x.w0.toNat lo n
def Desc.op (x : Desc) : Nat := x.h 0 8
def Desc.bodyWords (x : Desc) : Nat := x.h 8 2
def Desc.prio (x : Desc) : Nat := x.h 10 4
def Desc.pin (x : Desc) : Bool := x.h 14 1 = 1
def Desc.noShadow (x : Desc) : Bool := x.h 15 1 = 1
def Desc.target (x : Desc) : Nat := x.h 16 17
def Desc.cls (x : Desc) : Nat := x.h 33 4
def Desc.affWait (x : Desc) : Nat := x.h 37 10
def Desc.evmode (x : Desc) : Bool := x.h 47 1 = 1
def Desc.nRanges (x : Desc) : Nat := x.h 48 3
def Desc.release (x : Desc) : Bool := x.h 51 1 = 1
def Desc.relStream (x : Desc) : Nat := x.h 52 4
def Desc.initCount (x : Desc) : Nat := x.h 64 20
def Desc.mask (x : Desc) : Nat := x.h 96 32
def Desc.waitTo (x : Desc) : Nat := x.h 128 32
def Desc.edgeFirst (x : Desc) : Nat := x.h 160 22
def Desc.edgeCount (x : Desc) : Nat := x.h 192 16
def Desc.relOffset (x : Desc) : Nat := x.h 208 48

/-- The 512-bit body. -/
def Desc.body (x : Desc) : Nat := x.w2.toNat + x.w3.toNat * 2 ^ 256
def Desc.b (x : Desc) (lo n : Nat) : Nat := bits x.body lo n
def Desc.range (x : Desc) (i : Nat) : Nat := bits x.w1.toNat (64 * i) 64

def rSite (r : Nat) : Nat := bits r 0 12
def rWrite (r : Nat) : Bool := bit r 12
def rOff (r : Nat) : Nat := bits r 16 20
def rLen (r : Nat) : Nat := bits r 36 20

/-- The declared ranges of a descriptor. -/
def Desc.ranges (x : Desc) : List Nat := (upFrom 0 (min 4 x.nRanges)).map x.range

/-- A descriptor from its 128 bytes. -/
def Desc.ofBytes (bs : List Byte) : Desc :=
  { w0 := w256 (leAt bs 0 32), w1 := w256 (leAt bs 32 32), w2 := w256 (leAt bs 64 32), w3 := w256 (leAt bs 96 32) }

def Desc.zero : Desc := { w0 := 0, w1 := 0, w2 := 0, w3 := 0 }

def kThread : Nat := 0x01
def kKernel : Nat := 0x02
def kMove : Nat := 0x03
def kNear : Nat := 0x04
def kSection : Nat := 0x05
def kRoute : Nat := 0x06
def kStat : Nat := 0x07
def kGraph : Nat := 0x08
def kHost : Nat := 0x09
def kJoin : Nat := 0x0A
def kColdfetch : Nat := 0x0B
def kSurvey : Nat := 0x0C

/-- A leaf of class `cls` accepts task kind `op` (Table 1.7, Table 2.15). -/
def kindOn (cls op : Nat) : Bool :=
  cls ≠ 6 && (op = kSection || op = kSurvey ||
  match cls with
  | 0 => op = kThread
  | 1 | 2 | 7 | 8 => op = kKernel
  | 3 => op = kMove
  | 4 => op = kNear
  | 5 => op = kMove || op = kColdfetch
  | _ => false)

/-! ### Units and their memory -/

/-- Slots of the unit of a leaf reference that are populated. -/
def Cfg.unitSlots (k : Cfg) (l : Nat) : List Nat :=
  ((upFrom 0 16).map (fun s => mkLeaf (leafRegion l) (leafStub l) s)).filter (fun m => bit (k.slotByte m) 7)

/-- A site unit (bits [15:4] of its leaves) that exists, is populated and is not disabled. -/
def Cfg.sitePresent (k : Cfg) (site : Nat) : Bool :=
  bits site 0 8 < 144 && k.stubExists (site * 16) && !k.unitDisabled (site * 16) && !(k.unitSlots (site * 16)).isEmpty

/-- Whether the site of a region's stub is an MU in Sparax 2304 (R25). -/
def sparaxMu (region stub : Nat) : Bool := (12 * (region % 4) + stub % 12 + (12 * (region / 4) + stub / 12)) % 3 = 2

/-- A site (bits [15:4] of its leaves) is an MU: by its column and row in Sparax 2304 (R25); in another build, of whose sites the spec gives no
map, when it has a NEAR engine (Table 1.4; log 21: DEDUCED). -/
def Cfg.siteIsMu (k : Cfg) (site : Nat) : Bool :=
  match k.build.slots with
  | .sparax => sparaxMu (bits site 8 4) (bits site 0 8)
  | .list _ => (k.unitSlots (site * 16)).any (fun m => k.classOf m = 4)

/-- Bytes of a unit's memory (R50). -/
def Cfg.siteMem (k : Cfg) (site : Nat) : Nat := if k.siteIsMu site then 393216 else 196608

/-! ### Parcels (R32, R104 to R106) -/

/-- The members of a parcel, in member order; predefined parcels in ascending reference. -/
def parcelMembers (k : Cfg) (d : Dyn) (p : Nat) : List Nat :=
  if p = 0 then (upFrom 1 k.nReg).map (· + 65536)
  else if p ≤ k.nReg then k.allLeaves.filter (fun l => leafRegion l = p - 1)
  else match tget d.dp.parcels p with
    | some x => x.members
    | none => []

def parcelDefined (k : Cfg) (d : Dyn) (p : Nat) : Bool :=
  p ≤ k.nReg || (17 ≤ p && (tget d.dp.parcels p).isSome)

/-- R28. -/
def refValid (k : Cfg) (d : Dyn) (ref : Nat) : Bool :=
  if isParcelRef ref then parcelDefined k d (bits ref 0 16) else k.leafValid ref

/-- Leaves reached from a reference through at most `fuel` parcels. -/
def leavesOf (k : Cfg) (d : Dyn) : Nat → Nat → List Nat
  | 0, _ => []
  | n + 1, ref =>
    if isParcelRef ref then (parcelMembers k d (bits ref 0 16)).flatMap (leavesOf k d n) else [ref]

/-- The leaf set of a reference, ascending, each leaf once (R106); parcels nest at most 16 deep (R105). -/
def leafSet (k : Cfg) (d : Dyn) (ref : Nat) : List Nat :=
  (isort (· ≤ ·) (leavesOf k d 18 ref)).eraseDups

/-- Depth of a reference: a leaf 0, a parcel 1 more than its deepest member (Table 4.1). -/
def refDepth (k : Cfg) (d : Dyn) : Nat → Nat → Nat
  | 0, _ => 0
  | n + 1, ref =>
    if isParcelRef ref then 1 + listMax ((parcelMembers k d (bits ref 0 16)).map (refDepth k d n)) else 0

/-- `p` is reached from `ref` through parcels. -/
def refReaches (k : Cfg) (d : Dyn) (p : Nat) : Nat → Nat → Bool
  | 0, _ => false
  | n + 1, ref =>
    isParcelRef ref && (bits ref 0 16 = p || (parcelMembers k d (bits ref 0 16)).any (refReaches k d p n))

/-! ### The rules of a descriptor -/

/-- Body bits that the kind assigns (Table 2.9, Table 12.9), as a mask. -/
def bodyMask (op bw : Nat) : Nat :=
  let m (lo n : Nat) : Nat := (2 ^ n - 1) * 2 ^ lo
  if op = kThread then m 0 256
  else if op = kKernel then m 0 160 + (if bw = 2 then m 256 256 else 0)
  else if op = kMove then m 0 177
  else if op = kNear then m 0 16 + m 64 192
  else if op = kSection then m 0 68 + m 128 384
  else if op = kRoute then m 0 41 + m 64 138
  else if op = kStat then m 0 10 + m 16 5 + m 64 96
  else if op = kGraph then m 0 13 + m 16 8
  else if op = kHost then m 0 32 + m 64 64
  else if op = kSurvey then m 0 18 + m 32 224 + (if bw = 2 then m 256 256 else 0)
  else 0

/-- Rules of one body field each (R52, R220, Table 2.9, Table 12.9). -/
def bodyRule (x : Desc) : Bool :=
  if x.op = kRoute then 16 ≤ x.b 32 9 && x.b 32 9 ≤ 256 && x.b 0 16 < 1024
  else if x.op = kStat then x.b 16 4 ≤ 6
  else if x.op = kGraph then x.b 12 1 = 1 || x.b 16 8 = 0
  else if x.op = kSurvey then x.b 32 32 ≠ 0
  else true

/-- Placement fields of a kind that runs on engines (Table 2.7, R29). -/
def targetRule (k : Cfg) (d : Dyn) (x : Desc) : Bool :=
  if x.pin then !isParcelRef x.target && k.present x.target && k.classOf x.target = x.cls
  else isParcelRef x.target && refValid k d x.target
    && (leafSet k d x.target).any (fun l => k.present l && k.classOf l = x.cls)

/-- Table 2.7. -/
def kindRule (k : Cfg) (d : Dyn) (survey : Bool) (x : Desc) : Bool :=
  if x.op = kThread || x.op = kMove || x.op = kNear then kindOn x.cls x.op && targetRule k d x && x.bodyWords = 1
  else if x.op = kKernel then kindOn x.cls x.op && targetRule k d x && (x.bodyWords = 1 || x.bodyWords = 2)
  else if x.op = kSurvey then survey && kindOn x.cls x.op && targetRule k d x && (x.bodyWords = 1 || x.bodyWords = 2)
  else if x.op = kSection then
    !x.pin && isParcelRef x.target && refValid k d x.target && x.cls = 0 && x.bodyWords = 2 && x.affWait = 0
      && (leafSet k d x.target).any (fun l => k.present l && k.classOf l ≠ 6)
  else if x.op = kRoute || x.op = kStat then
    !x.pin && x.target = 0 && x.cls = 0 && x.bodyWords = 0 && x.affWait = 0
  else if x.op = kGraph || x.op = kHost || x.op = kJoin then
    !x.pin && x.target = 0 && x.cls = 0 && x.bodyWords = 0 && x.nRanges = 0 && x.affWait = 0
  else false

/-- R50 for entry `i`. -/
def rangeRule (k : Cfg) (x : Desc) (i : Nat) : Bool :=
  let r := x.range i
  if i < x.nRanges then
    bits r 56 8 = 0 && bits r 13 3 = 0 && k.sitePresent (rSite r) && rOff r + rLen r ≤ k.siteMem (rSite r)
  else r = 0

/-- A descriptor obeys R4 and R47 to R52. -/
def descOk (k : Cfg) (d : Dyn) (survey : Bool) (x : Desc) : Bool :=
  x.h 182 10 = 0 && x.h 84 12 = 0 && x.h 56 8 = 0 && x.bodyWords ≠ 3 && x.nRanges ≤ 4
    && (x.release || (x.relStream = 0 && x.relOffset = 0))
    && kindRule k d survey x && (upFrom 0 4).all (rangeRule k x)
    && x.body &&& bodyMask x.op x.bodyWords = x.body && bodyRule x

/-! ### Edge words (R43) -/

def eSucc (w : Nat) : Nat := bits w 0 20
def eBit (w : Nat) : Nat := bits w 20 5
def eKind (w : Nat) : Nat := bits w 25 3

/-- R4 and R36 for one edge word of a graph of `n` nodes. -/
def edgeOk (n w : Nat) : Bool :=
  bits w 28 4 = 0 && eKind w ≤ 3 && (eKind w = 1 || eKind w = 2 || eBit w = 0) && eSucc w < n

/-! ### Commands (R287 to R289) -/

/-- Operand bytes from byte `b` of a Gen B descriptor, `n` bytes. -/
def opn (ops : BitVec 384) (b n : Nat) : Nat := bits ops.toNat (8 * (b - 16)) (8 * n)

def gidOf (ops : BitVec 384) : Nat := bits ops.toNat 0 12

/-- Operand bits that Table 10.6 assigns to an OPCODE, as a mask. -/
def opsMask (op : Nat) : Nat :=
  let m (lo n : Nat) : Nat := (2 ^ n - 1) * 2 ^ lo
  match op with
  | 0x01 => m 0 12 + m 32 160
  | 0x02 => m 0 12
  | 0x03 => m 0 12 + m 64 64
  | 0x04 => m 0 13 + m 16 8 + m 32 224
  | 0x05 => m 0 16 + m 64 64
  | 0x06 => m 0 17 + m 32 96
  | 0x07 => m 0 32
  | 0x08 => m 0 1
  | 0x09 => m 0 9 + m 16 112
  | 0x0A => m 0 1 + m 4 7 + m 32 1 + m 36 7
  | 0x0B => m 0 12 + m 16 1 + m 64 128
  | 0x0C => m 0 1
  | _ => 0

def opsFormOk (op : Nat) (ops : BitVec 384) : Bool := ops.toNat &&& opsMask op = ops.toNat

/-- Tables that Table 10.8 marks privileged. -/
def tablePrivileged (t : Nat) : Bool := [0, 1, 2, 7, 8, 9].contains t

def cLoad : Nat := 0x01
def cUnload : Nat := 0x02
def cPatch : Nat := 0x03
def cLaunch : Nat := 0x04
def cRecord : Nat := 0x05
def cWait : Nat := 0x06
def cSignal : Nat := 0x07
def cFence : Nat := 0x08
def cTable : Nat := 0x09
def cMode : Nat := 0x0A
def cSvcStart : Nat := 0x0B
def cSvcStop : Nat := 0x0C
def cCancel : Nat := 0x10
def cInspect : Nat := 0x11

/-- The graph a request names, if it names one (R292). -/
def namesGraph (op : Nat) (ops : BitVec 384) : Option Nat :=
  if op = cLoad || op = cUnload || op = cPatch || op = cLaunch || op = cSvcStart then some (gidOf ops) else none

/-- Whether a command's form makes Denut refuse it with BAD_DESCRIPTOR (R290 step 2), its descriptor fields apart. -/
def cmdRefused (k : Cfg) (c : Nat) (genB : Bool) (rev op : Nat) (ops : BitVec 384) : Bool :=
  op > 0x0C || ((op = cSvcStart || op = cSvcStop) && (!genB || rev ≠ 2)) || !opsFormOk op ops
    || (!k.priv c && (op = cMode || op = cSvcStart || op = cSvcStop || (op = cTable && tablePrivileged (opn ops 16 1))))

end Sys2Proof.Machine
end

