-- ==== Sys2Proof/Machine/Store.lean ====
section
/-! DEFINITION. The edge store and the descriptor store: first fit (R452), descriptor copies of an epoch, what R130 holds,
the descriptor cache (R99), and the freeing of a graph's runs. -/
namespace Sys2Proof.Machine

/-! ### First fit (R452) -/

/-- The lowest place of `len` in [lo, hi) clear of the runs, given ascending. -/
def fitIn (hi len : Nat) : Nat → List (Nat × Nat) → Option Nat
  | lo, [] => if lo + len ≤ hi then some lo else none
  | lo, (b, n) :: t => if lo + len ≤ b then some lo else fitIn hi len (max lo (b + n)) t

/-- First fit among runs (base, length); a run of length 0 takes no place. -/
def firstFit (lo hi len : Nat) (runs : List (Nat × Nat)) : Option Nat :=
  if len = 0 then some lo else fitIn hi len lo (isort (fun a b => a.1 ≤ b.1) (runs.filter (·.2 ≠ 0)))

def edgeRunLen (n : Nat) : Nat := (n + 511) / 512 * 512
def affRunLen (n : Nat) : Nat := (n * 2 + 127) / 128 * 128
def descLo : Nat := 4194304
def edgeWords : Nat := 4194304

def Graph.hasRuns (g : Graph) : Bool := g.st ≠ .loading

def edgeRuns (d : Dyn) : List (Nat × Nat) :=
  (tvals d.gs.graphs).filterMap (fun g => if g.hasRuns then some (g.edgeBase, edgeRunLen g.nEdges) else none)

def graphDescRuns (g : Graph) : List (Nat × Nat) :=
  if g.hasRuns then
    [(g.descBase, g.nNodes * 128), (g.affBase, affRunLen g.nNodes)]
      ++ g.patches.map (fun p => (p.base, p.copies.length * 128))
  else []

def descRuns (d : Dyn) : List (Nat × Nat) :=
  (tvals d.gs.graphs).flatMap graphDescRuns ++ d.gs.heldRuns.map (fun h => (h.base, h.len))

/-- Where a graph's descriptors may lie, as offsets from DESC_BASE: in the descriptor store above its first 4 MiB, or, for a survey graph, in the
storage that the boot block reserves (R37, R359). -/
def descSpan (k : Cfg) (survey : Bool) : Nat × Nat :=
  let lo := (k.boot.surveyBase - k.boot.descBase).toNat
  if survey then (lo, lo + k.boot.surveySize.toNat) else (descLo, k.boot.descSize.toNat)

def descPlace (k : Cfg) (d : Dyn) (survey : Bool) (extra : List (Nat × Nat)) (len : Nat) : Option Nat :=
  firstFit (descSpan k survey).1 (descSpan k survey).2 len (descRuns d ++ extra)

/-- The address of a byte of the descriptor store. -/
def descAddr (k : Cfg) (off : Nat) : Nat := (k.boot.descBase.toNat + off) % p64

/-! ### Descriptor copies (R452, R61 to R65) -/

/-- The copy of node `n` that the epoch of order `e` uses, with its byte offset in the descriptor store. -/
def copyIn (e n : Nat) : List Patch → Option (Nat × Desc)
  | [] => none
  | p :: t =>
    match copyIn e n t with
    | some x => some x
    | none =>
      if p.ord ≤ e then
        match p.copies.findIdx? (fun c => c.1 = n) with
        | some i => (p.copies[i]?).map (fun c => (p.base + 128 * i, c.2))
        | none => none
      else none

def Graph.copy (g : Graph) (e n : Nat) : Nat × Desc :=
  (copyIn e n g.patches).getD (g.descBase + 128 * n, g.descs.getD n .zero)

def Graph.desc (g : Graph) (e n : Nat) : Desc := (g.copy e n).2

def Graph.newest (g : Graph) : Option Epoch := g.epochs.getLast?

/-- The graph of a launch. -/
def launchGraph (d : Dyn) (slot : Nat) : Option (Launch × Graph) :=
  match tget d.ls.slots slot with
  | none => none
  | some l => (tget d.gs.graphs l.graph).map (fun g => (l, g))

def idxMod : Nat := 1048576

/-- Node number within its launch of a global node index. -/
def Launch.local (l : Launch) (g : Nat) : Nat := (g + idxMod - l.base) % idxMod

def Launch.global (l : Launch) (n : Nat) : Nat := (l.base + n) % idxMod

/-- The global indices of a launch's nodes, in node order. -/
def Launch.indices (l : Launch) : List Nat := (upFrom 0 l.nodes).map l.global

/-- The descriptor of a live node. -/
def nodeDesc (d : Dyn) (slot g : Nat) : Desc :=
  match launchGraph d slot with
  | some (l, x) => x.desc l.epochOrd (l.local g)
  | none => .zero

/-- Byte offset in the descriptor store of a live node's descriptor. -/
def nodeDescOff (d : Dyn) (slot g : Nat) : Nat :=
  match launchGraph d slot with
  | some (l, x) => (x.copy l.epochOrd (l.local g)).1
  | none => 0

/-- The bank of a live node (R69). -/
def nodeBank (d : Dyn) (slot g : Nat) : Nat :=
  match launchGraph d slot with
  | some (l, x) => bankOf x.key.toNat (l.local g)
  | none => 0

/-! ### The descriptor cache (R99) -/

def dcSet (off : Nat) : Nat := off / 128 % 4096

def dcLines (d : Dyn) (off : Nat) : List (Nat × Nat × Bool) := tgetD d.gs.dcache (dcSet off) []

def dcPut (d : Dyn) (off : Nat) (l : List (Nat × Nat × Bool)) : Dyn :=
  { d with gs := { d.gs with dcache := tset d.gs.dcache (dcSet off) l [] } }

/-- The copy at `off` is in the cache. -/
def dcHit (d : Dyn) (off : Nat) : Bool := (dcLines d off).any (fun x => x.2.1 = off / 128 && x.2.2)

/-- A lookup that hits is a use: the line becomes the most recent of its set. -/
def dcTouch (d : Dyn) (off : Nat) : Dyn :=
  match (dcLines d off).find? (fun x => x.2.1 = off / 128) with
  | some x => dcPut d off (x :: (dcLines d off).filter (fun y => y.2.1 ≠ off / 128))
  | none => d

/-- The way a fill takes: a free one, else that of the least recently used filled line. -/
def dcWay (l : List (Nat × Nat × Bool)) : Option Nat :=
  match firstFree 16 0 (l.map (·.1)) with
  | some w => some w
  | none => (l.reverse.find? (fun x => x.2.2)).map (·.1)

/-- The cache line that holds a descriptor, numbered through the ways of every set; the set's first way while none does. -/
def dcLineNo (d : Dyn) (off : Nat) : Nat :=
  16 * dcSet off + (((dcLines d off).find? (fun x => x.2.1 = off / 128)).elim 0 (·.1))

/-- Starts the fill of a descriptor that is neither in the cache nor on its way (R99). -/
def dcFill (k : Cfg) (d : Dyn) (off : Nat) : Dyn :=
  let l := dcLines d off
  if l.any (fun x => x.2.1 = off / 128) then d
  else match dcWay l with
    | none => d
    | some w =>
      let d := dcPut d off ((w, off / 128, false) :: l.filter (fun x => x.1 ≠ w))
      busRead k d (descAddr k off) 128 (.descFill off)

/-- Starts the fills that the entries of a ready list still need: a fill waits while every way of its set is pending, and a line may be replaced
before its entry is selected (R99). -/
def refill (k : Cfg) (d : Dyn) (es : List REntry) : Dyn :=
  (es.filter (fun e => !e.void)).foldl (fun d e =>
    let off := nodeDescOff d e.slot e.g
    if dcHit d off then d else dcFill k d off) d

/-- The fill completes. An error response discards the line, and it is read again (Table 12.4). -/
def dcFilled (k : Cfg) (d : Dyn) (off : Nat) (err : Bool) : Dyn :=
  let l := dcLines d off
  if !l.any (fun x => x.2.1 = off / 128 && !x.2.2) then d
  else
    let d := dropRead d (.descFill off)
    if err then dcFill k (dcPut d off (l.filter (fun x => x.2.1 ≠ off / 128))) off
    else
      let d := dcPut d off (l.map (fun x => if x.2.1 = off / 128 then (x.1, x.2.1, true) else x))
      let entries := d.dp.root ++ d.dp.regs.flatMap (·.2)
      refill k d (entries.filter (fun e => dcSet (nodeDescOff d e.slot e.g) = dcSet off))

/-- Invalidates every line that holds a copy from a run. A line whose fill is pending goes too: its data is of no use. -/
def dcDrop (d : Dyn) (base len : Nat) : Dyn :=
  let inRun (x : Nat × Nat × Bool) : Bool := base ≤ x.2.1 * 128 && x.2.1 * 128 < base + len
  let c := (d.gs.dcache.map (fun e => (e.1, e.2.filter (fun x => !inRun x)))).filter (fun e => !e.2.isEmpty)
  { d with gs := { d.gs with dcache := c } }

/-! ### Freeing runs (R38, R130, R452) -/

/-- Completion-queue entries of tasks that run on WP2 ports from a run (R130). -/
def tasksHolding (k : Cfg) (d : Dyn) (base len : Nat) : List Nat :=
  (d.dp.tasks.filter (fun t => t.kind = .node && t.copies.any (fun c => k.isWp2 c.leaf)
    && base ≤ t.body && t.body < base + len)).map (·.idx)

/-- A run is given up: its cache lines go, and R130 keeps it occupied while tasks on WP2 ports read it. -/
def freeRun (k : Cfg) (d : Dyn) (base len : Nat) : Dyn :=
  let held := tasksHolding k d base len
  let d := dcDrop d base len
  if held.isEmpty || len = 0 then d
  else { d with gs := { d.gs with heldRuns := d.gs.heldRuns ++ [{ base := base, len := len, tasks := held }] } }

/-- A task's completion report has been sampled or discarded: what R130 held for it is free. -/
def unholdTask (d : Dyn) (idx : Nat) : Dyn :=
  let h := (d.gs.heldRuns.map (fun h => { h with tasks := h.tasks.filter (· ≠ idx) })).filter (fun h => !h.tasks.isEmpty)
  { d with gs := { d.gs with heldRuns := h } }

/-- The epochs that launches in flight pin. -/
def pinnedOrds (d : Dyn) (gid : Nat) : List Nat :=
  (tvals d.ls.slots).filterMap (fun l => if l.graph = gid && l.inFlight then some l.epochOrd else none)

/-- A patch's run is used by an epoch when some node's copy in that epoch comes from it. -/
def patchUsed (g : Graph) (p : Patch) : Bool :=
  g.epochs.any (fun e => p.ord ≤ e.ord && p.copies.any (fun c =>
    (g.patches.all (fun q => !(p.ord < q.ord && q.ord ≤ e.ord && q.copies.any (fun c' => c'.1 = c.1))))))

/-- Retires every epoch but the newest that no launch in flight pins, and frees patch runs no live epoch uses (R63, R452). -/
def retireEpochs (k : Cfg) (d : Dyn) (gid : Nat) : Dyn :=
  match tget d.gs.graphs gid with
  | none => d
  | some g =>
    let newest := (g.newest.map (·.ord)).getD 0
    let pins := pinnedOrds d gid
    let eps := g.epochs.filter (fun e => e.ord = newest || pins.contains e.ord)
    let g1 := { g with epochs := eps }
    let gone := g1.patches.filter (fun p => !patchUsed g1 p)
    let d := gone.foldl (fun d p => freeRun k d p.base (p.copies.length * 128)) d
    let g2 := { g1 with patches := g1.patches.filter (patchUsed g1) }
    { d with gs := { d.gs with graphs := tput d.gs.graphs gid g2 } }

/-- An unloading graph whose last launch has completed is freed, and its UNLOAD_GRAPH's return is posted (R38). -/
def unloadCheck (k : Cfg) (d : Dyn) (gid : Nat) : Dyn :=
  match tget d.gs.graphs gid with
  | none => d
  | some g =>
    match g.unload with
    | none => d
    | some id =>
      if !(pinnedOrds d gid).isEmpty then d
      else
        let d := (graphDescRuns g).foldl (fun d r => freeRun k d r.1 r.2) d
        let d := { d with gs := { d.gs with graphs := tdel d.gs.graphs gid } }
        pushRet d (cmdRet id cUnload .ok 0)

end Sys2Proof.Machine
end

