-- ==== Sys2Proof/Machine/Nodes.lean ====
section
/-! DEFINITION. Node words and their transitions: readiness, the completion queue, failure, cancellation, stranding
(R39 to R46, R56 to R59, R73 to R80, R347). -/
namespace Sys2Proof.Machine

/-! ### Node words -/

/-- The all-zero node word: STATE idle (R453). -/
def NodeRec.zero : NodeRec :=
  { mask := 0, flags := 0, affinity := 0, launch := 0, shadow := false, evmode := false, epoch := 0, prio := 0,
    st := .idle, pend := 0, start := false }

def getNode (d : Dyn) (g : Nat) : NodeRec := tgetD d.nb.nodes g .zero

def setNode (d : Dyn) (g : Nat) (n : NodeRec) : Dyn := { d with nb := { d.nb with nodes := tset d.nb.nodes g n .zero } }

def modNode (d : Dyn) (g : Nat) (f : NodeRec → NodeRec) : Dyn := setNode d g (f (getNode d g))

/-- The 128-bit node word (Table 2.2). -/
def NodeRec.word (n : NodeRec) : Nat :=
  n.pend + n.st.code * 2 ^ 20 + n.prio * 2 ^ 24 + n.epoch * 2 ^ 28 + b2n n.evmode * 2 ^ 36 + b2n n.shadow * 2 ^ 37
    + n.launch * 2 ^ 38 + n.affinity * 2 ^ 48 + n.flags.toNat * 2 ^ 64 + n.mask.toNat * 2 ^ 96

/-- The event condition (R39). -/
def NodeRec.met (n : NodeRec) : Bool :=
  if n.mask = 0 then true
  else if n.evmode then n.flags &&& n.mask ≠ 0
  else n.flags &&& n.mask = n.mask

def NState.terminal : NState → Bool
  | .done | .failed | .timedOut | .cancelled => true
  | _ => false

/-- armed, ready or range-held: the states that a cancellation reaches (Table 2.3). -/
def NState.waiting : NState → Bool
  | .armed | .ready | .rangeHeld => true
  | _ => false

def modLaunch (d : Dyn) (slot : Nat) (f : Launch → Launch) : Dyn :=
  { d with ls := { d.ls with slots := tmod d.ls.slots slot f } }

/-! ### Chainage targets (R151) -/

/-- A counter is at or past a target, allowing for wrap. -/
def reached (c t : W64) : Bool := (c - t).toNat < 2 ^ 63

def chain (d : Dyn) (s : Nat) : W64 := tgetD d.ch.chain s 0

def chainDist (d : Dyn) (s : Nat) (t : W64) : Nat := (chain d s - t).toNat

/-! ### Ready entries, held ranges, waits, watches of a node -/

/-- The head of an outbox that is not void is offered from this cycle on, unless it has been already; void entries before it are dropped
(R82, R83). -/
def offerHead (fc : W64) (box : List REntry) : List REntry :=
  match box.dropWhile (·.void) with
  | [] => []
  | e :: t => { e with offered := e.offered.or (some fc) } :: t

def voidIn (g : Nat) (l : List REntry) : List REntry := mapIf (fun e => e.g = g) (fun e => { e with void := true }) l

def voidInTab (g : Nat) (t : Tab (List REntry)) : Tab (List REntry) := t.map (fun e => (e.1, voidIn g e.2))

/-- The node's ready entry is marked void wherever it stands (R83). -/
def voidEntry (d : Dyn) (g : Nat) : Dyn :=
  { d with nb := { d.nb with outbox := ((voidInTab g d.nb.outbox).map (fun b => (b.1, offerHead d.fc b.2))).filter (fun b => !b.2.isEmpty) },
           dp := { d.dp with root := voidIn g d.dp.root, regs := voidInTab g d.dp.regs } }

/-- The held scoreboard entries of a node are freed (R113). -/
def freeHeldRanges (d : Dyn) (g : Nat) : Dyn :=
  let keep (e : SbEntry) : Bool := !(e.g = g && e.task.isNone)
  { d with dp := { d.dp with sbRoot := d.dp.sbRoot.filter keep,
                             sbReg := (d.dp.sbReg.map (fun r => (r.1, r.2.filter keep))).filter (fun r => !r.2.isEmpty) } }

/-- Every scoreboard entry of a task is freed (R110). -/
def freeRanges (d : Dyn) (idx : Nat) : Dyn :=
  let keep (e : SbEntry) : Bool := e.task ≠ some idx
  { d with dp := { d.dp with sbRoot := d.dp.sbRoot.filter keep,
                             sbReg := (d.dp.sbReg.map (fun r => (r.1, r.2.filter keep))).filter (fun r => !r.2.isEmpty) } }

/-- A node that was waiting ends without being issued: its ready entry is void, its affinity wait, reservation, held ranges
and release entry end (R83, R102, R113, R116, R156). -/
def dropWaiting (d : Dyn) (slot g : Nat) : Dyn :=
  let d := freeHeldRanges (voidEntry d g) g
  { d with dp := { d.dp with waits := d.dp.waits.filter (fun w => w.g ≠ g), resv := d.dp.resv.filter (fun r => r.g ≠ g) },
           ch := { d.ch with release := d.ch.release.filter (fun w => !(w.slot = slot && w.g = g)) } }

/-! ### The completion queue (R77, R80) -/

def cqCap : Nat := 65536

def cqUsed (d : Dyn) : List Nat := d.nb.cq.map (·.idx) ++ d.dp.tasks.map (·.idx)

/-- A completion-queue entry that is neither in use nor reserved (log 17: DESIGN CHOICE). -/
def cqFree (d : Dyn) : Option Nat := if (cqUsed d).length < cqCap then some (freshNat (cqUsed d)) else none

/-- A node that ended done or skipped enters the completion queue; without edges it leaves at once (R44, R80). -/
def cqEnter (d : Dyn) (idx slot g : Nat) (skipped : Bool) : Dyn :=
  match launchGraph d slot with
  | none => d
  | some (l, x) =>
    let ds := x.desc l.epochOrd (l.local g)
    if ds.edgeCount = 0 || (l.failed.isSome && !skipped) then d
    else
      { d with nb := { d.nb with cq := d.nb.cq ++ [{ idx := idx, slot := slot, g := g, first := x.edgeBase + ds.edgeFirst,
                                                     count := ds.edgeCount, next := 0, left := 0, skipped := skipped }] } }

/-! ### Failure and abandonment (R59, R60) -/

/-- Abandons the armed, ready and range-held nodes of a launch: cancelled, with no edges applied. -/
def abandonNodes (d : Dyn) (slot : Nat) (l : Launch) : Dyn :=
  l.indices.foldl (fun d g =>
    let n := getNode d g
    if n.st.waiting && n.launch = slot then setNode (dropWaiting d slot g) g { n with st := .cancelled, start := false }
    else d) d

/-- The launch fails with a status, unless it has failed already; running children are cancelled, at most nine levels deep. -/
def failLaunchN : Nat → Dyn → Nat → Status → Dyn
  | 0, d, _, _ => d
  | n + 1, d, slot, st =>
    match tget d.ls.slots slot with
    | none => d
    | some l =>
      if l.failed.isSome || !l.inFlight then d
      else
        let d := modLaunch d slot (fun l => { l with failed := some st })
        let d := abandonNodes d slot l
        let kids := (d.ls.slots.filter (fun e => e.2.inFlight && (e.2.parent.map (·.1)) = some slot)).map (·.1)
        kids.foldl (fun d s => failLaunchN n d s .cancelled) d

def failLaunch (d : Dyn) (slot : Nat) (st : Status) : Dyn := failLaunchN 10 d slot st

/-! ### Ends of a node -/

/-- The launch still applies edges: it has not failed. -/
def launchOk (d : Dyn) (slot : Nat) : Bool :=
  match tget d.ls.slots slot with
  | some l => l.failed.isNone
  | none => false

/-- A node ends done: on a leaf engine its affinity is recorded (R56), and its edges are walked (R44). -/
def nodeDone (d : Dyn) (idx slot g : Nat) (leaf : Option Nat) : Dyn :=
  let d := modNode d g (fun n => { n with st := .done })
  let d := match leaf, launchGraph d slot with
    | some e, some (l, x) =>
      let x := { x with affinity := tput x.affinity (l.local g) (e % 65536) }
      { d with gs := { d.gs with graphs := tput d.gs.graphs l.graph x } }
    | _, _ => d
  cqEnter d idx slot g false

/-- A node ends failed, and its launch fails with its status (R59). -/
def nodeFailed (d : Dyn) (slot g : Nat) (st : Status) : Dyn :=
  failLaunch (modNode d g (fun n => { n with st := .failed })) slot st

/-- A waiting node is cancelled as skipped: a CANCEL edge, or stranding (R44, R58). Its edges need a completion-queue entry; while
none is free it waits as it is. -/
def cancelSkipped (d : Dyn) (slot g : Nat) : Dyn :=
  match cqFree d with
  | some idx =>
    let d := modNode (dropWaiting d slot g) g (fun n => { n with st := .cancelled, start := false })
    cqEnter d idx slot g true
  | none => d

/-! ### Readiness -/

/-- The shadow choice (R347). -/
def shadowPick (key ordinal n shfrac : Nat) : Bool :=
  if shfrac = 0 then false
  else if shfrac = 5 then true
  else mix64 (key ^^^ ((ordinal <<< 20) % p64) ^^^ n ^^^ 0x5348000000000000) % 256 < 2 ^ (2 * shfrac - 2)

def outbox (d : Dyn) (b : Nat) : List REntry := tgetD d.nb.outbox b []

def setOutbox (d : Dyn) (b : Nat) (l : List REntry) : Dyn :=
  { d with nb := { d.nb with outbox := tset d.nb.outbox b l [] } }

/-- R454 for one node: a place in its bank's outbox, and for a JOIN a completion-queue entry (R31, R77). -/
def readyRoom (d : Dyn) (slot g : Nat) : Bool :=
  (outbox d (nodeBank d slot g)).length < 16 && ((nodeDesc d slot g).op ≠ kJoin || (cqFree d).isSome)

/-- An armed node becomes ready (R40): a JOIN is done at once (R31); any other node gets its SHADOW choice and its ready
entry (R73, R347). -/
def becomeReady (k : Cfg) (d : Dyn) (slot g : Nat) : Dyn :=
  match launchGraph d slot with
  | none => d
  | some (l, x) =>
    let n := l.local g
    let ds := x.desc l.epochOrd n
    let d := modNode d g (fun w => { w with start := false })
    if ds.op = kJoin then
      match cqFree d with
      | some idx => nodeDone d idx slot g none
      | none => d
    else
      let sh := [kThread, kKernel, kMove, kNear, kRoute].contains ds.op && !ds.noShadow
        && shadowPick x.key.toNat l.ordinal.toNat n k.shfrac
      let d := modNode d g (fun w => { w with st := .ready, shadow := sh })
      let b := bankOf x.key.toNat n
      setOutbox d b (offerHead d.fc (outbox d b ++ [{ g := g, slot := slot, level := ds.prio, age := 0, offered := none, void := false,
                                                      waited := false, affWait := false }]))

/-- An armed node whose count and event condition are met: ready, or handed to the release watch (R40, R74, R153). -/
def testReady (k : Cfg) (d : Dyn) (slot g : Nat) : Dyn :=
  let n := getNode d g
  if n.st ≠ .armed || n.pend ≠ 0 || !n.met then d
  else
    match launchGraph d slot with
    | none => d
    | some (l, x) =>
      let ds := x.desc l.epochOrd (l.local g)
      if ds.release then
        if d.ch.release.any (fun w => w.slot = slot && w.g = g) then d
        else
          let t := (l.bases.getD ds.relStream 0) + w64 ds.relOffset
          let w : Watch := { slot := slot, g := g, task := 0, stream := ds.relStream, target := t, found := none, fired := false }
          { d with ch := { d.ch with release := d.ch.release ++ [w] } }
      else becomeReady k d slot g

/-! ### Completion and stranding of a launch (R57, R58, R80) -/

def launchQuiet (d : Dyn) (slot : Nat) : Bool := !d.nb.cq.any (fun e => e.slot = slot)

def allTerminal (d : Dyn) (l : Launch) : Bool := l.indices.all (fun g => (getNode d g).st.terminal)

/-- R58: nothing of the launch can move. -/
def stranded (d : Dyn) (l : Launch) : Bool :=
  l.indices.all (fun g =>
    let n := getNode d g
    n.st.terminal || (n.st == .armed && !(n.pend = 0 && n.met)))

/-- Stranding: cancels as skipped every armed node of PEND 0; without edges to walk it is judged again. -/
def settleN : Nat → Dyn → Nat → Dyn
  | 0, d, _ => d
  | n + 1, d, slot =>
    match tget d.ls.slots slot with
    | none => d
    | some l =>
      if l.phase ≠ .running || !launchQuiet d slot || allTerminal d l || !stranded d l then d
      else
        let gs := l.indices.filter (fun g => let w := getNode d g; w.st == .armed && w.pend = 0)
        if gs.isEmpty then d
        else settleN n (gs.foldl (fun d g => cancelSkipped d slot g) d) slot

def settle (d : Dyn) (slot : Nat) : Dyn := settleN 3 d slot

/-- After a change that may touch several launches. -/
def settleAll (d : Dyn) : Dyn := (tkeys d.ls.slots).foldl settle d

end Sys2Proof.Machine
end

