-- ==== Sys2Proof/Machine/Requests.lean ====
section
/-! DEFINITION. Requests of the launch table and the commands behind them: taking in order (R18, R292), holding a ring,
finishing a command with its return (R291, Table 13.22). -/
namespace Sys2Proof.Machine

/-- The graph that a request names. -/
def Req.graph (q : Req) : Option Nat := namesGraph q.op q.ops

/-- A request waits under R292 for a load or patch of its context that names its graph, and a LAUNCH for any patch of its graph that the
data plane has taken: the patch must be visible to it (R65; log 89: DEDUCED). -/
def reqWaits (d : Dyn) (q : Req) : Bool :=
  match q.graph with
  | none => false
  | some gid =>
    match tget d.gs.graphs gid with
    | none => false
    | some g => (g.load.any (fun x => x.id.c = q.id.c)) || (g.patch.any (fun x => x.id.c = q.id.c || q.op = cLaunch))

/-- A load or patch. -/
def Req.loads (q : Req) : Bool := q.op = cLoad || q.op = cPatch

/-- The data plane may take `q` while the earlier `p` stands in the table: one that its ring holds has not been posted and holds up the later
requests of that ring, and a load or patch those of its context that name its graph; one that waits for its graph lets requests pass that
name other graphs, and those of other contexts (R18, R292, R389, Table 10.7; log 90: DEDUCED). -/
def mayPass (d : Dyn) (q p : Req) : Bool :=
  if p.held then
    q.op = cCancel || q.op = cInspect || p.id.c ≠ q.id.c || ((p.id.r ≠ q.id.r || p.svc ≠ q.svc) && !(p.loads && q.graph = p.graph))
  else reqWaits d p && (p.id.c ≠ q.id.c || (q.graph.isSome && q.graph ≠ p.graph))

/-- The first request of a context that may be taken, `before` standing before the list. -/
def frontGo (d : Dyn) (c : Nat) (before : List Req) : List Req → Option Req
  | [] => none
  | q :: t =>
    if q.id.c = c && !reqWaits d q && before.all (mayPass d q) then some q else frontGo d c (before ++ [q]) t

/-- The request of a context that the data plane takes next: requests are taken in post order (R18, R292, R389). -/
def frontReq (d : Dyn) (c : Nat) : Option Req := frontGo d c [] d.lt.reqs

/-- The context's next request, when it has this OPCODE. -/
def frontOp (d : Dyn) (c op : Nat) : Option Req := (frontReq d c).filter (fun q => q.op = op)

def dropReq (d : Dyn) (q : Req) : Dyn := { d with lt := { d.lt with reqs := dropFirst (· = q) d.lt.reqs } }

def setStage (d : Dyn) (id : CmdId) (st : CmdStage) : Dyn :=
  { d with fe := { d.fe with cmds := mapIf (fun x => x.id = id && x.stage ≠ .returned) (fun x => { x with stage := st }) d.fe.cmds } }

/-- Commands that hold their ring from the take on (Table 10.7). -/
def holdsRing (op : Nat) : Bool := op = cWait || op = cFence || op = cMode

/-- A command of the ring holds it: one that holds its ring until it has completed, or one that back-pressure keeps from being posted. -/
def ringHeld (d : Dyn) (c r : Nat) : Bool :=
  d.fe.cmds.any (fun x => x.id.c = c && x.id.r = r && holdsRing x.op && x.stage ≠ .returned && x.stage ≠ .refused)
    || d.lt.reqs.any (fun q => q.held && q.id.c = c && q.id.r = r && !q.svc)

/-- A ring whose command waits reports HELD; it is ACTIVE again once no command holds it any longer (Table 10.2). -/
def holdRing (d : Dyn) (id : CmdId) : Dyn :=
  modRing d id.c id.r (fun g => { g with st := if g.st = .active || g.st = .idle then .held else g.st })

def unholdRing (d : Dyn) (id : CmdId) : Dyn :=
  if ringHeld d id.c id.r then d
  else modRing d id.c id.r (fun g => { g with st := if g.st = .held then .active else g.st })

/-- A request cannot be taken yet: its command waits at the head of its ring, which is held. -/
def blockReq (d : Dyn) (q : Req) : Dyn :=
  if q.svc then d
  else holdRing { d with lt := { d.lt with reqs := mapFirst (· = q) (fun x => { x with held := true }) d.lt.reqs } } q.id

/-- The data plane takes a request. -/
def takeReq (d : Dyn) (q : Req) : Dyn :=
  let d := dropReq d q
  if q.svc then d else unholdRing (setStage d q.id .running) q.id

/-- A command completes: its return is posted in the launch table, and it no longer holds its ring. A replay record that still waits for its
IMGDIG gets 0: its command has read no memory (R326). -/
def finishRet (d : Dyn) (r : Ret) : Dyn := unholdRing (setStage (pushRet (rpImg d r.id 0) r) r.id .returned) r.id

/-- Request entries of the launch table that are taken up: those posted (Table 13.21, LT_REQ_FREE). -/
def reqsPosted (d : Dyn) : Nat := (d.lt.reqs.filter (fun q => !q.held)).length

def reqCap : Nat := 256

/-- A request entry is free. -/
def reqRoom (d : Dyn) : Bool := reqsPosted d < reqCap

/-- A request enters the launch table whole (R22). -/
def postReq (d : Dyn) (q : Req) : Dyn := { d with lt := { d.lt with reqs := d.lt.reqs ++ [q] } }

def finish (d : Dyn) (id : CmdId) (op : Nat) (st : Status) (value : Nat) : Dyn :=
  finishRet d (cmdRet id op st (w64 value))

/-- The command, while it runs, of an identity. -/
def cmdOf (d : Dyn) (id : CmdId) : Option Cmd := d.fe.cmds.find? (fun x => x.id = id && x.stage ≠ .returned)

/-- New launches are held: a SET_MODE waits (R295), or under DET = 1 a table write that waits for the launches (R314). -/
def launchesHeld (k : Cfg) (d : Dyn) : Bool :=
  !d.ls.modes.isEmpty ||
  (k.det && (upFrom 0 64).any (fun c =>
    (frontOp d c cTable).any (fun q => let t := opn q.ops 16 1; t = 1 || (3 ≤ t && t ≤ 9))))

/-- A request that the firmware has posted: no command of a ring stands behind it. -/
def fromFirmware (d : Dyn) (q : Req) : Bool := !d.fe.cmds.any (fun x => x.id = q.id)

/-- The chip takes this launch: any in SERVICE, in SURVEY only one that the firmware asks for of a survey graph (R359, Table 12.7). -/
def takesLaunch (k : Cfg) (d : Dyn) (q : Req) : Bool :=
  k.health == .service
    || (k.health == .survey && fromFirmware d q && ((namesGraph q.op q.ops).bind (tget d.gs.graphs)).any (·.survey))

end Sys2Proof.Machine
end

