-- ==== Sys2Proof/Machine/Graphs.lean ====
section
/-! DEFINITION. Graph commands: LOAD_GRAPH, GRAPH_IMAGE_READ, UNLOAD_GRAPH, PATCH_GRAPH (R34 to R38, R61 to R66, R70, R451,
R452, R313, R154). -/
namespace Sys2Proof.Machine

/-! ### The checks of an image -/

/-- Two byte spans do not overlap. -/
def apart (a n b m : Nat) : Bool := n = 0 || m = 0 || a + n ≤ b || b + m ≤ a

/-- R34, R4 for the 64-byte header. A table of no entries must still begin at most at IMAGE_BYTES: the rule leaves open whether an empty table
can extend past the image (log 93: DESIGN CHOICE). -/
def graphHeaderOk (h : List Byte) : Bool :=
  let nodes := leAt h 8 4
  let edges := leAt h 12 4
  let dOff := leAt h 16 8
  let eOff := leAt h 24 8
  let size := leAt h 40 8
  leAt h 0 4 = 0x47464E44 && leAt h 4 2 = 3 && leAt h 6 2 = 0 && leAt h 48 16 = 0
    && 1 ≤ nodes && nodes ≤ 1048576 && edges ≤ 4194304 && dOff % 128 = 0 && eOff % 4 = 0
    && apart dOff (128 * nodes) eOff (4 * edges) && apart dOff (128 * nodes) 0 64 && apart eOff (4 * edges) 0 64
    && dOff + 128 * nodes ≤ size && eOff + 4 * edges ≤ size && 64 ≤ size

/-- The edge words of a node's list. -/
def nodeEdges (edges : List Nat) (x : Desc) : List Nat := (edges.drop x.edgeFirst).take x.edgeCount

/-- How often DEC and DEC_EVT edges name each node: a list of the successors, one per (source, edge) pair (R36). -/
def decTargets (descs : List Desc) (edges : List Nat) : List Nat :=
  descs.flatMap (fun x => ((nodeEdges edges x).filter (fun w => eKind w = 0 || eKind w = 2)).map eSucc)

/-- Removes, round by round, the nodes that no remaining node's DEC, EVT or DEC_EVT edge names (R36: no cycle). -/
def peel (succ : List (Nat × List Nat)) : Nat → List Nat → List Nat
  | 0, left => left
  | n + 1, left =>
    let hit := (succ.filter (fun e => left.contains e.1)).flatMap (·.2)
    let next := left.filter (fun m => hit.contains m)
    if next.length = left.length then left else peel succ n next

def acyclic (descs : List Desc) (edges : List Nat) : Bool :=
  let n := descs.length
  let succ := (upFrom 0 n).zip (descs.map (fun x => ((nodeEdges edges x).filter (fun w => eKind w ≠ 3)).map eSucc))
  (peel succ (n + 1) (upFrom 0 n)).isEmpty

/-- R36. A list of no edges must still begin inside the edge table (EDGE_FIRST at most EDGES): the rule leaves the place of an empty list open
(log 93: DESIGN CHOICE). -/
def imageOk (k : Cfg) (d : Dyn) (survey : Bool) (descs : List Desc) (edges : List Nat) : Bool :=
  let n := descs.length
  let targets := decTargets descs edges
  descs.all (descOk k d survey)
    && descs.all (fun x => x.edgeFirst + x.edgeCount ≤ edges.length)
    && edges.all (edgeOk n)
    && ((upFrom 0 n).zip descs).all (fun e => e.2.initCount = (targets.filter (· = e.1)).length)
    && edges.all (fun w => !(eKind w = 1 || eKind w = 2) || bit ((descs.getD (eSucc w) .zero).mask) (eBit w))
    && acyclic descs edges

/-- R313: a CANCEL edge, or a node of EVMODE 1 with more than one MASK bit. -/
def racingImage (descs : List Desc) (edges : List Nat) : Bool :=
  edges.any (fun w => eKind w = 3) || descs.any (fun x => x.evmode && 1 < popcount 32 x.mask)

def relCount (descs : List Desc) : Nat := (descs.filter Desc.release).length

/-- The descriptors of an image whose bytes from 64 on are `body`. -/
def imageDescs (h body : List Byte) : List Desc :=
  (chunks 128 (leAt h 8 4) ((body.drop (leAt h 16 8 - 64)).take (128 * leAt h 8 4))).map Desc.ofBytes

def imageEdges (h body : List Byte) : List Nat :=
  (chunks 4 (leAt h 12 4) ((body.drop (leAt h 24 8 - 64)).take (4 * leAt h 12 4))).map leNat

/-! ### Reading an image (R451) -/

/-- The image part of a line request: where it starts, how many bytes it covers, and how many of them precede the image's next byte. At most 8
whole aligned 64-byte lines, as far as the bytes wanted reach. -/
def lineSpan (x : ImageLoad) : Nat × Nat × Nat :=
  let a := x.addr.toNat + x.bytes.length
  let lo := a / 64 * 64
  let hi := (x.addr.toNat + x.want + 63) / 64 * 64
  (lo, min 512 (hi - lo), a - lo)

/-- Presents the next read of an image, at the port that R440 selects for the image's address; one is out at a time (log 94: DESIGN CHOICE). -/
def imageRequest (k : Cfg) (d : Dyn) (x : ImageLoad) (use : RdUse) : Dyn :=
  let sp := lineSpan x
  busReadOn (k.portOf x.addr.toNat) d sp.1 sp.2.1 use

/-- A read of the image has returned: the bytes of its lines that lie in the image, up to those wanted. -/
def ImageLoad.take (x : ImageLoad) (data : List Byte) : ImageLoad :=
  { x with bytes := x.bytes ++ ((data.drop (lineSpan x).2.2).take (x.want - x.bytes.length)) }

/-- What a returned read leaves of an image's reading: an error ends it, else the next lines are read until all wanted bytes are there. -/
def imageReturned (k : Cfg) (d : Dyn) (x : ImageLoad) (j : RdJob) : ImageLoad × Dyn :=
  let d := dropRead d j.use
  if j.err then ({ x with bad := true }, d)
  else
    let x := x.take (j.data.getD [])
    (x, if x.bytes.length < x.want then imageRequest k d x j.use else d)

/-- Every byte wanted has been read, or a read has failed. -/
def ImageLoad.ready (x : ImageLoad) : Bool := x.bad || x.want ≤ x.bytes.length

/-- An image whose header is to be read. -/
def ImageLoad.start (id : CmdId) (addr : W64) (n : Nat) : ImageLoad :=
  { id := id, addr := addr, bytes := [], want := n, header := true, bad := false }

/-! ### LOAD_GRAPH -/

def putGraph (d : Dyn) (gid : Nat) (g : Graph) : Dyn := { d with gs := { d.gs with graphs := tput d.gs.graphs gid g } }

/-- A graph identifier held by a load (R35). -/
def Graph.loading (id : CmdId) (addr key : W64) (survey : Bool) : Graph :=
  { st := .loading, key := key, prog := 0, nNodes := 0, nEdges := 0, edgeBase := 0, descBase := 0, affBase := 0,
    descs := [], patches := [], epochs := [], affinity := [], racing := false, damaged := false, ordinal := 0,
    load := some (.start id addr 64), patch := none, unload := none, survey := survey }

/-- Denut fixes the key when it takes the LOAD_GRAPH (R70). -/
def graphKey (k : Cfg) (d : Dyn) (ops : BitVec 384) : W64 × Dyn :=
  if k.det then (w64 (mix64 (opn ops 32 8 ^^^ opn ops 20 4)), d)
  else (Config.keyGen k.boot.entropy (d.gs.keys + 1), { d with gs := { d.gs with keys := d.gs.keys + 1 } })

/-- Takes the context's next request when it is a LOAD_GRAPH: draws the key, holds the identifier, reads the header. -/
def loadGraph (c : Nat) (k : Cfg) (d : Dyn) : Dyn :=
  match frontOp d c cLoad with
  | none => d
  | some q =>
    let d := takeReq d q
    let key := graphKey k d q.ops
    let d := key.2
    let gid := gidOf q.ops
    if (tget d.gs.graphs gid).isSome then finish d q.id cLoad .badDescriptor key.1.toNat
    else
      let x := ImageLoad.start q.id (w64 (opn q.ops 24 8)) 64
      imageRequest k (putGraph d gid (Graph.loading q.id x.addr key.1 (k.health == .survey && fromFirmware d q))) x (.graphHdr gid)

/-- A load is refused: the identifier is free again (R35). -/
def loadRefuse (d : Dyn) (gid : Nat) (g : Graph) (id : CmdId) (st : Status) : Dyn :=
  finish { d with gs := { d.gs with graphs := tdel d.gs.graphs gid } } id cLoad st g.key.toNat

/-- The accepted graph: its runs placed, its edge words written, epoch 0 created (R37, R154, R313, R452). Of the two runs in the descriptor store
the descriptors' is placed first: the rules give no order (log 93: DESIGN CHOICE). -/
def loadAccept (k : Cfg) (d : Dyn) (gid : Nat) (g : Graph) (id : CmdId) (h body : List Byte) : Dyn :=
  let descs := imageDescs h body
  let edges := imageEdges h body
  let eb := firstFit 0 edgeWords (edgeRunLen edges.length) (edgeRuns d)
  let db := descPlace k d g.survey [] (descs.length * 128)
  match eb, db with
  | some e, some b =>
    match descPlace k d g.survey [(b, descs.length * 128)] (affRunLen descs.length) with
    | none => loadRefuse d gid g id .full
    | some a =>
      let store := (((upFrom e edges.length).zip edges).foldl (fun t x => tset t x.1 (w32 x.2) 0) d.gs.edge)
      let g := { g with st := .resident, prog := w64 (leAt h 32 8), nNodes := descs.length, nEdges := edges.length,
                        edgeBase := e, descBase := b, affBase := a, descs := descs,
                        epochs := [{ num := 0, ord := 0, relCount := relCount descs }],
                        racing := racingImage descs edges, load := none }
      let d := putGraph { d with gs := { d.gs with edge := store } } gid g
      finish d id cLoad .ok g.key.toNat
  | _, _ => loadRefuse d gid g id .full

/-- The header or the whole image has been read for a load (R451). -/
def loadImage (k : Cfg) (d : Dyn) (gid : Nat) (g : Graph) (x : ImageLoad) : Dyn :=
  let h := x.bytes.take 64
  let b := x.bytes.drop 64
  if !x.ready then d
  else if x.bad then loadRefuse d gid g x.id .eccUncorr
  else if x.header then
    if !graphHeaderOk h then loadRefuse d gid g x.id .badDescriptor
    else
      let x := { x with header := false, want := leAt h 40 8 }
      imageRequest k (putGraph d gid { g with load := some x }) x (.graphBody gid)
  else
    let d := rpImg d x.id (digBytes x.bytes)
    if !imageOk k d g.survey (imageDescs h b) (imageEdges h b) then loadRefuse d gid g x.id .badDescriptor
    else loadAccept k d gid g x.id h b

/-! ### PATCH_GRAPH -/

/-- Takes the context's next request when it is a PATCH_GRAPH; it waits while the graph has four live epochs (R64) or
another patch of it is being read (log 22: DEDUCED). -/
def patchGraph (c : Nat) (k : Cfg) (d : Dyn) : Dyn :=
  match frontOp d c cPatch with
  | none => d
  | some q =>
    let gid := gidOf q.ops
    match tget d.gs.graphs gid with
    | none => finish (takeReq d q) q.id cPatch .badDescriptor 0
    | some g =>
      if g.st ≠ .resident then finish (takeReq d q) q.id cPatch .badDescriptor 0
      else if 4 ≤ g.epochs.length || g.patch.isSome then blockReq d q
      else
        let x := ImageLoad.start q.id (w64 (opn q.ops 24 8)) 16
        imageRequest k (putGraph (takeReq d q) gid { g with patch := some x }) x (.patchHdr gid)

/-- Entries of a patch image: node number and descriptor, and whether the reserved bytes are 0 (Table 2.11). -/
def patchEntries (n : Nat) (b : List Byte) : List (Nat × Desc × Bool) :=
  (chunks 136 n b).map (fun e => (leAt e 0 4, Desc.ofBytes (e.drop 8), leAt e 4 4 = 0))

/-- R61 for one entry against the newest epoch. -/
def patchEntryOk (k : Cfg) (d : Dyn) (g : Graph) (e : Nat × Desc × Bool) : Bool :=
  let old := g.desc ((g.newest.map (·.ord)).getD 0) e.1
  let x := e.2.1
  e.2.2 && e.1 < g.nNodes && descOk k d g.survey x && x.op = old.op && x.initCount = old.initCount
    && x.mask = old.mask && x.evmode = old.evmode && x.edgeFirst = old.edgeFirst && x.edgeCount = old.edgeCount

def patchRefuse (d : Dyn) (gid : Nat) (g : Graph) (id : CmdId) (st : Status) : Dyn :=
  finish (putGraph d gid { g with patch := none }) id cPatch st 0

/-- The patch creates the next epoch (R61, R62). -/
def patchApply (k : Cfg) (d : Dyn) (gid : Nat) (g : Graph) (id : CmdId) (n : Nat) (b : List Byte) : Dyn :=
  let es := patchEntries n b
  if !es.all (patchEntryOk k d g) || (es.map (·.1)).eraseDups.length ≠ es.length then patchRefuse d gid g id .badDescriptor
  else
    match descPlace k d g.survey [] (n * 128) with
    | none => patchRefuse d gid g id .full
    | some base =>
      let last := g.newest.getD { num := 0, ord := 0, relCount := 0 }
      let p : Patch := { ord := last.ord + 1, base := base, copies := es.map (fun e => (e.1, e.2.1)) }
      let g := { g with patch := none, patches := if n = 0 then g.patches else g.patches ++ [p] }
      let rels := relCount ((upFrom 0 g.nNodes).map (g.desc p.ord))
      let g := { g with epochs := g.epochs ++ [{ num := (last.num + 1) % 256, ord := p.ord, relCount := rels }] }
      let d := finish (putGraph d gid g) id cPatch .ok ((last.num + 1) % 256)
      retireEpochs k d gid

/-- The header or all entries have been read for a patch (R451). -/
def patchImage (k : Cfg) (d : Dyn) (gid : Nat) (g : Graph) (x : ImageLoad) : Dyn :=
  let h := x.bytes.take 16
  let n := leAt h 8 4
  if !x.ready then d
  else if x.bad then patchRefuse d gid g x.id .eccUncorr
  else if x.header then
    if leAt h 0 4 ≠ 0x48504E44 || leAt h 4 2 ≠ 3 || leAt h 6 2 ≠ 0 || leAt h 12 4 ≠ 0 || 65536 < n then
      patchRefuse d gid g x.id .badDescriptor
    else if n = 0 then patchApply k (rpImg d x.id (digBytes h)) gid g x.id 0 []
    else
      let x := { x with header := false, want := 16 + 136 * n }
      imageRequest k (putGraph d gid { g with patch := some x }) x (.patchBody gid)
  else patchApply k (rpImg d x.id (digBytes x.bytes)) gid g x.id n (x.bytes.drop 16)

/-- A read of a graph's image, load or patch, has returned: its bytes are taken, and the next lines are read (R451). -/
def imageLines (k : Cfg) (d : Dyn) (gid : Nat) (patch : Bool) (j : RdJob) : Dyn :=
  match tget d.gs.graphs gid with
  | none => dropRead d j.use
  | some g =>
    match (if patch then g.patch else g.load) with
    | none => dropRead d j.use
    | some x =>
      let r := imageReturned k d x j
      putGraph r.2 gid (if patch then { g with patch := some r.1 } else { g with load := some r.1 })

/-- The read of a graph or patch image has completed for a graph (R451): its load or its patch goes on. -/
def graphImageRead (gid : Nat) (k : Cfg) (d : Dyn) : Dyn :=
  match tget d.gs.graphs gid with
  | none => d
  | some g =>
    match g.load, g.patch with
    | some x, _ => loadImage k d gid g x
    | none, some x => patchImage k d gid g x
    | none, none => d

/-! ### UNLOAD_GRAPH -/

/-- Takes the context's next request when it is an UNLOAD_GRAPH (R38). A patch of the graph still being read is refused: an
unloading graph counts as not resident (R61). -/
def unloadGraph (c : Nat) (k : Cfg) (d : Dyn) : Dyn :=
  match frontOp d c cUnload with
  | none => d
  | some q =>
    let d := takeReq d q
    let gid := gidOf q.ops
    match tget d.gs.graphs gid with
    | none => finish d q.id cUnload .badDescriptor 0
    | some g =>
      if g.st ≠ .resident then finish d q.id cUnload .badDescriptor 0
      else
        let d := match g.patch with
          | some x => patchRefuse (dropRead (dropRead d (.patchHdr gid)) (.patchBody gid)) gid g x.id .badDescriptor
          | none => d
        unloadCheck k (putGraph d gid { g with st := .unloading, patch := none, unload := some q.id }) gid

end Sys2Proof.Machine
end

