-- ==== Sys2Proof/Machine/Launches.lean ====
section
/-! DEFINITION. Launches: taking, instantiation, child launches, the start scan, the conservation sweep and the completion
return (R54 to R60, R65, R67, R74, R85, R88, R89, R154, R161, R415). -/
namespace Sys2Proof.Machine

/-! ### Rows (R67) -/

def rowsOf (nodes : Nat) : Nat := (nodes + 63) / 64

def storeRows : Nat := 16384

/-- The rows of every launch slot, whether running or not yet freed: (first row, rows). -/
def usedRows (d : Dyn) : List (Nat × Nat) := (tvals d.ls.slots).map (fun l => (l.base / 64, rowsOf l.nodes))

/-- A run that overlaps the `n` rows from `s`. -/
def rowClash (s n : Nat) (used : List (Nat × Nat)) : Option (Nat × Nat) :=
  used.find? (fun u => (s + storeRows - u.1) % storeRows < u.2 || (u.1 + storeRows - s) % storeRows < n)

/-- Next fit from row `s`, having passed over `gone` rows: a clash moves the start past the run it clashes with. -/
def rowFit (used : List (Nat × Nat)) (n : Nat) : Nat → Nat → Nat → Option Nat
  | 0, _, _ => none
  | f + 1, s, gone =>
    if storeRows ≤ gone then none
    else match rowClash s n used with
      | none => some s
      | some u =>
        let adv := (u.1 + u.2 + storeRows - s) % storeRows
        let adv := if adv = 0 then storeRows else adv
        rowFit used n f ((s + adv) % storeRows) (gone + adv)

def nextFit (d : Dyn) (nodes : Nat) : Option Nat :=
  let u := usedRows d
  rowFit u (rowsOf nodes) (2 * u.length + 2) d.ls.rowPtr 0

/-! ### Taking -/

/-- The ready lists have the free entries of R85. -/
def listsOpen (k : Cfg) (d : Dyn) : Bool :=
  d.dp.root.length + 8192 ≤ 65536 && (upFrom 0 k.nReg).all (fun r => (tgetD d.dp.regs r []).length + 1024 ≤ 8192)

def relReserved (d : Dyn) : Nat := listSum ((tvals d.ls.slots).map (·.relReserved))

/-- What a launch names, and what it will be counted as. -/
structure Want where
  id : CmdId
  svc : Bool
  gid : Nat
  epsel : Bool
  epoch : Nat
  bases : List W64
  seedidx : W32
  wdigest : W64
  idigest : W64
  parent : Option (Nat × Nat)
  deriving DecidableEq, Repr

/-- Why a launch is not taken: it waits, or is refused. -/
inductive NoTake where
  | waits
  | refused (st : Status)
  deriving DecidableEq, Repr

/-- The epoch a launch pins (R65). -/
def pinEpoch (g : Graph) (w : Want) : Option Epoch :=
  if w.epsel then g.epochs.find? (fun e => e.num = w.epoch) else g.newest

/-- Whether a launch can be taken now: its graph, epoch, slot and base (R54, R85, R154, R313, Table 12.4). -/
def admitLaunch (k : Cfg) (d : Dyn) (w : Want) : Except NoTake (Graph × Epoch × Nat × Nat) :=
  if !listsOpen k d then .error .waits
  else match tget d.gs.graphs w.gid with
    | none => .error (.refused .badDescriptor)
    | some g =>
      if g.st ≠ .resident then .error (.refused .badDescriptor)
      else if g.damaged then .error (.refused .eccUncorr)
      else if k.det && g.racing then .error (.refused .determinism)
      else match pinEpoch g w with
        | none => .error (.refused (if w.parent.isSome then .badDescriptor else .epochRetired))
        | some e =>
          match firstFree 1024 0 (tkeys d.ls.slots), nextFit d g.nNodes with
          | some slot, some row =>
            if relReserved d + e.relCount ≤ 16384 then .ok (g, e, slot, row) else .error .waits
          | _, _ => .error .waits

/-- The launch in its slot: epoch pinned, rows taken, launch counters reset; at a sampling tick the slot's final counts are sampled first (R17,
R54, R65, R67, R414, R415). -/
def enterSlot (k : Cfg) (d : Dyn) (w : Want) (g : Graph) (e : Epoch) (slot row : Nat) (phase : LPhase) : Dyn :=
  let l : Launch :=
    { id := w.id, svc := w.svc, graph := w.gid, epoch := e.num, epochOrd := e.ord, base := row * 64, nodes := g.nNodes,
      bases := w.bases, seedidx := w.seedidx, wdigest := w.wdigest, idigest := w.idigest, mode := BitVec.ofNat 8 k.modeByte,
      stepv := d.step, ordinal := g.ordinal, phase := phase, failed := none, instTs := 0, initSum := 0, applied := 0,
      touch := 0, touchPrev := 0, parent := w.parent, relReserved := e.relCount }
  let d := putGraph d w.gid { g with ordinal := g.ordinal + 1 }
  let d := if atTick k d then launchSample k d slot true else d
  { d with ls := { d.ls with
    slots := tput d.ls.slots slot l,
    rowPtr := (row + rowsOf g.nNodes) % storeRows,
    counts := tput d.ls.counts slot { id := w.id, svc := w.svc, fc := d.fc, issues := 0, naks := 0, busy := 0 } } }

/-- Instantiation (R55): every node word is written, then nodes that meet R40 but for their release are handed to the
watch, and the launch runs. A launch that was cancelled meanwhile is abandoned (R296). -/
def instantiate (k : Cfg) (d : Dyn) (slot : Nat) : Dyn :=
  match launchGraph d slot with
  | none => d
  | some (l, x) =>
    let word (n : Nat) : NodeRec :=
      let ds := x.desc l.epochOrd n
      { mask := w32 ds.mask, flags := 0, affinity := tgetD x.affinity n 0xFFFF, launch := slot, shadow := false,
        evmode := ds.evmode, epoch := l.epoch, prio := ds.prio, st := .armed, pend := ds.initCount,
        start := ds.initCount = 0 && ds.mask = 0 && !ds.release }
    let d := (upFrom 0 l.nodes).foldl (fun d n => setNode d (l.global n) (word n)) d
    let sum := listSum ((upFrom 0 l.nodes).map (fun n => (x.desc l.epochOrd n).initCount))
    let d := modLaunch d slot (fun l => { l with phase := .running, instTs := d.ts, initSum := sum })
    let d := if l.failed.isSome then abandonNodes d slot l else d
    let rel := (upFrom 0 l.nodes).filter (fun n => (x.desc l.epochOrd n).release)
    rel.foldl (fun d n => testReady k d slot (l.global n)) d

/-- A launch is taken while the counter banks are fallow: their wake begins at once (R408). -/
def wakeBanks (d : Dyn) : Dyn :=
  if d.pw.cbFallow && !d.pw.cbWaking then gateReq { d with pw := { d.pw with cbWaking := true } } .counterBanks false else d

/-- After a launch's chainage bases are known: it is instantiated, or waits while the counter banks wake (R408). -/
def proceed (k : Cfg) (d : Dyn) (slot : Nat) : Dyn :=
  if d.pw.cbFallow then modLaunch d slot (fun l => { l with phase := .wake }) else settle (instantiate k d slot) slot

/-- The LAUNCH_TAKEN record of a host launch or a service step (Table 11.6). -/
def recordTaken (d : Dyn) (w : Want) (slot epoch : Nat) : Dyn :=
  rpPut d 0x0B false w.id.c w.id.r
    (slot + w.gid * 2 ^ 16 + epoch * 2 ^ 32 + b2n w.svc * 2 ^ 40 + d.step.toNat * 2 ^ 64) [] none

/-- A launch is taken whole: slot, rows, record, and either the read of its chainage bases or its instantiation. -/
def startLaunch (k : Cfg) (d : Dyn) (w : Want) (g : Graph) (e : Epoch) (slot row cbptr : Nat) : Dyn :=
  let d := enterSlot k d w g e slot row (if cbptr = 0 then .wake else .bases)
  let d := wakeBanks (if w.parent.isSome then d else recordTaken d w slot e.num)
  if cbptr = 0 then proceed k d slot else busRead k d cbptr 128 (.chainBases slot)

def zeroBases : List W64 := List.replicate 16 0

def wantLaunch (q : Req) : Want :=
  { id := q.id, svc := q.svc, gid := gidOf q.ops, epsel := bit q.ops.toNat 12, epoch := opn q.ops 18 1, bases := zeroBases,
    seedidx := w32 (opn q.ops 20 4), wdigest := w64 (opn q.ops 32 8), idigest := w64 (opn q.ops 40 8), parent := none }

/-- A service step's return (KIND 0, SVC). -/
def svcRet (r : Ret) : Ret := { r with svc := true }

/-- A launch that is refused posts its return at once, with the mode and STEP of the cycle in which it was taken (R323); a
service step's goes to the firmware. The digest of a graph that does not exist is a free value (log 16: DESIGN CHOICE). -/
def refuseLaunch (k : Cfg) (d : Dyn) (q : Req) (st : Status) : Dyn :=
  let prog := ((tget d.gs.graphs (gidOf q.ops)).map (·.prog)).getD (Config.freeWord d.free)
  let was := d.step
  let d := { d with free := d.free + 1, step := if q.svc then d.step + 1 else d.step }
  let r := { cmdRet q.id cLaunch st 0 with prog := prog, stepv := was, mode := BitVec.ofNat 8 k.modeByte }
  if q.svc then pushRet d (svcRet r) else finishRet d r

/-- Takes the context's next request when it is a LAUNCH; otherwise, or while it must wait, nothing (R54, R85, R295). -/
def launch (c : Nat) (k : Cfg) (d : Dyn) : Dyn :=
  match frontOp d c cLaunch with
  | none => d
  | some q =>
    if launchesHeld k d || !takesLaunch k d q || !rpRoom d 1 false then blockReq d q
    else
      let w := wantLaunch q
      match admitLaunch k d w with
      | .error .waits => blockReq d q
      | .error (.refused st) => refuseLaunch k (takeReq d q) q st
      | .ok (g, e, slot, row) => startLaunch k (takeReq d q) w g e slot row (opn q.ops 24 8)

/-- The chainage-base block of a launch has been read; an error response fails the launch (Table 12.4). -/
def basesRead (k : Cfg) (d : Dyn) (slot : Nat) (j : RdJob) : Dyn :=
  let d := dropRead d (.chainBases slot)
  let b := j.data.getD []
  match tget d.ls.slots slot with
  | none => d
  | some l =>
    let d := modLaunch d slot (fun l => { l with bases := (upFrom 0 16).map (fun s => w64 (leAt b (8 * s) 8)) })
    let d := if j.err then failLaunch d slot .eccUncorr else rpImg d l.id (digBytes b)
    proceed k d slot

/-! ### Tasks that run inside Denut -/

/-- The task of a node that has not ended. -/
def taskOf (d : Dyn) (slot g : Nat) : Option Task :=
  d.dp.tasks.find? (fun t => t.slot = slot && t.g = g && t.kind = .node && !t.ended)

def dropTask (d : Dyn) (idx : Nat) : Dyn :=
  unholdTask { d with dp := { d.dp with tasks := d.dp.tasks.filter (fun t => t.idx ≠ idx) } } idx

/-- A node's task is over: its ranges and its reserved completion-queue entry are released, and the node ends; the report of
a node that has timed out is discarded (R77, Table 4.3). -/
def endTask (d : Dyn) (t : Task) (st : Status) (leaf : Option Nat) : Dyn :=
  let d := dropTask (freeRanges d t.idx) t.idx
  let n := getNode d t.g
  if t.ended || n.st.terminal || n.launch ≠ t.slot then d
  else if st = .ok then settle (nodeDone d t.idx t.slot t.g leaf) t.slot
  else settle (nodeFailed d t.slot t.g st) t.slot

/-- A node executed inside Denut ends. -/
def internalEnd (d : Dyn) (slot g : Nat) (st : Status) : Dyn :=
  match taskOf d slot g with
  | none => d
  | some t => endTask d t st none

/-! ### Child launches (R60) -/

/-- The child launch of a GRAPH node has completed: the node ends, or the task of one that has ended before it goes. -/
def childEnd (d : Dyn) (slot g : Nat) (st : Status) : Dyn :=
  match d.dp.tasks.find? (fun t => t.slot = slot && t.g = g && t.op = kGraph && t.ended) with
  | some t => dropTask (freeRanges d t.idx) t.idx
  | none => internalEnd d slot g st

/-- Levels of nesting of a launch below its host launch. -/
def nesting (d : Dyn) : Nat → Nat → Nat
  | 0, _ => 0
  | n + 1, slot =>
    match tget d.ls.slots slot with
    | some l => match l.parent with
      | some p => 1 + nesting d n p.1
      | none => 0
    | none => 0

def hasChild (d : Dyn) (slot g : Nat) : Bool := (tvals d.ls.slots).any (fun l => l.parent = some (slot, g) && l.inFlight)

/-- The running GRAPH node of a global index makes its child launch, fails, or goes on waiting. -/
def childLaunch (g : Nat) (k : Cfg) (d : Dyn) : Dyn :=
  match d.dp.tasks.find? (fun t => t.g = g && t.op = kGraph && !t.ended) with
  | none => d
  | some t =>
    match tget d.ls.slots t.slot with
    | none => d
    | some l =>
      let n := getNode d g
      if hasChild d t.slot g || n.st ≠ .running || n.launch ≠ t.slot then d
      else if l.failed.isSome then internalEnd d t.slot g .cancelled
      else if 8 ≤ nesting d 9 t.slot then internalEnd d t.slot g .badDescriptor
      else
        let x := nodeDesc d t.slot g
        let w : Want := { id := l.id, svc := l.svc, gid := x.b 0 12, epsel := x.b 12 1 = 1, epoch := x.b 16 8,
                          bases := l.bases, seedidx := l.seedidx, wdigest := l.wdigest, idigest := l.idigest,
                          parent := some (t.slot, g) }
        match admitLaunch k d w with
        | .error .waits => d
        | .error (.refused st) => internalEnd d t.slot g st
        | .ok (gr, e, slot, row) => startLaunch k d w gr e slot row 0

/-! ### Start scan (R74) -/

/-- The scan meets a word of the launch: a start bit makes its node ready, or the scan of its bank pauses there for want of room. -/
def scanWord (k : Cfg) (slot : Nat) (s : Dyn × List Nat) (g : Nat) : Dyn × List Nat :=
  let n := getNode s.1 g
  let b := nodeBank s.1 slot g
  if !(n.start && n.st == .armed && n.launch = slot) || s.2.contains b || unitWaits s.1 0x03 (bankUnit b) then s
  else if readyRoom s.1 slot g then (becomeReady k s.1 slot g, s.2) else (s.1, b :: s.2)

/-- The scan of a launch's rows, one after another in every bank. -/
def startScan (slot : Nat) (k : Cfg) (d : Dyn) : Dyn :=
  match tget d.ls.slots slot with
  | none => d
  | some l => if l.phase ≠ .running then d else settle (l.indices.foldl (scanWord k slot) (d, [])).1 slot

/-! ### Sweep and completion (R57, R63, R88, R89) -/

/-- The sweep of a launch whose nodes are all terminal and whose operations are all applied. -/
def conservationSweep (slot : Nat) (_k : Cfg) (d : Dyn) : Dyn :=
  match tget d.ls.slots slot with
  | none => d
  | some l =>
    if l.phase ≠ .running || !launchQuiet d slot || !allTerminal d l then d
    else
      let fin := listSum (l.indices.map (fun g => (getNode d g).pend))
      modLaunch d slot (fun l => { l with phase := .swept fin })

/-- Nodes of a launch that ended cancelled. -/
def cancelledCount (d : Dyn) (l : Launch) : Nat := (l.indices.filter (fun g => (getNode d g).st == .cancelled)).length

/-- The rows of a launch are written to the all-zero node word (R453). -/
def freeRows (d : Dyn) (l : Launch) : Dyn :=
  let row0 := l.base / 64
  let inRun (g : Nat) : Bool := (g / 64 + storeRows - row0) % storeRows < rowsOf l.nodes
  { d with nb := { d.nb with nodes := d.nb.nodes.filter (fun e => !inRun e.1) } }

/-- The completion return of a launch (R57, Table 10.7). A count of 2 ^ 20, which VALUE[35:16] cannot hold, is given modulo 2 ^ 20 (log 97:
DESIGN CHOICE). -/
def launchRet (d : Dyn) (slot : Nat) (l : Launch) (prog : W64) (st : Status) : Ret :=
  { cmdRet l.id cLaunch st (w64 (slot + cancelledCount d l % 2 ^ 20 * 2 ^ 16 + l.epoch * 2 ^ 36)) with
    svc := l.svc, prog := prog, stepv := l.stepv, mode := l.mode, slot := some slot }

/-- What a launch's end gives back: its release reserve, its epoch's pin, its graph (R63, R154, R38). -/
def launchGone (k : Cfg) (d : Dyn) (l : Launch) : Dyn := unloadCheck k (retireEpochs k d l.graph) l.graph

/-- Posts the completion return of a swept launch. A child launch ends its GRAPH node instead, and its slot and rows are free
at once (log 23: DEDUCED). A failed sum makes a record, and the return waits while that record, or one of a failed operation of the launch, cannot
enter (R333). -/
def launchCompletionReturn (slot : Nat) (k : Cfg) (d : Dyn) : Dyn :=
  match launchGraph d slot with
  | none => d
  | some (l, x) =>
    match l.phase with
    | .swept fin =>
      let good := l.initSum = l.applied + fin
      if (!good && summaryFull d) || d.fs.waiting.any (fun w => w.record.mech = 0x05 && w.record.launch = some slot) then d
      else
        let d := if good then d else
          fault k d { frec 0x05 .conservation (rootUnit 1) with
            ctx := some l.id.c, launch := some slot, detail := w64 (l.initSum + (l.applied + fin) * 2 ^ 32) }
        let st := if good then l.failed.getD .ok else .conservation
        match l.parent with
        | some p =>
          let d := launchSample k d slot true
          let d := freeRows { d with ls := { d.ls with slots := tdel d.ls.slots slot } } l
          childEnd (launchGone k d l) p.1 p.2 st
        | none =>
          let r := launchRet d slot l x.prog st
          let d := if l.svc then pushRet d r else finishRet d r
          let d := modLaunch d slot (fun l => { l with phase := .returned, relReserved := 0 })
          let d := if l.svc then { d with step := d.step + 1 } else d
          launchGone k (launchSample k d slot true) l
    | _ => d

end Sys2Proof.Machine
end

