-- ==== Sys2Proof/Machine/Banks.lean ====
section
/-! DEFINITION. The counter banks and walkers: DEC, EVT, DEC_EVT, CANCEL, EDGE_WALK, READY_ENTRY_ENTER, CHECK_INTERVAL_CLOSE,
INTERVAL_COMPARE, and the counts of READY_BP and BANK_SKEW (R72 to R87, R91, R92, R342, R454). -/
namespace Sys2Proof.Machine

/-! ### Operations at a bank -/

def bankQueue (d : Dyn) (b : Nat) : List BankOp := tgetD d.nb.queue b []

def setBankQueue (d : Dyn) (b : Nat) (l : List BankOp) : Dyn :=
  { d with nb := { d.nb with queue := tset d.nb.queue b l [] } }

/-- The launch whose rows hold a global index. -/
def rowOwner (d : Dyn) (g : Nat) : Option Nat :=
  (d.ls.slots.find? (fun e => (g / 64 + storeRows - e.2.base / 64) % storeRows < rowsOf e.2.nodes)).map (·.1)

/-- R75: the state of a word at which an operation is illegal. -/
def opIllegal (n : NodeRec) (o : BankOp) : Bool :=
  n.st == .idle || n.launch ≠ o.slot || ((o.kind == .dec || o.kind == .decEvt) && n.pend = 0)

/-- An illegal operation is not applied: a record against the launch that owns the row, which fails (R75). -/
def illegalOp (k : Cfg) (d : Dyn) (b : Nat) (o : BankOp) : Dyn :=
  let slot := (rowOwner d o.g).getD o.slot
  let ctx := (tget d.ls.slots slot).map (fun l => l.id.c)
  let d := fault k d { frec 0x05 .conservation (bankUnit b) with ctx := ctx, launch := some slot, node := some o.g }
  failLaunch d slot .conservation

/-- The flag of an EVT or DEC_EVT is recorded in an armed, ready or range-held node, discarded in any later one (R45). -/
def setFlag (n : NodeRec) (bitNo : Nat) : NodeRec :=
  if n.st.waiting then { n with flags := n.flags ||| w32 (2 ^ bitNo) } else n

/-- The effect of a legal operation on the word, and on the launch's APPLIED count (Table 3.1, R76, R88). -/
def applyOp (k : Cfg) (d : Dyn) (o : BankOp) : Dyn :=
  let n := getNode d o.g
  match o.kind with
  | .dec =>
    let d := setNode d o.g { n with pend := n.pend - 1 }
    testReady k (modLaunch d o.slot (fun l => { l with applied := l.applied + 1 })) o.slot o.g
  | .evt => testReady k (setNode d o.g (setFlag n o.bit)) o.slot o.g
  | .decEvt =>
    let d := setNode d o.g { setFlag n o.bit with pend := n.pend - 1 }
    testReady k (modLaunch d o.slot (fun l => { l with applied := l.applied + 1 })) o.slot o.g
  | .cancel => if n.st.waiting then cancelSkipped d o.slot o.g else d

/-- A completed node leaves the completion queue once its last span has been walked and its last operation applied (R80). -/
def cqClear (d : Dyn) : Dyn :=
  let gone (e : CqEntry) : Bool := e.next = e.count && e.left = 0 && !d.nb.walkers.any (fun w => w.2.cq = e.idx)
  { d with nb := { d.nb with cq := d.nb.cq.filter (fun e => !gone e) } }

/-- The operation counts off its completed node. -/
def opApplied (d : Dyn) (o : BankOp) : Dyn :=
  cqClear { d with nb := { d.nb with cq := mapFirst (fun e => e.idx = o.cq) (fun e => { e with left := e.left - 1 }) d.nb.cq } }

/-- The bank can move its next operation: its outbox has room (R454), and a completion-queue entry is there for what a
JOIN or a cancelled node would need. -/
def bankRoom (d : Dyn) (b : Nat) (o : BankOp) : Bool :=
  (outbox d b).length < 16 && ((cqFree d).isSome || !(o.kind == .cancel || (nodeDesc d o.slot o.g).op = kJoin))

/-- A CANCEL among the operations that can leave the queue in one cycle, at most four, with an operation of another kind on its word behind it: it is
merged with that one and applied after it (R46, R72). -/
def deferred (o : BankOp) (behind : List BankOp) : Bool := o.kind == .cancel && behind.any (fun x => x.g = o.g && x.kind ≠ .cancel)

/-- The operation that a bank applies next and what stays in its queue, looking at the first `n` operations. -/
def nextOp : Nat → List BankOp → Option (BankOp × List BankOp)
  | 0, _ => none
  | _, [] => none
  | n + 1, o :: t => if deferred o (t.take n) then (nextOp n t).map (fun x => (x.1, o :: x.2)) else some (o, t)

/-- A bank applies its next operation, when it is of this kind and the bank has room (R72, R73). -/
def bankOp (kind : OpKind) (b : Nat) (k : Cfg) (d : Dyn) : Dyn :=
  match nextOp 4 (bankQueue d b) with
  | none => d
  | some (o, t) =>
    if o.kind ≠ kind || d.pw.cbFallow || !bankRoom d b o then d
    else
      let d := setBankQueue d b t
      let d := if opIllegal (getNode d o.g) o then illegalOp k d b o else applyOp k d o
      settleAll (opApplied d o)

/-! ### Walkers (R78, R80) -/

/-- The operation an edge produces (Table 2.5). -/
def edgeOp (skipped : Bool) (w : Nat) : Option OpKind :=
  match eKind w with
  | 0 => some .dec
  | 1 => if skipped then none else some .evt
  | 2 => if skipped then some .dec else some .decEvt
  | 3 => if skipped then none else some .cancel
  | _ => none

/-- An operation leaves its walker and is accepted into the bank's input queue: both count it for the check interval, and the launch's touch
mask names the bank (R87). -/
def sendOp (d : Dyn) (w b : Nat) (o : BankOp) : Dyn :=
  let d := setBankQueue d b (bankQueue d b ++ [o])
  let i := 64 * w + b
  let d := { d with nb := { d.nb with sent := tset d.nb.sent i (tgetD d.nb.sent i 0 + 1) 0,
                                      accepted := tset d.nb.accepted i (tgetD d.nb.accepted i 0 + 1) 0 } }
  modLaunch d o.slot (fun l => { l with touch := l.touch ||| w64 (2 ^ b) })

/-- The waiting operations of a walker whose banks have a free entry leave it, in order; the others stay (R78). -/
def sendOps (w : Nat) (d : Dyn) (ops : List (Nat × BankOp)) : Dyn × List (Nat × BankOp) :=
  ops.foldl (fun s x => if (bankQueue s.1 x.1).length < 16 then (sendOp s.1 w x.1 x.2, s.2) else (s.1, s.2 ++ [x])) (d, [])

/-- The operations of `n` edge words of a completed node from its edge `i` on, with their banks. -/
def lineOps (d : Dyn) (w : Nat) (l : Launch) (key : Nat) (e : CqEntry) (i n : Nat) : List (Nat × BankOp) :=
  let words := (upFrom (e.first + i) n).map (fun j => (tgetD d.gs.edge j 0).toNat)
  words.filterMap (fun v => (edgeOp e.skipped v).map (fun kind =>
    (bankOf key (eSucc v), { kind := kind, g := l.global (eSucc v), slot := e.slot, bit := eBit v, walker := w, cq := e.idx })))

/-- Edges of a node that its line of 8 words still holds from edge `i` of a span that ends at `stop`. -/
def lineLen (e : CqEntry) (i stop : Nat) : Nat := min (8 - (e.first + i) % 8) (stop - i)

/-- A walker goes through its span line by line: what waits is sent, and while all of it could be, the next line is read. A finished span frees the
walker. -/
def walkLines (w : Nat) (l : Launch) (key : Nat) (e : CqEntry) : Nat → Dyn → Walker → Dyn
  | 0, d, x => { d with nb := { d.nb with walkers := tput d.nb.walkers w x } }
  | f + 1, d, x =>
    let s := sendOps w d x.wait
    if !s.2.isEmpty then { s.1 with nb := { s.1.nb with walkers := tput s.1.nb.walkers w { x with wait := s.2 } } }
    else if x.stop ≤ x.next then { s.1 with nb := { s.1.nb with walkers := tdel s.1.nb.walkers w } }
    else
      let n := lineLen e x.next x.stop
      let ops := lineOps s.1 w l key e x.next n
      let cq := mapFirst (fun c => c.idx = e.idx) (fun c => { c with left := c.left + ops.length }) s.1.nb.cq
      walkLines w l key e f { s.1 with nb := { s.1.nb with cq := cq } } { x with next := x.next + n, wait := ops }

/-- A free walker takes the oldest completed node with edges left, for one span of at most 64 of them. -/
def takeSpan (w : Nat) (d : Dyn) : Dyn :=
  match tget d.nb.walkers w with
  | some _ => d
  | none =>
    match d.nb.cq.find? (fun e => e.next < e.count) with
    | none => d
    | some e =>
      let n := min 64 (e.count - e.next)
      let cq := mapFirst (fun c => c.idx = e.idx) (fun c => { c with next := c.next + n }) d.nb.cq
      { d with nb := { d.nb with cq := cq, walkers := tput d.nb.walkers w { cq := e.idx, next := e.next, stop := e.next + n, wait := [] } } }

/-- EDGE_WALK: a free walker takes a span; a walker with a span sends its operations until one meets a full input queue (R78). Walkers that read one
slice in one cycle differ in time only (log 4: DESIGN CHOICE). -/
def edgeWalk (w : Nat) (_k : Cfg) (d : Dyn) : Dyn :=
  let d := takeSpan w d
  match tget d.nb.walkers w with
  | none => d
  | some x =>
    match d.nb.cq.find? (fun e => e.idx = x.cq) with
    | none => d
    | some e =>
      match launchGraph d e.slot with
      | none => d
      | some (l, g) => settle (cqClear (walkLines w l g.key.toNat e 12 d x)) e.slot

/-! ### Ready lists (R23, R81, R82) -/

/-- The leaves a node can be placed on, hedges and credit apart (R94). -/
def placeable (k : Cfg) (d : Dyn) (x : Desc) : List Nat :=
  if x.pin then [x.target].filter k.present
  else (leafSet k d x.target).filter (fun l => k.present l && (if x.op = kSection then k.classOf l ≠ 6 else k.classOf l = x.cls))

/-- Runs on engines, in contrast to the kinds executed inside Denut (R31). -/
def onEngines (op : Nat) : Bool := [kThread, kKernel, kMove, kNear, kSection, kSurvey].contains op

/-- The list a ready node enters: a region's when its leaf set, or its pinned leaf, lies there (R23, R106). -/
def listOf (k : Cfg) (d : Dyn) (x : Desc) : Disp :=
  if !onEngines x.op then .root
  else match (if x.pin then [x.target] else leafSet k d x.target) with
    | [] => .root
    | a :: t => if t.all (fun l => leafRegion l = leafRegion a) then .region (leafRegion a) else .root

def readyList (d : Dyn) : Disp → List REntry
  | .root => d.dp.root
  | .region r => tgetD d.dp.regs r []

def setReadyList (d : Dyn) (disp : Disp) (l : List REntry) : Dyn :=
  match disp with
  | .root => { d with dp := { d.dp with root := l } }
  | .region r => { d with dp := { d.dp with regs := tset d.dp.regs r l [] } }

def listReserve : Disp → Nat
  | .root => 256
  | .region _ => 32

def listShared : Disp → Nat
  | .root => 61440
  | .region _ => 7680

/-- A list's number. -/
def listNo : Disp → Nat
  | .root => 0
  | .region r => r + 1

def levelCount (l : List REntry) (level : Nat) : Nat := (l.filter (fun e => e.level = level)).length

/-- Entries of a level that stand in the shared part: a freed entry goes back to its level's reserve first (R81). -/
def sharedUse (d : Dyn) (disp : Disp) (l : List REntry) (level : Nat) : Nat :=
  min (tgetD d.dp.shared (16 * listNo disp + level) 0) (levelCount l level)

/-- The level's reserve has a free entry (R81). -/
def reserveRoom (d : Dyn) (disp : Disp) (l : List REntry) (level : Nat) : Bool :=
  levelCount l level - sharedUse d disp l level < listReserve disp

/-- A level may take one entry more: from its reserve, or from the shared part (R81). -/
def levelRoom (d : Dyn) (disp : Disp) (l : List REntry) (level : Nat) : Bool :=
  reserveRoom d disp l level || listSum ((upFrom 0 16).map (sharedUse d disp l)) < listShared disp

/-- Entries that a list takes in one cycle (R82). -/
def listRate : Disp → Nat
  | .root => 32
  | .region _ => 8

/-- Entries that a list has taken in this cycle. -/
def tookNow (d : Dyn) (disp : Disp) : Nat :=
  match tget d.dp.took (listNo disp) with
  | some x => if x.1 = d.fc then x.2 else 0
  | none => 0

/-- Of two heads that have been offered, the first goes first: offered in an earlier cycle, or in the same one with the lower index (R82). -/
def headBefore (a b : REntry) : Bool :=
  let x := (a.offered.getD 0).toNat
  let y := (b.offered.getD 0).toNat
  x < y || (x = y && a.g < b.g)

/-- The list that an entry names, and whether it has room at the entry's level. -/
def entryList (k : Cfg) (d : Dyn) (e : REntry) : Disp := listOf k d (nodeDesc d e.slot e.g)
def entryRoom (k : Cfg) (d : Dyn) (e : REntry) : Bool :=
  levelRoom d (entryList k d e) (readyList d (entryList k d e)) e.level

/-- Another bank's head that the list takes before this one (R82). -/
def outranked (k : Cfg) (d : Dyn) (e : REntry) : Bool :=
  d.nb.outbox.any (fun b => match b.2.find? (fun x => !x.void) with
    | some h => headBefore h e && entryList k d h = entryList k d e && entryRoom k d h
    | none => false)

/-- An entry enters its list at its level, from the reserve or the shared part, and its descriptor is fetched when it is not in the cache
(R81, R82, R99). -/
def enterList (k : Cfg) (d : Dyn) (e : REntry) : Dyn :=
  let disp := entryList k d e
  let l := readyList d disp
  let use := sharedUse d disp l e.level + b2n (!reserveRoom d disp l e.level)
  let d := { d with dp := { d.dp with shared := tset d.dp.shared (16 * listNo disp + e.level) use 0,
                                      took := tput d.dp.took (listNo disp) (d.fc, tookNow d disp + 1) } }
  let d := setReadyList d disp (l ++ [{ e with age := d.dp.age }])
  let d := { d with dp := { d.dp with age := d.dp.age + 1 } }
  let off := nodeDescOff d e.slot e.g
  if dcHit d off then d else dcFill k d off

/-- READY_ENTRY_ENTER: the entry at the head of a bank's outbox enters its list when that has room for it in this cycle and no other bank's head goes
before it (R82 to R84). -/
def readyEntryEnter (b : Nat) (k : Cfg) (d : Dyn) : Dyn :=
  let box := (outbox d b).dropWhile (·.void)
  let d := setOutbox d b box
  match box with
  | [] => d
  | e :: t =>
    if !entryRoom k d e || listRate (entryList k d e) ≤ tookNow d (entryList k d e) || outranked k d e then d
    else enterList k (setOutbox d b (offerHead d.fc t)) e

/-! ### Check intervals (R87, R342, R344) -/

/-- The packets of a stub that its interval report counts: committed at least 16 cycles before, and still in a port (R342). -/
def stubPkts (d : Dyn) (stub : Nat) : List Pkt :=
  ((d.en.filter (fun e => e.1 / 16 = stub)).flatMap (fun e => e.2.pkts)).filter (fun p => 16 ≤ (d.fc - p.sent).toNat)

/-- A count, and the sum of LAUNCH × 2^20 + NODE. -/
def tally (l : List (Nat × Nat)) : Nat × Nat := (l.length, listSum (l.map (fun p => p.1 * 2 ^ 20 + p.2)) % p32)

/-- What a stub reports of its ports. -/
def stubTally (d : Dyn) (stub : Nat) : Nat × Nat := tally ((stubPkts d stub).map (fun p => (p.slot, p.g)))

/-- A copy whose packet the root still counts at its stub: neither released nor reported released. -/
def copyOut (d : Dyn) (t : Task) (c : Copy) : Bool :=
  !c.released && !d.rep.reports.any (fun r => r.task = t.idx && r.leaf = c.leaf && !r.hang)

/-- What the root forms for a stub from the tasks that its completion queue holds entries for: commits at least 16 cycles old (R342). -/
def rootTally (d : Dyn) (stub : Nat) : Nat × Nat :=
  tally ((d.dp.tasks.filter (fun t => 16 ≤ (d.fc - t.commit).toNat)).flatMap (fun t =>
    (t.copies.filter (fun c => c.leaf / 16 = stub && copyOut d t c)).map (fun _ => (t.slot, t.g))))

/-- A record of an interval disagreement of this stub waits, and so does its next report (Table 12.12). -/
def stubSilent (d : Dyn) (stub : Nat) : Bool :=
  d.fs.waiting.any (fun w => w.record.mech = 0x06 && w.record.unit = unitOf (16 * stub) && w.record.eng.isNone)

/-- Stubs with something to report or to be reported, in ascending order of their unit codes. -/
def tallyStubs (d : Dyn) : List Nat :=
  let all := (d.en.filter (fun e => !e.2.pkts.isEmpty)).map (fun e => e.1 / 16) ++ d.dp.tasks.flatMap (fun t => t.copies.map (fun c => c.leaf / 16))
  (isort (fun a b => unitOf (16 * a) ≤ unitOf (16 * b)) all.eraseDups).filter (fun s => !stubSilent d s)

/-- The check interval has lasted 8,000 ticks by the timestamp (R87, R167). -/
def intervalOver (d : Dyn) : Bool := reached d.ts (d.nb.intervalFrom + 8000)

/-- A check interval closes: its counts, tallies and touch masks are latched, and the next interval begins (R87, R342). -/
def checkIntervalClose (_k : Cfg) (d : Dyn) : Dyn :=
  if !intervalOver d then d else
  let stubs := tallyStubs d
  let slots := d.ls.slots.map (fun e => (e.1, { e.2 with touchPrev := e.2.touch, touch := 0 }))
  let ledger := (d.fe.ledger.filter (fun e => !e.old)).map (fun e => { e with old := true, banksPrev := e.banks, banks := 0 })
  { d with
    nb := { d.nb with latchedSent := d.nb.sent, latchedAcc := d.nb.accepted, sent := [], accepted := [],
                      tallies := stubs.map (fun s => (s, rootTally d s)), reported := stubs.map (fun s => (s, stubTally d s)),
                      intervalFrom := d.ts },
    ls := { d.ls with slots := slots },
    fe := { d.fe with ledger := ledger } }

/-- A FAULT entry for a launch whose completion has been posted already (R344): DSEQ, ring and the failing status, for the firmware to post; the
record's index is filled in when the record enters. -/
def ledgerEntry (st : Status) (e : LedgerEntry) : Nat × BitVec 512 :=
  (e.id.c, BitVec.ofNat 512 (e.id.dseq.toNat * 2 ^ 32 + 3 * 2 ^ 64 + st.code * 2 ^ 72 + e.id.r * 2 ^ 80 + cLaunch * 2 ^ 88))

/-- Launches and completed launches that a failure of Denut's own logic is charged to, as their slots and commands. -/
def chargedTo (d : Dyn) (f : Nat → Launch → Bool) (g : LedgerEntry → Bool) : List (Nat × CmdId) :=
  (d.ls.slots.filter (fun e => f e.1 e.2)).map (fun e => (e.1, e.2.id)) ++ (d.fe.ledger.filter g).map (fun e => (e.slot, e.id))

/-- A launch's return that the front end has not turned into its entry yet takes the failing status: the completion is still to be posted (R341,
R344; log 103: DEDUCED). -/
def failReturns (d : Dyn) (ids : List (Nat × CmdId)) : Dyn :=
  let hit (r : Ret) : Bool := r.kind = 0 && r.op = cLaunch && !r.fe && r.status == .ok && r.slot.any (fun s => ids.contains (s, r.id))
  { d with lt := { d.lt with rets := mapIf hit (fun r => { r with status := .conservation }) d.lt.rets } }

/-- A failure of Denut's own logic: its record, and CONSERVATION for every launch it is charged to: those in flight fail, those whose return
waits get the status, and those whose completion has been posted get a FAULT entry (R87, R341, R344). -/
def conservationFault (k : Cfg) (d : Dyn) (r : FRec) (ids : List (Nat × CmdId)) : Dyn :=
  let late := (d.fe.ledger.filter (fun e => ids.contains (e.slot, e.id))).map (ledgerEntry .conservation)
  let d := faultFull k d r [] late
  let hit := (d.ls.slots.filter (fun e => e.2.inFlight && ids.contains (e.1, e.2.id))).map (·.1)
  failReturns (hit.foldl (fun d s => failLaunch d s .conservation) d) ids

/-- The record of a pair of counts that disagrees: walker and bank. -/
def pairRec (pair sent acc : Nat) : FRec :=
  { frec 0x04 .conservation (bankUnit (pair % 64)) with
    detail := w64 (pair / 64 + sent % 65536 * 2 ^ 16 + acc % 65536 * 2 ^ 48) }

/-- The comparison of a pair's counts in one interval: a disagreement makes a record against the bank, and every launch that sent to it in that
interval fails. It waits while a record of the pair waits (R87, R333). -/
def comparePair (k : Cfg) (d : Dyn) (c : HeldCompare) : Dyn :=
  let r := pairRec c.pair c.sent c.accepted
  if c.sent = c.accepted then d
  else if sourceHolds d r then { d with nb := { d.nb with heldCmp := d.nb.heldCmp ++ [c] } }
  else conservationFault k d r c.launches

/-- Launches with a packet at a stub. -/
def stubLaunches (d : Dyn) (stub : Nat) : List Nat :=
  (((d.en.filter (fun e => e.1 / 16 = stub)).flatMap (fun e => e.2.pkts)).map (·.slot)).eraseDups

/-- A stub's report that disagrees with the root's: a record against the stub, and its launches fail. -/
def tallyMismatch (k : Cfg) (d : Dyn) (stub : Nat) (root got : Nat × Nat) : Dyn :=
  let diff := (root.2 + p32 - got.2 % p32) % p32
  let r := { frec 0x06 .conservation (unitOf (16 * stub)) with detail := w64 (root.1 % 65536 + got.1 % 65536 * 2 ^ 16 + diff * 2 ^ 32) }
  if root = got || sourceHolds d r then d
  else (stubLaunches d stub).foldl (fun d s => failLaunch d s .conservation) (fault k d r)

/-- The comparisons of the closed interval, in ascending order of the unit codes (R19): stubs, then banks. -/
def pairOrder (a b : HeldCompare) : Bool := a.pair % 64 < b.pair % 64 || (a.pair % 64 = b.pair % 64 && a.pair / 64 ≤ b.pair / 64)

/-- A pair's comparison: what was sent and accepted, and the launches that sent to the bank in the interval. -/
def pairCompare (d : Dyn) (acc : Tab Nat) (i : Nat) : HeldCompare :=
  { pair := i, sent := tgetD d.nb.latchedSent i 0, accepted := tgetD acc i 0,
    launches := chargedTo d (fun _ l => bit l.touchPrev.toNat (i % 64)) (fun e => bit e.banksPrev.toNat (i % 64)) }

/-- INTERVAL_COMPARE: comparisons that waited, then those of the closed interval. `accepted` and `tallies` are what banks and stubs report where a
hardware fault makes it differ (log 12: DESIGN CHOICE). -/
def intervalCompare (accepted tallies : List (Nat × Nat × Nat)) (k : Cfg) (d : Dyn) : Dyn :=
  let acc := (accepted.filter (fun a => a.1 < 64 && a.2.1 < 64)).foldl (fun t a => tset t (64 * a.1 + a.2.1) a.2.2 0) d.nb.latchedAcc
  let pairs := (tkeys d.nb.latchedSent ++ tkeys acc).eraseDups.map (pairCompare d acc)
  let held := d.nb.heldCmp
  let d1 := held.foldl (comparePair k) { d with nb := { d.nb with heldCmp := [] } }
  let got (s : Nat) : Nat × Nat := (tallies.find? (fun t => t.1 = s)).elim (tgetD d.nb.reported s (0, 0)) (·.2)
  let d2 := d.nb.tallies.foldl (fun d' t => tallyMismatch k d' t.1 t.2 (got t.1)) d1
  let d3 := (isort pairOrder pairs).foldl (comparePair k) d2
  settleAll { d3 with nb := { d3.nb with latchedSent := [], latchedAcc := [], tallies := [], reported := [] } }

end Sys2Proof.Machine
end

