-- ==== Sys2Proof/Machine/Engine.lean ====
section
/-! DEFINITION. Engines and their work ports: credit (R95, R107), packets (R128, R129, R132), notices and reads (R133 to
R139), idle items (R136, R137, R356), and the range scoreboards (R109 to R114). -/
namespace Sys2Proof.Machine

/-! ### Credit -/

/-- Words of a leaf's port (Table 5.1). -/
def Cfg.portWords (k : Cfg) (l : Nat) : Nat := if k.isWp2 l then 2 else 4

/-- The dispatcher's credit for a leaf (R95, R115). -/
def credit (k : Cfg) (d : Dyn) (l : Nat) : Nat := k.portWords l - (getEng d l).used - (getEng d l).secHeld

/-- Words of an issue packet on a leaf's port (Table 5.4). -/
def Cfg.packetLen (k : Cfg) (l bw : Nat) : Nat := if k.isWp2 l then (if bw = 0 then 1 else 2) else 1 + bw

/-- A leaf is free for a node: credit for the packet and, for a THREAD, a free thread context (R94, R107). -/
def leafFree (k : Cfg) (d : Dyn) (op bw l : Nat) : Bool :=
  k.packetLen l bw ≤ credit k d l && (op ≠ kThread || (getEng d l).threads < 4)

/-- A reservation keeps a leaf from a node (R116). -/
def reservedAgainst (d : Dyn) (g prio l : Nat) : Bool :=
  d.dp.resv.any (fun r => r.g ≠ g && r.members.contains l && r.prio ≤ prio)

/-- R94. -/
def eligible (k : Cfg) (d : Dyn) (g : Nat) (x : Desc) : List Nat :=
  (placeable k d x).filter (fun l => !hedged d l && !reservedAgainst d g x.prio l)

/-! ### Packets -/

/-- VALID of an issue packet (Table 5.4); COLDFETCH and tiles are KERNEL- and MOVE-shaped by their last assigned byte. -/
def packetValid (wp2 : Bool) (op bw : Nat) : Nat :=
  if wp2 then 16
  else if bw = 0 then 24
  else if op = kKernel && bw = 1 then 20
  else if op = kMove then 23
  else if op = kColdfetch then 23
  else 32

/-- What a packet says of its task. -/
structure PktHead where
  task : Nat
  slot : Nat
  g : Nat
  ctx : Nat
  epoch : Nat
  op : Nat
  bw : Nat
  flags : W32
  step : W64
  deriving DecidableEq, Repr

/-- The issue word (Table 2.10), its STEP field apart. -/
def PktHead.word (h : PktHead) (shadow : Bool) : Nat :=
  h.op + h.bw * 2 ^ 8 + b2n shadow * 2 ^ 10 + h.g * 2 ^ 16 + h.slot * 2 ^ 36 + h.epoch * 2 ^ 46 + h.ctx * 2 ^ 54
    + h.flags.toNat * 2 ^ 64

/-- The words of an issue packet on a leaf (R128, R129). -/
def packetWords (wp2 : Bool) (h : PktHead) (shadow : Bool) (body bodyPtr : Nat) : List W256 :=
  if wp2 then
    w256 (h.word shadow + h.step.toNat % p32 * 2 ^ 96)
      :: (if h.bw = 0 then [] else [w256 (body % p64 + bodyPtr % p64 * p64)])
  else
    w256 (h.word shadow + h.step.toNat * 2 ^ 128)
      :: (if h.bw = 0 then [] else if h.bw = 1 then [w256 body] else [w256 body, w256 (body / 2 ^ 256)])

/-- A committed packet goes to a leaf's port, and its credit is taken (R95). -/
def sendPacket (k : Cfg) (d : Dyn) (l : Nat) (h : PktHead) (shadow : Bool) (body bodyPtr : Nat) (bodyWait : Bool) : Dyn :=
  let p : Pkt :=
    { task := h.task, slot := h.slot, g := h.g, ctx := h.ctx, epoch := h.epoch, op := h.op, shadow := shadow,
      words := packetWords (k.isWp2 l) h shadow body bodyPtr, valid := packetValid (k.isWp2 l) h.op h.bw,
      sent := d.fc, beats := 0, bodyWait := bodyWait, noticed := false, ptag := 0, taken := false, tokdig := 0, sectEnd := false, hung := false,
      fallow := false }
  let d := modEng d l (fun e => { e with pkts := e.pkts ++ [p], used := e.used + k.packetLen l h.bw,
                                         threads := e.threads + (if h.op = kThread then 1 else 0) })
  addIssues (count d (cRegIssue (leafRegion l)) 1) h.slot 1

/-! ### Reading a port -/

/-- The noticed packet of a PTAG. -/
def Engine.tagged (e : Engine) (t : Nat) : Option Pkt := e.pkts.find? (fun p => p.noticed && p.ptag = t)

def Engine.holdsTaken (e : Engine) : Bool := e.pkts.any (·.taken)

/-- The first noticed packet after the one of this PTAG. -/
def nextAfter (t : Nat) : List Pkt → Option Pkt
  | [] => none
  | p :: r => if p.noticed && p.ptag = t then r.find? (·.noticed) else nextAfter t r

/-- The point after word `w` of a packet (R135). -/
def Engine.advance (e : Engine) (p : Pkt) (w : Nat) : Pt :=
  if w + 1 < p.words.length then .at p.ptag (w + 1)
  else match nextAfter p.ptag e.pkts with
    | some q => .at q.ptag 0
    | none => .past

def modPkt (e : Engine) (t : Nat) (f : Pkt → Pkt) : Engine :=
  { e with pkts := mapIf (fun p => p.noticed && p.ptag = t) f e.pkts }

/-- Returns the word at the read point, when there is one; the first read of word 0 takes the packet (R135, R144, R348). -/
def readWord (k : Cfg) (d : Dyn) (l : Nat) : Option Dyn :=
  let e := getEng d l
  match e.rp with
  | .past => none
  | .at t w =>
    match e.tagged t with
    | none => none
    | some p =>
      let last := w + 1 = p.words.length
      let tags : PortTags := { idle := false, first := w = 0, last := last,
                               valid := if last then p.valid else if k.isWp2 l then 16 else 32, ptag := t }
      let e1 := { e with rp := e.advance p w, blocked := none,
                         lastRead := if w = 0 then some (p.slot, p.g) else e.lastRead }
      let fresh := w = 0 && !p.taken
      let e2 := if fresh then
          { modPkt e1 t (fun p => { p with taken := true }) with
            silence := if e.holdsTaken then e.silence else 0, hung := e.hung && e.holdsTaken }
        else e1
      let d := out (setEng d l e2) (.engWord l (p.words.getD w 0) tags)
      some (if fresh then
          let d := { d with rep := { d.rep with takens := d.rep.takens ++ [(l, p.task)] } }
          let d := if p.shadow then out d (.shadowQual l true) else d
          if p.sectEnd then out d (.sectEnd l true) else d
        else d)

/-- Answers a READ with the idle item (Table 5.7). -/
def idleItem (d : Dyn) (l reason waited : Nat) : Dyn :=
  let d := modEng d l (fun e => { e with blocked := none })
  out d (.engWord l (w256 (reason * 2 ^ 8 + min (p32 - 1) waited * 2 ^ 32))
    { idle := true, first := true, last := true, valid := 8, ptag := 0 })

/-- Cycles a blocked READ has waited. -/
def waited (d : Dyn) (e : Engine) : Nat :=
  match e.blocked with
  | some b => (d.fc - b.2).toNat
  | none => 0

/-- R356: with no launch in flight a draining, drained or flagged chip answers READs at once; in SURVEY only at units that
hold no packet, which are not under test (log 24: DEDUCED). -/
def drainAnswers (k : Cfg) (d : Dyn) (l : Nat) : Bool :=
  match k.health with
  | .service => false
  | .survey => !d.en.any (fun e => e.1 / 16 = l / 16 && !e.2.pkts.isEmpty)
  | _ => noLaunch d

/-- The lowest idle reason standing for a READ at a leaf: HEDGED, then DRAIN (R136, Table 5.8). -/
def idleReason (k : Cfg) (d : Dyn) (l : Nat) : Option Nat :=
  if hedged d l then some 2 else if drainAnswers k d l then some 3 else none

/-- Answers a blocked READ when a word or a condition is there for it. -/
def serveBlocked (k : Cfg) (d : Dyn) (l : Nat) : Dyn :=
  let e := getEng d l
  if e.blocked.isNone then d
  else match readWord k d l with
    | some d' => d'
    | none => match idleReason k d l with
      | some r => idleItem d l r (waited d e)
      | none => d

/-- After a hedge or a change of health or of launches in flight, every blocked READ that now has an answer gets it. -/
def serveAllBlocked (k : Cfg) (d : Dyn) : Dyn :=
  ((d.en.filter (fun e => e.2.blocked.isSome)).map (·.1)).foldl (fun d l => serveBlocked k d l) d

/-- The section-end notice rises at the ports of a task's packets; it answers a blocked READ of an engine that holds the
packet (R138, Table 5.8). -/
def raiseSectEnd (d : Dyn) (task : Nat) : Dyn :=
  d.en.foldl (fun d e =>
    if e.2.pkts.any (fun p => p.task = task && p.op = kSection && !p.sectEnd) then
      let taken := e.2.pkts.any (fun p => p.task = task && p.taken)
      let d := modEng d e.1 (fun x => { x with pkts := mapIf (fun p => p.task = task) (fun p => { p with sectEnd := true }) x.pkts })
      let d := if taken then out d (.sectEnd e.1 true) else d
      if taken && (getEng d e.1).blocked.isSome then idleItem d e.1 4 (waited d e.2) else d
    else d) d

/-! ### The range scoreboards (R109 to R114) -/

/-- R109. -/
def rangesClash (a b : Nat) : Bool :=
  rSite a = rSite b && 0 < rLen a && 0 < rLen b && rOff a < rOff b + rLen b && rOff b < rOff a + rLen a
    && (rWrite a || rWrite b)

def siteRegion (r : Nat) : Nat := bits (rSite r) 8 4

/-- The ranges that need entries. -/
def liveRanges (x : Desc) : List Nat := x.ranges.filter (fun r => 0 < rLen r)

/-- The scoreboard a range goes to (R110): true for the root's. -/
def toRootSb (disp : Disp) (r : Nat) : Bool := disp ≠ .region (siteRegion r)

def regSb (d : Dyn) (r : Nat) : List SbEntry := tgetD d.dp.sbReg r []

/-- Entries that a range is checked against (R110). -/
def sbFor (d : Dyn) (r : Nat) : List SbEntry := d.dp.sbRoot ++ regSb d (siteRegion r)

/-- Room for a node's ranges on every scoreboard they need (R114); one that is range-held has its entries already. -/
def sbRoom (d : Dyn) (disp : Disp) (g : Nat) (x : Desc) : Bool :=
  let rs := liveRanges x
  if (getNode d g).st == .rangeHeld then true
  else
    d.dp.sbRoot.length + (rs.filter (toRootSb disp)).length ≤ 1024
      && rs.all (fun r => toRootSb disp r
          || (regSb d (siteRegion r)).length + (rs.filter (fun q => !toRootSb disp q)).length ≤ 512)

/-- An entry stands in the way of a node: issued, or held by an older node of the same list (R111, R113). -/
def blocksNode (list : List REntry) (g age : Nat) (e : SbEntry) : Bool :=
  e.task.isSome || (e.g ≠ g && list.any (fun q => q.g = e.g && q.age < age && !q.void))

/-- A node of a list has a conflicting range. -/
def conflicts (d : Dyn) (list : List REntry) (g age : Nat) (x : Desc) : Bool :=
  (liveRanges x).any (fun r => (sbFor d r).any (fun e => blocksNode list g age e && rangesClash r e.range.toNat))

/-- Enters a node's ranges, held or issued, in place of any it holds. -/
def enterRanges (d : Dyn) (disp : Disp) (g : Nat) (x : Desc) (task : Option Nat) : Dyn :=
  (liveRanges x).foldl (fun d r =>
    let e : SbEntry := { range := w64 r, g := g, task := task }
    if toRootSb disp r then { d with dp := { d.dp with sbRoot := d.dp.sbRoot ++ [e] } }
    else { d with dp := { d.dp with sbReg := tput d.dp.sbReg (siteRegion r) (regSb d (siteRegion r) ++ [e]) } })
    (freeHeldRanges d g)

end Sys2Proof.Machine
end

