-- ==== Sys2Proof/Machine/Formats.lean ====
section
/-! DEFINITION. Number formats: element values in accumulator units of 2^-149 (Table 7.9), rounding to an output format
(R206), and the arithmetic of a FAST queue (R208). -/
namespace Sys2Proof.Machine

/-- A floating format: exponent bits, fraction bits, bias; E4M3 has no infinity and one NaN pattern. -/
structure FFmt where
  eb : Nat
  mb : Nat
  bias : Nat
  ieee : Bool
  deriving DecidableEq, Repr

/-- Formats 0 to 4 of Table 7.9 and of OUTFMT; any other code reads as FP32. -/
def ffmt : Nat → FFmt
  | 1 => { eb := 8, mb := 7, bias := 127, ieee := true }
  | 2 => { eb := 5, mb := 10, bias := 15, ieee := true }
  | 3 => { eb := 4, mb := 3, bias := 7, ieee := false }
  | 4 => { eb := 5, mb := 2, bias := 15, ieee := true }
  | _ => { eb := 8, mb := 23, bias := 127, ieee := true }

/-- An element: NaN, an infinity, or a number in accumulator units with the sign of a zero. -/
inductive Elem where
  | nan
  | inf (neg : Bool)
  | num (a : Int) (neg : Bool)
  deriving DecidableEq, Repr

def signed (neg : Bool) (m : Nat) : Int := if neg then -(m : Int) else (m : Int)

/-- Two's complement of `n` bits. -/
def toSigned (n x : Nat) : Int := if 2 ^ (n - 1) ≤ x then (x : Int) - 2 ^ n else (x : Int)

def ofSigned (n : Nat) (x : Int) : Nat := (x % (2 ^ n : Int)).toNat

/-- The value of a floating pattern. -/
def FFmt.value (f : FFmt) (x : Nat) : Elem :=
  let neg := bit x (f.eb + f.mb)
  let e := bits x f.mb f.eb
  let m := bits x 0 f.mb
  let top := 2 ^ f.eb - 1
  if f.ieee && e = top then (if m = 0 then .inf neg else .nan)
  else if !f.ieee && e = top && m = 2 ^ f.mb - 1 then .nan
  else if e = 0 then .num (signed neg (m * 2 ^ (150 - f.bias - f.mb))) neg
  else .num (signed neg ((2 ^ f.mb + m) * 2 ^ (e + 149 - f.bias - f.mb))) neg

/-- The value of an element of format FMT 0 to 5. -/
def elemValue (fmt x : Nat) : Elem :=
  if fmt = 5 then (let v := toSigned 32 x; .num (v * 2 ^ 149) (v < 0)) else (ffmt fmt).value x

/-- Element width in bytes (Table 7.9), formats 0 to 5. -/
def fmtWidth (fmt : Nat) : Nat := if fmt = 0 || fmt = 5 then 4 else if fmt = 1 || fmt = 2 then 2 else 1

/-- Right shift with ties to even. -/
def rne (m k : Nat) : Nat :=
  if k = 0 then m
  else
    let r := m >>> k
    let rest := m % 2 ^ k
    if 2 ^ (k - 1) < rest || (rest = 2 ^ (k - 1) && r % 2 = 1) then r + 1 else r

/-- Largest finite pattern of a format, its sign apart. -/
def FFmt.maxFinite (f : FFmt) : Nat :=
  if f.ieee then 2 ^ (f.eb + f.mb) - 2 ^ f.mb - 1 else 2 ^ (f.eb + f.mb) - 2

/-- NaN of an output format (R206). -/
def nanBits (fmt : Nat) : Nat :=
  match fmt with
  | 0 => 0x7FC00000 | 1 => 0x7FC0 | 2 => 0x7E00 | 3 => 0x7F | 4 => 0x7E | _ => 0x80000000

/-- An infinity of an output format (R206). -/
def infBits (fmt : Nat) (neg : Bool) : Nat :=
  let f := ffmt fmt
  if fmt = 5 then (if neg then 0x80000000 else 0x7FFFFFFF)
  else if f.ieee then b2n neg * 2 ^ (f.eb + f.mb) + (2 ^ f.eb - 1) * 2 ^ f.mb
  else 0x7F

/-- A zero of an output format. -/
def zeroBits (fmt : Nat) (neg : Bool) : Nat :=
  if fmt = 5 then 0 else b2n neg * 2 ^ ((ffmt fmt).eb + (ffmt fmt).mb)

/-- `round_sum` of R206 for a sum that is not 0. The pattern of a finite magnitude is one number that rises with it: the
exponent field stands above the fraction, so a carry of the rounding moves it on. -/
def roundNonzero (a : Int) (fmt : Nat) (sat : Bool) : Nat :=
  let neg := a < 0
  let m := a.natAbs
  if fmt = 5 then
    let r := rne m 149
    ofSigned 32 (max (-(2 ^ 31)) (min (2 ^ 31 - 1) (signed neg r)))
  else
    let f := ffmt fmt
    let lg := Nat.log2 m
    let kmin := 150 - f.bias - f.mb
    let k := max (lg - f.mb) kmin
    let r := rne m k
    let mag := if r < 2 ^ f.mb then r else r + (k - kmin) * 2 ^ f.mb
    if f.maxFinite < mag then
      (if sat then b2n neg * 2 ^ (f.eb + f.mb) + f.maxFinite else infBits fmt neg)
    else b2n neg * 2 ^ (f.eb + f.mb) + mag

def roundSum (a : Int) (fmt : Nat) (sat : Bool) : Nat := if a = 0 then 0 else roundNonzero a fmt sat

/-- An element encoded in an output format, a zero with its sign. -/
def encodeElem (e : Elem) (fmt : Nat) (sat : Bool) : Nat :=
  match e with
  | .nan => nanBits fmt
  | .inf n => infBits fmt n
  | .num a n => if a = 0 then zeroBits fmt n else roundNonzero a fmt sat

/-- FP32 addition, ties to even (R208). -/
def fp32Add (x y : Nat) : Nat :=
  match elemValue 0 x, elemValue 0 y with
  | .nan, _ => nanBits 0
  | _, .nan => nanBits 0
  | .inf a, .inf b => if a = b then infBits 0 a else nanBits 0
  | .inf a, .num _ _ => infBits 0 a
  | .num _ _, .inf b => infBits 0 b
  | .num a na, .num b nb => if a + b = 0 then zeroBits 0 (na && nb && a = 0) else roundNonzero (a + b) 0 false

/-- An element converted to FP32 (R208). -/
def toFp32 (fmt x : Nat) : Nat := encodeElem (elemValue fmt x) 0 false

/-- The elements of a contribution's payload, formats 0 to 5 (R201). -/
def tokElems (fmt len payload : Nat) : List Nat :=
  (upFrom 0 (len / fmtWidth fmt)).map (fun i => bits payload (8 * fmtWidth fmt * i) (8 * fmtWidth fmt))

/-- The R210 digest of a contribution token's elements; infinities and NaNs contribute 0 (R352). -/
def tokDigest (fmt len payload : Nat) : Nat :=
  if fmt = 6 then digFold (bits payload 0 160)
  else if fmt = 7 then digFold (toSigned 160 (bits payload 0 160) * 2 ^ 160)
  else digFold ((tokElems fmt len payload).foldl (fun s x =>
    match elemValue fmt x with
    | .num a _ => s + a
    | _ => s) 0)

end Sys2Proof.Machine
end

