-- ==== Sys2Proof/Machine/Tokens.lean ====
section
/-! DEFINITION. Tokens (R173 to R197): headers, routes, the token interface of an engine, receive queues, sends and their
answers. The commands SEND, CLAIM, UNCLAIM, RECV, RECV_TIMEOUT, LINK_KEY_APPLY. -/
namespace Sys2Proof.Machine

/-! ### Headers and source words (Tables 7.1, 7.2) -/

def hMc (h : W64) : Bool := bit h.toNat 63
def hChip (h : W64) : Nat := bits h.toNat 53 10
def hDest (h : W64) : Nat := bits h.toNat 36 17
def hQ (h : W64) : Nat := bits h.toNat 33 3
def hTag (h : W64) : Nat := bits h.toNat 17 16
def hLen (h : W64) : Nat := bits h.toNat 11 6
def hFmt (h : W64) : Nat := bits h.toNat 8 3
def hClose (h : W64) : Bool := bit h.toNat 7
def hGroup (h : W64) : Nat := bits h.toNat 36 10
def sChip (s : W64) : Nat := bits s.toNat 54 10
def sLeaf (s : W64) : Nat := bits s.toNat 37 17
def sCtx (s : W64) : Nat := bits s.toNat 31 6
def sLaunch (s : W64) : Nat := bits s.toNat 21 10
def sNode (s : W64) : Nat := bits s.toNat 1 20

def mkHdr (chip dest q tag len fmt : Nat) (close : Bool) : W64 :=
  w64 (chip * 2 ^ 53 + dest * 2 ^ 36 + q * 2 ^ 33 + tag * 2 ^ 17 + len * 2 ^ 11 + fmt * 2 ^ 8 + b2n close * 2 ^ 7)

def mkSrc (chip ref ctx launch node : Nat) : W64 :=
  w64 (chip * 2 ^ 54 + ref * 2 ^ 37 + ctx * 2 ^ 31 + launch * 2 ^ 21 + node * 2)

/-- The header of a multicast's token to a target: the send's TAG and LEN, the target's chip, reference and queue (log 25: DEDUCED). -/
def targetHdr (h : W64) (t : W32) : W64 :=
  mkHdr (bits t.toNat 20 10) (bits t.toNat 0 17) (bits t.toNat 17 3) (hTag h) (hLen h) 0 false

/-! ### References and routes (R175, R176, R193, R194) -/

/-- The combining endpoints of Table 7.3. -/
def isCombDest (dest : Nat) : Bool := isRootRef dest && leafStub dest < 0xF8

def combQueue (dest q : Nat) : Nat := 128 * (leafStub dest - 0xF0) + 8 * leafSlot dest + q

/-- The endpoint reference of combining queue `q`. -/
def combRef (q : Nat) : Nat := mkLeaf 0 (0xF0 + q / 128) (q % 128 / 8)

def fmtFits (fmt len : Nat) : Bool :=
  if fmt = 6 then len = 20 else if fmt = 7 then len = 21 else len ≠ 0 && len % fmtWidth fmt = 0

/-- R4 and R174. -/
def sendFormOk (h : W64) : Bool :=
  let comb := !hMc h && isCombDest (hDest h)
  bits h.toNat 0 7 = 0 && hLen h ≤ 32 && (!hMc h || (hQ h = 0 && bits h.toNat 46 7 = 0))
    && (comb || (hFmt h = 0 && !hClose h))
    && (!comb || (if hClose h then hLen h = 0 else fmtFits (hFmt h) (hLen h)))

/-- The reference cases of R176, for a reference of this chip. -/
def destAbsent (k : Cfg) (dest : Nat) : Bool :=
  isParcelRef dest || !k.leafValid dest
    || (if isRootRef dest then 0xFA ≤ leafStub dest else !k.present dest || k.classOf dest = 6)

def Link.init : Link :=
  { up := false, txSeq := 0, rxSeq := 0, peerAck := 0, unconf := [], discarding := false, owed := false, owedFrom := 0,
    tokSent := 0, tokRcvd := 0, ackSent := 0, ackRcvd := 0 }

def getLink (d : Dyn) (p : Nat) : Link := tgetD d.lk.ports p .init

def setLink (d : Dyn) (p : Nat) (x : Link) : Dyn := { d with lk := { d.lk with ports := tset d.lk.ports p x .init } }

/-- `port_of` of R194. -/
def portOfPair (key src chip dest q mask : Nat) : Nat :=
  (ones 32 mask).getD (mix64 (key ^^^ ((chip <<< 48) % p64) ^^^ (src <<< 24) ^^^ (dest <<< 4) ^^^ q) % (ones 32 mask).length) 0

/-- The link port of a cross-chip token, when the route table gives one that is connected and up (R176, R194, R445). -/
def tokPort (k : Cfg) (d : Dyn) (src : Nat) (h : W64) : Option Nat :=
  let mask := (tgetD d.tk.routes (hChip h) 0).toNat
  if mask = 0 then none
  else
    let p := portOfPair d.lk.key.toNat src (hChip h) (hDest h) (hQ h) mask
    if (tget k.boot.links p).isSome && (getLink d p).up then some p else none

def Cfg.local (k : Cfg) (h : W64) : Bool := hChip h = k.boot.chipId

/-- R176 as the sending stub or root decides it. -/
def noRoute (k : Cfg) (d : Dyn) (src : Nat) (h : W64) : Bool :=
  if k.local h then destAbsent k (hDest h) else (tokPort k d src h).isNone

/-! ### Decision logs (R425) -/

def stubLog (stub : Nat) : Nat := stub
def rootLog (g : Nat) : Nat := 65536 + g

def logCap (key : Nat) : Nat := if key < 65536 then 256 else 4096

/-- A decided arrival goes into its log. -/
def logPut (d : Dyn) (key : Nat) (t : Tok) (status : Nat) : Dyn :=
  let e : LogEntry := { fc := d.fc, src := sLeaf t.src, schip := sChip t.src, qidx := hQ t.hdr, status := status,
                        tag := hTag t.hdr }
  let l := tgetD d.tk.log key []
  let l := (l ++ [e]).drop (l.length + 1 - logCap key)
  let ptr := (tgetD d.tk.logPtr key 0 + 1) % logCap key
  { d with tk := { d.tk with log := tset d.tk.log key l [], logPtr := tset d.tk.logPtr key ptr 0 } }

/-! ### The token interface (R177, R178) -/

/-- The answer to an operation; every status but OK counts in the launch's NAKS (R414). -/
def ans (d : Dyn) (l j slot : Nat) (st : Status) (arg : Nat) : Dyn :=
  let d := if st = .ok then d else addNaks d slot 1
  emit d (.tokRsp l j st (w64 arg) 0 0 0)

/-- A record of mechanism 0x0B waits at the engine: its next operation waits too (Table 12.12). -/
def opBlocked (d : Dyn) (l : Nat) : Bool :=
  d.fs.waiting.any (fun w => w.record.mech = 0x0B && w.record.unit = unitOf l && w.record.eng = some (leafSlot l))

/-- A protocol error at an engine (R141, R177): PORT_ERR counts it, a record names the engine. -/
def protoError (k : Cfg) (d : Dyn) (l op status : Nat) (outs : List PortOut) : Dyn :=
  faultWith k (count d cPortErr 1)
    { frec 0x0B .badDescriptor (unitOf l) with eng := some (leafSlot l), detail := w64 (op + status * 2 ^ 8) } outs

/-- An engine presents an operation: with no free slot, or behind a waiting record, it waits at the engine; one that names no
taken packet, or whose operand word is malformed, is a protocol error. -/
def presentOp (k : Cfg) (d : Dyn) (l ptag code : Nat) (argOk : Bool) (f : Pkt → Nat → Dyn) : Dyn :=
  if !k.taskEngine l || opBlocked d l then d
  else match firstFree 8 0 (tkeys (getEng d l).ops) with
    | none => d
    | some j =>
      let bad := protoError k d l code 0 [.tokRsp l j .badDescriptor 0 0 0 0]
      match (getEng d l).tagged ptag with
      | none => bad
      | some p => if p.taken && argOk then f p j else bad

/-- An operation of a reserved code is a protocol error (R177). -/
def reservedOp (l ptag code : Nat) (k : Cfg) (d : Dyn) : Dyn := presentOp k d l ptag code false fun _ _ => d

/-- The operation of a packet, as presented. -/
def newOp (d : Dyn) (p : Pkt) (code : Nat) (hdr : W64) (payload : W256) (arg : Nat) : OpSlot :=
  { code := code, ptag := p.ptag, slot := p.slot, g := p.g, ctx := p.ctx, epoch := p.epoch, hdr := hdr,
    payload := payload, arg := w64 arg, fc := d.fc, seq := d.tk.opSeq, tgts := [], fullMask := 0, failMask := 0,
    worst := .ok, timeout := 0 }

/-- An operation takes its slot. -/
def putOp (d : Dyn) (l j : Nat) (o : OpSlot) : Dyn :=
  let d := modEng d l (fun e => { e with ops := tput e.ops j o })
  { d with tk := { d.tk with opSeq := d.tk.opSeq + 1 } }

def getOp (d : Dyn) (l j : Nat) : Option OpSlot := tget (getEng d l).ops j

def modOp (d : Dyn) (l j : Nat) (f : OpSlot → OpSlot) : Dyn := modEng d l (fun e => { e with ops := tmod e.ops j f })

/-- A TIMEOUT operand as it acts (R178). -/
def capTo (t : Nat) : Nat := min t (2 ^ 20)

/-! ### Receive queues (R179 to R184) -/

def RQueue.init : RQueue :=
  { isOpen := false, sel := false, leaf := 0, slot := 0, g := 0, epoch := 0, group := 0, last := none, toks := [] }

/-- Queue q of the stub of a leaf. -/
def qKey (l q : Nat) : Nat := l / 16 * 8 + q

def getQ (d : Dyn) (key : Nat) : RQueue := tgetD d.tk.queues key .init

def setQ (d : Dyn) (key : Nat) (x : RQueue) : Dyn := { d with tk := { d.tk with queues := tset d.tk.queues key x .init } }

/-- The queue is open for this packet. -/
def RQueue.ownedBy (x : RQueue) (l slot g epoch : Nat) : Bool :=
  x.isOpen && x.leaf = l && x.slot = slot && x.g = g && x.epoch = epoch

/-- A queue closes: its tokens are discarded and counted, and its group loses it (R181). -/
def closeQueue (d : Dyn) (key : Nat) : Dyn :=
  let x := getQ d key
  let q := key % 8
  let d := count (setQ d key .init) cTokDisc x.toks.length
  (ones 8 x.group.toNat).foldl (fun d i =>
    let kk := key / 8 * 8 + i
    let y := getQ d kk
    if i ≠ q && y.isOpen then setQ d kk { y with group := y.group &&& ~~~(BitVec.ofNat 8 (2 ^ q)) } else d) d

/-- The queue of a group that a RECV takes from: the lowest, or under SEL the first after the one last served. -/
def pickQueue (d : Dyn) (stub : Nat) (x : RQueue) : Option Nat :=
  let full := (ones 8 x.group.toNat).filter (fun i => !(getQ d (stub * 8 + i)).toks.isEmpty)
  if !x.sel then full.head?
  else match x.last with
    | none => full.head?
    | some n => match full.find? (fun i => n < i) with
      | some i => some i
      | none => full.head?

/-- A pending RECV is answered when its group holds a token, or its named queue is not its packet's. -/
def serveRecv (d : Dyn) (l j : Nat) : Dyn :=
  match getOp d l j with
  | none => d
  | some o =>
    if o.code ≠ 3 then d
    else
      let stub := l / 16
      let x := getQ d (qKey l (bits o.arg.toNat 0 3))
      if !x.ownedBy l o.slot o.g o.epoch then ans d l j o.slot .closed 0
      else match pickQueue d stub x with
        | none => d
        | some i =>
          let y := getQ d (stub * 8 + i)
          match y.toks with
          | [] => d
          | t :: rest =>
            let d := setQ d (stub * 8 + i) { y with toks := rest }
            let d := (ones 8 x.group.toNat).foldl (fun d n =>
              setQ d (stub * 8 + n) { getQ d (stub * 8 + n) with last := some i }) d
            emit d (.tokRsp l j .ok 0 t.hdr t.src t.payload)

/-- The pending RECVs of an engine, oldest first. -/
def serveRecvs (d : Dyn) (l : Nat) : Dyn :=
  let js := (isort (fun a b => a.2.seq ≤ b.2.seq) ((getEng d l).ops.filter (fun e => e.2.code = 3))).map (·.1)
  js.foldl (fun d j => serveRecv d l j) d

/-- After queues of a stub have closed or been regrouped. -/
def serveStub (d : Dyn) (stub : Nat) : Dyn :=
  ((d.en.filter (fun e => e.1 / 16 = stub)).map (·.1)).foldl serveRecvs d

/-- Closes queues and answers the RECVs they leave without one. -/
def closeQueues (d : Dyn) (ks : List Nat) : Dyn :=
  let d := ks.foldl closeQueue d
  ((ks.map (· / 8)).eraseDups).foldl serveStub d

/-- Closes every queue whose owner's node has ended or is gone (R181). -/
def closeDead (d : Dyn) : Dyn :=
  closeQueues d ((d.tk.queues.filter (fun e =>
    let n := getNode d e.2.g
    e.2.isOpen && (n.st.terminal || n.launch ≠ e.2.slot || n.st == .idle))).map (·.1))

/-- Closes every queue owned by a hedged leaf (R181, R357). -/
def closeHedged (d : Dyn) : Dyn :=
  closeQueues d ((d.tk.queues.filter (fun e => e.2.isOpen && hedged d e.2.leaf)).map (·.1))

/-- CLAIM (R180). -/
def claim (l ptag : Nat) (qmask : Byte) (sel : Bool) (k : Cfg) (d : Dyn) : Dyn :=
  presentOp k d l ptag 1 true fun p j =>
    let qs := ones 8 qmask.toNat
    let own (q : Nat) : Bool := (getQ d (qKey l q)).ownedBy l p.slot p.g p.epoch
    if p.shadow || qs.isEmpty then ans d l j p.slot .badDescriptor 0
    else if qs.any (fun q => (getQ d (qKey l q)).isOpen && !own q) then ans d l j p.slot .full 0
    else
      let d1 := (upFrom 0 8).foldl (fun d' q =>
        if own q && !qs.contains q then
          let x := getQ d' (qKey l q)
          setQ d' (qKey l q) { x with group := x.group &&& ~~~qmask }
        else d') d
      let d2 := qs.foldl (fun d' q =>
        setQ d' (qKey l q)
          { isOpen := true, sel := sel, leaf := l, slot := p.slot, g := p.g, epoch := p.epoch, group := qmask,
            last := none, toks := (getQ d' (qKey l q)).toks }) d1
      serveStub (ans d2 l j p.slot .ok 0) (l / 16)

/-- UNCLAIM (R181). -/
def unclaim (l ptag : Nat) (qmask : Byte) (k : Cfg) (d : Dyn) : Dyn :=
  presentOp k d l ptag 2 true fun p j =>
    if p.shadow then ans d l j p.slot .badDescriptor 0
    else
      let qs := ones 8 qmask.toNat
      let mine := qs.filter (fun q => (getQ d (qKey l q)).ownedBy l p.slot p.g p.epoch)
      let d := ans d l j p.slot (if mine.length = qs.length then .ok else .closed) 0
      closeQueues d (mine.map (qKey l))

/-- RECV (R184): answered at once, or it waits in its slot. -/
def recv (l ptag qidx : Nat) (timeout : BitVec 21) (k : Cfg) (d : Dyn) : Dyn :=
  presentOp k d l ptag 3 true fun p j =>
    if p.shadow then ans d l j p.slot .badDescriptor 0
    else
      serveRecv (putOp d l j (newOp d p 3 0 0 (qidx % 8 + capTo timeout.toNat * 2 ^ 32))) l j

/-- TIMEOUT operand of a pending operation of code 3 (R184). -/
def recvTo (o : OpSlot) : Nat := bits o.arg.toNat 32 21

/-- The time-out of a pending RECV, counted from its presentation, ends with its group still empty (R184, R214). -/
def recvTimeout (l j : Nat) (_k : Cfg) (d : Dyn) : Dyn :=
  match getOp d l j with
  | none => d
  | some o => if o.code = 3 && recvTo o ≠ 0 && recvTo o ≤ cyclesSince d o.fc then ans d l j o.slot .timeout 0 else d

/-- A queue decides a token (R182). -/
def queueDecide (d : Dyn) (t : Tok) : Status × Dyn :=
  let key := qKey (hDest t.hdr) (hQ t.hdr)
  let x := getQ d key
  if !x.isOpen || x.leaf ≠ hDest t.hdr then (.closed, d)
  else if 8 ≤ x.toks.length then (.full, d)
  else
    let d := out (setQ d key { x with toks := x.toks ++ [t] }) (.qWake x.leaf (hQ t.hdr))
    (.ok, serveRecvs d x.leaf)

/-! ### Sends (R185 to R192, R195, R349) -/

/-- The TOKDIG term of a token (R349). -/
def tokTerm (h : W64) (payload : W256) : Nat :=
  if isCombDest (hDest h) then tokDigest (hFmt h) (hLen h) payload.toNat
  else (upFrom 0 4).foldl (fun s i => digAdd s (bits payload.toNat (64 * i) 64)) (digAdd 0 h.toNat)

/-- Adds to the TOKDIG of a packet still in its port. -/
def addTokdig (d : Dyn) (l ptag slot g n : Nat) : Dyn :=
  modEng d l (fun e => { e with pkts := mapIf (fun p => p.noticed && p.ptag = ptag && p.slot = slot && p.g = g)
                                              (fun p => { p with tokdig := digAdd p.tokdig n }) e.pkts })

def samePair (a b : W64) : Bool := hChip a = hChip b && hDest a = hDest b && hQ a = hQ b

/-- A token of the pair is in flight from this engine (R187). -/
def pairBusy (d : Dyn) (l : Nat) (h : W64) : Bool :=
  (getEng d l).ops.any (fun e => e.2.tgts.any (fun t => t.st == .sent && samePair t.hdr h))

def setTgt (d : Dyn) (l j i : Nat) (st : TgtSt) : Dyn :=
  modOp d l j (fun o => { o with tgts := mapIf (fun t => t.i = i) (fun t => { t with st := st }) o.tgts })

def opSrc (k : Cfg) (l : Nat) (o : OpSlot) : W64 := mkSrc k.boot.chipId l o.ctx o.slot o.g

/-- A held token leaves: at once, or once its pair is free and no LINK_KEY waits (R187, R195). -/
def tryTgt (k : Cfg) (d : Dyn) (l j : Nat) (o : OpSlot) (t : Tgt) : Dyn :=
  if d.lk.pendKey.isSome && !k.local t.hdr then
    let d := setTgt d l j t.i .keyHeld
    { d with lk := { d.lk with holdSends := if d.lk.holdSends.contains (l, j) then d.lk.holdSends else d.lk.holdSends ++ [(l, j)] } }
  else if pairBusy d l t.hdr then setTgt d l j t.i .held
  else
    let d := modOp (setTgt d l j t.i .sent) l j (fun o => { o with fc := d.fc })
    let tok : Tok :=
      { hdr := t.hdr, src := opSrc k l o, payload := o.payload, sender := .engine l j t.i,
        ddig := w64 (if isCombDest (hDest t.hdr) then tokDigest (hFmt t.hdr) (hLen t.hdr) o.payload.toNat else 0) }
    { d with tk := { d.tk with flight := d.tk.flight ++ [tok] } }

/-- Sends what of an operation can be sent. -/
def tryOp (k : Cfg) (d : Dyn) (l j : Nat) : Dyn :=
  match getOp d l j with
  | none => d
  | some o => (o.tgts.filter (fun t => t.st == .held || t.st == .keyHeld)).foldl (fun d t => tryTgt k d l j o t) d

/-- The status of a SEND whose tokens are all answered (R192). -/
def sendStatus (o : OpSlot) : Status :=
  if o.failMask ≠ 0 then o.worst else if o.fullMask ≠ 0 then .full else .ok

/-- When every token of a SEND is answered, the engine is answered: at once, or behind its stall record (Table 12.12). -/
def sendDone (k : Cfg) (d : Dyn) (l j : Nat) (stall : Option FRec) : Dyn :=
  match getOp d l j with
  | none => d
  | some o =>
    let note (d : Dyn) (outs : List PortOut) : Dyn :=
      match stall with
      | some r => faultWith k d r outs
      | none => outs.foldl emit d
    if o.tgts.any (fun t => t.st ≠ .fin) then note d []
    else
      let st := if hMc o.hdr then sendStatus o else o.worst
      let arg := if hMc o.hdr then o.fullMask.toNat + o.failMask.toNat * 2 ^ 32 else 0
      let d := if st = .ok then d else addNaks d o.slot 1
      note d [.tokRsp l j st (w64 arg) 0 0 0]

/-- One token of a SEND has its status; the masks and the lowest failing code gather it. -/
def tgtStatus (d : Dyn) (l j i : Nat) (st : Status) : Dyn :=
  modOp (setTgt d l j i .fin) l j (fun o =>
    let m : W32 := w32 (2 ^ i)
    if !hMc o.hdr then { o with worst := st }
    else if st = .ok then o
    else if st = .full then { o with fullMask := o.fullMask ||| m }
    else { o with failMask := o.failMask ||| m,
                  worst := if o.failMask = 0 || st.code < o.worst.code then st else o.worst })

/-- The tokens of a pair that an engine holds, behind the pair or a waiting LINK_KEY, oldest operation first (R187). -/
def heldOf (d : Dyn) (l : Nat) (h : W64) : List (Nat × Nat) :=
  (isort (fun a b => a.2.seq ≤ b.2.seq) (getEng d l).ops).flatMap (fun e =>
    (e.2.tgts.filter (fun t => (t.st == .held || t.st == .keyHeld) && samePair t.hdr h)).map (fun t => (e.1, t.i)))

/-- Consecutive FULL refusals of a pair; `src` is the sending leaf, or 2^17 + q for combining queue q (R189). -/
def fullKey (src : Nat) (h : W64) : Nat × Nat × Nat × Nat := (src, hChip h, hDest h, hQ h)

def fullCount (d : Dyn) (key : Nat × Nat × Nat × Nat) : Nat :=
  match d.tk.fulls.find? (fun e => e.1 = key) with
  | some e => e.2
  | none => 0

def setFull (d : Dyn) (key : Nat × Nat × Nat × Nat) (n : Nat) : Dyn :=
  let rest := d.tk.fulls.filter (fun e => e.1 ≠ key)
  { d with tk := { d.tk with fulls := if n = 0 then rest else rest ++ [(key, n)] } }

/-- R189 for a decided send: the status that the sender sees, and the stall record when the limit is reached. -/
def stallCheck (k : Cfg) (d : Dyn) (src : Nat) (h : W64) (st : Status) (r : FRec) : Status × Option FRec × Dyn :=
  let key := fullKey src h
  if st = .ok then (.ok, none, setFull d key 0)
  else if st ≠ .full then (st, none, d)
  else
    let n := fullCount d key + 1
    if k.tokStall ≠ 0 && k.tokStall.toNat ≤ n && !sourceHolds d r then (.sendStall, some r, setFull d key 0)
    else (.full, none, setFull d key n)

/-- The stall record of a pair (Table 12.2). -/
def stallRec (unit : Nat) (h : W64) : FRec :=
  { frec 0x0F .sendStall unit with detail := w64 (hDest h + hQ h * 2 ^ 17) }

/-- A token refusal that the sending stub decides: REG_NAK of its region (R378). -/
def stubNak (d : Dyn) (l : Nat) : Dyn := count d (cRegNak (leafRegion l)) 1

/-- A SEND that its stub refuses (R174, R176). -/
def refuseSend (d : Dyn) (l j slot : Nat) (st : Status) : Dyn := ans (stubNak d l) l j slot st 0

/-- The acknowledgement of an engine's token has come back: its status is gathered, the pair's next token leaves, or after a
refusal every held token of the pair is refused with FULL, unsent and uncounted (R187, R189, R349). -/
def sendAcked (k : Cfg) (d : Dyn) (l j i : Nat) (st : Status) : Dyn :=
  match getOp d l j with
  | none => d
  | some o =>
    match o.tgts.find? (fun t => t.i = i && t.st == .sent) with
    | none => d
    | some t =>
      let r := { stallRec (unitOf l) t.hdr with
        ctx := some o.ctx, launch := some o.slot, node := some o.g, eng := some (leafSlot l) }
      let c := stallCheck k d l t.hdr st r
      let d := c.2.2
      let d := if st = .ok then addTokdig d l o.ptag o.slot o.g (tokTerm t.hdr o.payload) else d
      let d := sendDone k (tgtStatus d l j i c.1) l j c.2.1
      let held := heldOf d l t.hdr
      if st = .ok then
        match held with
        | [] => d
        | x :: _ => tryOp k d l x.1
      else held.foldl (fun d x => sendDone k (tgtStatus (stubNak d l) l x.1 x.2 .full) l x.1 none) d

/-- A status that the sending stub decides for one target of a multicast (R176, R192). -/
def targetRefused (k : Cfg) (d : Dyn) (l : Nat) (h : W64) : Option Status :=
  if !sendFormOk h then some .badDescriptor else if noRoute k d l h then some .noRoute else none

/-- The SEND of a shadow copy that its stub does not refuse: digested, not delivered, answered OK (R348, R349). -/
def shadowSend (d : Dyn) (l j : Nat) (p : Pkt) (payload : W256) (hs : List W64) : Dyn :=
  let dig := hs.foldl (fun s h => digAdd s (tokTerm h payload)) 0
  ans (addTokdig d l p.ptag p.slot p.g dig) l j p.slot .ok 0

/-- SEND (R174, R176, R185 to R192, R348). A non-zero TMASK on a unicast SEND is a protocol error (Table 16.7; log 115: DEDUCED). -/
def send (l ptag : Nat) (hdr : W64) (payload : W256) (tmask : W32) (k : Cfg) (d : Dyn) : Dyn :=
  presentOp k d l ptag 0 (hMc hdr || tmask = 0) fun p j =>
    let pay := w256 (bits payload.toNat 0 (8 * hLen hdr))
    if !sendFormOk hdr then refuseSend d l j p.slot .badDescriptor
    else if hMc hdr then
      match tget d.tk.groups (hGroup hdr) with
      | none => refuseSend d l j p.slot .noRoute
      | some ts =>
        let named := (((upFrom 0 ts.length).zip ts).filter (fun x => bit tmask.toNat x.1)).map (fun x => (x.1, targetHdr hdr x.2))
        if named.isEmpty then ans d l j p.slot .ok 0
        else if p.shadow then shadowSend d l j p pay (named.map (·.2))
        else
          let o := newOp d p 0 hdr pay tmask.toNat
          let d := putOp d l j { o with tgts := named.map (fun x => { i := x.1, hdr := x.2, st := .held }) }
          let d := named.foldl (fun d x =>
            match targetRefused k d l x.2 with
            | some st => tgtStatus (stubNak d l) l j x.1 st
            | none => d) d
          sendDone k (tryOp k d l j) l j none
    else if noRoute k d l hdr then refuseSend d l j p.slot .noRoute
    else if p.shadow then shadowSend d l j p pay [hdr]
    else
      let o := newOp d p 0 hdr pay 0
      tryOp k (putOp d l j { o with tgts := [{ i := 0, hdr := hdr, st := .held }] }) l j

/-! ### LINK_KEY (R195) -/

/-- When the operation of an engine's slot was presented. -/
def opSeqAt (d : Dyn) (x : Nat × Nat) : Nat :=
  match getOp d x.1 x.2 with
  | some o => o.seq
  | none => 0

/-- Some cross-chip token of the chip is unacknowledged. -/
def crossOut (k : Cfg) (d : Dyn) : Bool :=
  d.en.any (fun e => e.2.ops.any (fun o => o.2.tgts.any (fun t => t.st == .sent && !k.local t.hdr)))
    || d.tk.flight.any (fun t => !k.local t.hdr && sChip t.src = k.boot.chipId)
    || d.tk.acks.any (fun a => !k.local a.tok.hdr && sChip a.tok.src = k.boot.chipId)
    || d.cb.tags.any (fun t =>
        (match t.st with
         | .sending _ => true
         | _ => false) && bits (tgetD d.cb.queues t.q 0).toNat 150 10 ≠ k.boot.chipId)

/-- The sends that a waiting LINK_KEY held leave, in the order of their presentation (R188). -/
def linkKeyDone (k : Cfg) (d : Dyn) : Dyn :=
  let hs := isort (fun a b => opSeqAt d a ≤ opSeqAt d b) d.lk.holdSends
  hs.foldl (fun d x => tryOp k d x.1 x.2) { d with lk := { d.lk with pendKey := none, holdSends := [] } }

/-- A written LINK_KEY is applied once no cross-chip token is unacknowledged, with its record; with the reserve exhausted it is ignored (R195,
R328). The held sends leave. -/
def linkKeyApply (k : Cfg) (d : Dyn) : Dyn :=
  match d.lk.pendKey with
  | none => d
  | some key =>
    if crossOut k d then d
    else if !rpRoom d 1 true then linkKeyDone k (dropWrite k d 0x108)
    else
      let d := rpPut d 0x0A true 0 0 (key.toNat * 2 ^ 64) [] none
      linkKeyDone k { d with lk := { d.lk with key := key } }

end Sys2Proof.Machine
end

