-- ==== Sys2Proof/Machine/Signals.lean ====
section
/-! DEFINITION. Signals and circular regions (R168 to R171, R213 to R218): RAISE, TAKE, CR_ACQUIRE, CR_COMMIT, CR_WAIT,
CR_DRAIN, their time-outs, and the rebase of paired counts. -/
namespace Sys2Proof.Machine

/-! ### Objects -/

def Sig.init : Sig := { raised := 0, taken := 0, owner := none, ecc := false }

def CReg.init : CReg := { entry := 0, v := 0, p := 0, c := 0, ecc := false }

def getSig (d : Dyn) (i : Nat) : Sig := tgetD d.sg.ctrs i .init

def setSig (d : Dyn) (i : Nat) (x : Sig) : Dyn := { d with sg := { d.sg with ctrs := tset d.sg.ctrs i x .init } }

def getCr (d : Dyn) (i : Nat) : CReg := tgetD d.sg.cregs i .init

def setCr (d : Dyn) (i : Nat) (x : CReg) : Dyn := { d with sg := { d.sg with cregs := tset d.sg.cregs i x .init } }

def CReg.valid (x : CReg) : Bool := bit x.entry.toNat 0
def CReg.site (x : CReg) : Nat := bits x.entry.toNat 26 12
def CReg.base (x : CReg) : Nat := bits x.entry.toNat 38 20
def CReg.ctx (x : CReg) : Nat := bits x.entry.toNat 58 6
def CReg.slotBytes (x : CReg) : Nat := bits x.entry.toNat 64 16
def CReg.depth (x : CReg) : Nat := bits x.entry.toNat 80 16

/-- The barrier of a rebase holds the object (R170). -/
def rebasing (d : Dyn) (o : PairObj) : Bool := d.sg.rebases.any (fun r => r.1 = o)

/-- Key of an entry of the signal map or the event map. -/
def mapKey (c id : Nat) : Nat := c * 65536 + id

/-! ### The map caches (R213, R293) -/

def mapBase (k : Cfg) (evt : Bool) : Nat := if evt then k.evtMapBase.toNat else k.sigMapBase.toNat

def mapCache (d : Dyn) (evt : Bool) : List (Nat × W32) := if evt then d.sg.ecache else d.sg.cache

/-- A cache of 4,096 entries takes an entry, which becomes its newest. -/
def mapCached (d : Dyn) (evt : Bool) (key : Nat) (v : W32) : Dyn :=
  let l := lruPut (mapCache d evt) key v 4096
  { d with sg := if evt then { d.sg with ecache := l } else { d.sg with cache := l } }

/-- A line of 16 entries is read. -/
def readMapLine (k : Cfg) (d : Dyn) (evt : Bool) (line : Nat) : Dyn :=
  busReadOn .memory d ((mapBase k evt + 64 * line) % p64) 64 (.mapLine evt line)

/-- An entry of a line that a read has returned. -/
def lineEntry (j : RdJob) (key : Nat) : W32 := w32 (leAt (j.data.getD []) (4 * (key % 16)) 4)

/-- The lookup of an entry: cached, or in the line that a read has returned; else its line is being read, and the operation waits. -/
def mapLookup (k : Cfg) (evt : Bool) (d : Dyn) (key : Nat) : Option W32 × Dyn :=
  match (mapCache d evt).find? (fun e => e.1 = key) with
  | some e => (some e.2, mapCached d evt key e.2)
  | none =>
    match readDone d (.mapLine evt (key / 16)) with
    | some j => (some (lineEntry j key), mapCached (dropRead d (.mapLine evt (key / 16))) evt key (lineEntry j key))
    | none => (none, if d.bus.reads.any (fun j => j.use = .mapLine evt (key / 16)) then d else readMapLine k d evt (key / 16))

/-- A line whose word cannot be corrected is discarded; it is read again when an entry of it is next looked up (Table 12.4). -/
def mapLost (d : Dyn) (evt : Bool) (line : Nat) : Dyn :=
  let l := (mapCache d evt).filter (fun e => e.1 / 16 ≠ line)
  { d with sg := if evt then { d.sg with ecache := l } else { d.sg with cache := l } }

/-- WRITE_TABLE writes any cached copy of the entries from `key` on too, and a copy that is on its way (R213). -/
def mapWritten (d : Dyn) (evt : Bool) (key : Nat) (es : List W32) : Dyn :=
  ((upFrom key es.length).zip es).foldl (fun d e =>
    let coming := d.bus.reads.any (fun j => j.use = .mapLine evt (e.1 / 16))
    if coming then mapCached d evt e.1 e.2
    else
      let l := mapIf (fun x => x.1 = e.1) (fun _ => e) (mapCache d evt)
      { d with sg := if evt then { d.sg with ecache := l } else { d.sg with cache := l } }) d

/-! ### Signals (R213 to R215) -/

/-- The counter that an entry of the signal map names. -/
def sigOf (v : W32) : Option Nat := if bit v.toNat 31 then some (bits v.toNat 0 13) else none

/-- An identifier without a valid entry: a record against the context (R214). -/
def sigFault (k : Cfg) (d : Dyn) (c id : Nat) : Dyn :=
  fault k d { frec 0x10 .noRoute (rootUnit 7) with ctx := some c, detail := w64 id }

/-- Pending TAKEs of a counter, oldest first, as far as they are satisfied; all of them when the counter is in error. -/
def serveTakes : Nat → Dyn → Nat → Dyn
  | 0, d, _ => d
  | n + 1, d, i =>
    let x := getSig d i
    match d.sg.takes.find? (fun t => t.ctr = i) with
    | none => d
    | some t =>
      let slot := ((getOp d t.leaf t.opslot).map (·.slot)).getD 0
      let drop (d : Dyn) : Dyn := { d with sg := { d.sg with takes := dropFirst (fun y => y = t) d.sg.takes } }
      if x.ecc then serveTakes n (ans (drop d) t.leaf t.opslot slot .eccUncorr 0) i
      else if t.n ≤ dist32 x.taken x.raised then
        serveTakes n (ans (setSig (drop d) i { x with taken := x.taken + w32 t.n }) t.leaf t.opslot slot .ok 0) i
      else d

def serveSig (d : Dyn) (i : Nat) : Dyn := if rebasing d (.signal i) then d else serveTakes (d.sg.takes.length + 1) d i

/-- RAISE at the root: none while a rebase holds the counter (R171, R214). -/
def raiseAt (d : Dyn) (i n : Nat) : Option Status × Dyn :=
  let x := getSig d i
  if rebasing d (.signal i) then (none, d)
  else if x.ecc then (some .eccUncorr, d)
  else if n = 0 then (some .ok, d)
  else if p32 ≤ dist32 x.taken x.raised + n then (some .rangeFault, d)
  else (some .ok, serveSig (setSig d i { x with raised := x.raised + w32 n }) i)

def holdOp (d : Dyn) (o : PairObj) (l j : Nat) : Dyn :=
  { d with sg := { d.sg with held := d.sg.held ++ [{ obj := o, leaf := l, opslot := j, own := none }] } }

/-- A TAKE of `n` must wait: behind an earlier one of its counter, or for raises. -/
def takeWaits (d : Dyn) (i n : Nat) : Bool :=
  d.sg.takes.any (fun t => t.ctr = i) || dist32 (getSig d i).taken (getSig d i).raised < n

/-- A RAISE or TAKE of an engine, its identifier mapped to counter `i`, is decided at the root. -/
def sigDecide (d : Dyn) (l j i : Nat) (o : OpSlot) : Dyn :=
  let n := bits o.arg.toNat 16 16
  if rebasing d (.signal i) then holdOp d (.signal i) l j
  else if o.code = 4 then
    let r := raiseAt d i n
    ans r.2 l j o.slot (r.1.getD .ok) 0
  else if (getSig d i).ecc then ans d l j o.slot .eccUncorr 0
  else if n = 0 then ans d l j o.slot .ok 0
  else if 4096 ≤ d.sg.takes.length && takeWaits d i n then ans d l j o.slot .full 0
  else
    let t : PendTake := { ctr := i, leaf := l, opslot := j, n := n, timed := bits o.arg.toNat 32 21 ≠ 0, since := d.fc }
    serveSig { d with sg := { d.sg with takes := d.sg.takes ++ [t] } } i

/-- A raise of Denut's own: applied, or held by a rebase of its counter (R170). -/
def raiseOwn (d : Dyn) (i n : Nat) : Dyn :=
  match raiseAt d i n with
  | (some _, d) => d
  | (none, d) => { d with sg := { d.sg with held := d.sg.held ++ [{ obj := .signal i, leaf := 0, opslot := 0, own := some n }] } }

/-- A signal operation whose identifier's entry is at hand: without a valid entry it is refused with NO_ROUTE and recorded, else it is decided. -/
def sigAct (k : Cfg) (d : Dyn) (w : MapWait) (v : W32) : Dyn :=
  match sigOf v, w.own with
  | none, some _ => sigFault k d w.ctx w.id
  | some i, some n => raiseOwn d i n
  | m, none =>
    match getOp d w.leaf w.opslot with
    | none => d
    | some o =>
      match m with
      | none => ans (sigFault k d w.ctx w.id) w.leaf w.opslot o.slot .noRoute 0
      | some i => sigDecide d w.leaf w.opslot i o

/-- A signal operation looks its identifier up first; a miss adds the read of its line (R213, R214). -/
def sigLookup (k : Cfg) (d : Dyn) (w : MapWait) : Dyn :=
  match mapLookup k false d (mapKey w.ctx w.id) with
  | (some v, d) => sigAct k d w v
  | (none, d) => { d with sg := { d.sg with mapWaits := d.sg.mapWaits ++ [w] } }

/-- A RAISE or TAKE: the lookup, then the decision. -/
def sigOp (l ptag code : Nat) (sig n : W16) (timeout : Nat) (k : Cfg) (d : Dyn) : Dyn :=
  if unitWaits d 0x10 (rootUnit 7) then d
  else presentOp k d l ptag code true fun p j =>
    if p.shadow then ans d l j p.slot (if code = 4 then .ok else .badDescriptor) 0
    else
      let o := newOp d p code 0 0 (sig.toNat + n.toNat * 2 ^ 16 + timeout * 2 ^ 32)
      sigLookup k (putOp d l j o) { ctx := p.ctx, id := sig.toNat, leaf := l, opslot := j, own := none }

/-- The waiting operations whose identifiers lie in a line go on, in order. -/
def lineServed (k : Cfg) (d : Dyn) (line : Nat) (val : Nat → W32) : Dyn :=
  let here (w : MapWait) : Bool := mapKey w.ctx w.id / 16 = line
  let ws := d.sg.mapWaits.filter here
  ws.foldl (fun d w =>
    let key := mapKey w.ctx w.id
    let v := ((d.sg.cache.find? (fun e => e.1 = key)).map (·.2)).getD (val key)
    sigAct k (mapCached d false key v) w v) { d with sg := { d.sg with mapWaits := d.sg.mapWaits.filter (fun w => !here w) } }

/-- A command at the data plane waits for an entry of a line: SIGNAL for the signal map, RECORD_EVENT and WAIT_EVENT for the event map. -/
def lineAwaited (d : Dyn) (evt : Bool) (line : Nat) : Bool :=
  d.lt.reqs.any (fun q => (if evt then q.op = cRecord || q.op = cWait else q.op = cSignal) && mapKey q.id.c (opn q.ops 16 2) / 16 = line)

/-- A line of a map has been read: the operations that wait for it go on; for commands its data stays until they are taken. An error response has the
line read again (Table 12.4). -/
def mapReturned (k : Cfg) (d : Dyn) (evt : Bool) (line : Nat) (j : RdJob) : Dyn :=
  if j.err then readMapLine k (dropRead d j.use) evt line
  else
    let d := if evt then d else lineServed k d line (lineEntry j)
    if lineAwaited d evt line then d else dropRead d j.use

/-- The time-out of a pending TAKE, counted from its decision; the TAKEs behind it are tried again (R214). -/
def takeTimeout (l j : Nat) (_k : Cfg) (d : Dyn) : Dyn :=
  match d.sg.takes.find? (fun t => t.leaf = l && t.opslot = j && t.timed), getOp d l j with
  | some t, some o =>
    if cyclesSince d t.since < bits o.arg.toNat 32 21 then d else
    let d := { d with sg := { d.sg with takes := dropFirst (fun y => y = t) d.sg.takes } }
    serveSig (ans d l j o.slot .timeout 0) t.ctr
  | _, _ => d

/-- A raise by Denut itself for a context: a mapped identifier's counter is raised, an unmapped one makes a record. -/
def raiseFor (k : Cfg) (d : Dyn) (c id n : Nat) : Dyn := sigLookup k d { ctx := c, id := id, leaf := 0, opslot := 0, own := some n }

/-! ### Circular regions (R216 to R218) -/

/-- The acquisition at the head of a region's order that can be granted, or a wait that is satisfied. -/
def crNext (d : Dyn) (i : Nat) (x : CReg) : Option PendCr :=
  let mine := d.sg.crWaits.filter (fun w => w.creg = i)
  let acq := (mine.find? (fun w => !w.wait)).filter (fun w => x.ecc || dist32 x.c x.v + w.n ≤ x.depth)
  match acq with
  | some w => some w
  | none => mine.find? (fun w => w.wait && (x.ecc || w.n ≤ x.p.toNat))

/-- Grants what can be granted at a region. -/
def serveCrs : Nat → Dyn → Nat → Dyn
  | 0, d, _ => d
  | f + 1, d, i =>
    let x := getCr d i
    match crNext d i x with
    | none => d
    | some w =>
      let slot := ((getOp d w.leaf w.opslot).map (·.slot)).getD 0
      let d := { d with sg := { d.sg with crWaits := dropFirst (fun y => y = w) d.sg.crWaits } }
      if x.ecc then serveCrs f (ans d w.leaf w.opslot slot .eccUncorr 0) i
      else if w.wait then serveCrs f (ans d w.leaf w.opslot slot .ok 0) i
      else serveCrs f (ans (setCr d i { x with v := x.v + w32 w.n }) w.leaf w.opslot slot .ok x.v.toNat) i

def serveCr (d : Dyn) (i : Nat) : Dyn := if rebasing d (.creg i) then d else serveCrs (d.sg.crWaits.length + 1) d i

/-- Pending acquisitions and waits of a region's dispatcher. -/
def crPending (d : Dyn) (i : Nat) : Nat := (d.sg.crWaits.filter (fun w => w.creg / 256 = i / 256)).length

/-- The target of a CR_WAIT, or N of the other operations, and the TIMEOUT, as the slot keeps them. -/
def crArg (creg v timeout : Nat) : Nat := creg + v * 2 ^ 12 + timeout * 2 ^ 44

/-- A CR_ACQUIRE of `n` must wait: behind an earlier one of its region, or for slots. -/
def acquireWaits (d : Dyn) (i n : Nat) : Bool :=
  let x := getCr d i
  d.sg.crWaits.any (fun w => w.creg = i && !w.wait) || d.sg.held.any (fun h => h.obj = .creg i) || x.depth < dist32 x.c x.v + n

/-- A circular-region operation is decided at its region dispatcher. -/
def crDecide (d : Dyn) (l j : Nat) (o : OpSlot) : Dyn :=
  let i := bits o.arg.toNat 0 12
  let n := bits o.arg.toNat 12 32
  let x := getCr d i
  if rebasing d (.creg i) then holdOp d (.creg i) l j
  else if x.ecc then ans d l j o.slot .eccUncorr 0
  else if !x.valid || x.ctx ≠ o.ctx then ans d l j o.slot .badDescriptor 0
  else if o.code = 7 then
    if dist32 x.p x.v < n then ans d l j o.slot .rangeFault 0
    else serveCr (ans (setCr d i { x with p := x.p + w32 n }) l j o.slot .ok 0) i
  else if o.code = 9 then
    if dist32 x.c x.p < n then ans d l j o.slot .rangeFault 0
    else serveCr (ans (setCr d i { x with c := x.c + w32 n }) l j o.slot .ok 0) i
  else if o.code = 6 && n = 0 then ans d l j o.slot .ok x.v.toNat
  else if o.code = 8 && n ≤ x.p.toNat then ans d l j o.slot .ok 0
  else if 64 ≤ crPending d i && (o.code = 8 || acquireWaits d i n) then holdOp d (.creg i) l j
  else
    let w : PendCr := { creg := i, leaf := l, opslot := j, wait := o.code = 8, n := n, timed := o.code = 8 && o.timeout ≠ 0, since := d.fc }
    serveCr { d with sg := { d.sg with crWaits := d.sg.crWaits ++ [w] } } i

/-- Decides again the operations that wait at an owner or at a stub, in the order of their arrival (log 107: DESIGN CHOICE); those that
still must wait are held again. -/
def serveHeld (d : Dyn) : Dyn :=
  let hs := d.sg.held
  hs.foldl (fun d h =>
    match h.obj, h.own with
    | .signal i, some n => raiseOwn d i n
    | .signal i, none =>
      match getOp d h.leaf h.opslot with
      | some o => sigDecide d h.leaf h.opslot i o
      | none => d
    | .creg _, _ =>
      match getOp d h.leaf h.opslot with
      | some o => crDecide d h.leaf h.opslot o
      | none => d) { d with sg := { d.sg with held := [] } }

/-- A circular-region operation is presented. -/
def crOp (l ptag code creg v timeout : Nat) (k : Cfg) (d : Dyn) : Dyn :=
  presentOp k d l ptag code true fun p j =>
    if p.shadow then ans d l j p.slot (if code = 7 || code = 9 then .ok else .badDescriptor) 0
    else
      let o := { newOp d p code 0 0 (crArg (creg % 4096) v (min (2 ^ 20 - 1) timeout)) with timeout := capTo timeout }
      serveHeld (crDecide (putOp d l j o) l j o)

/-- The time-out of a pending CR_WAIT, counted from its decision, is a RANGE_FAULT (R214, R217). -/
def crWaitTimeout (l j : Nat) (_k : Cfg) (d : Dyn) : Dyn :=
  match d.sg.crWaits.find? (fun w => w.leaf = l && w.opslot = j && w.timed), getOp d l j with
  | some w, some o =>
    if cyclesSince d w.since < o.timeout then d else
    let d := { d with sg := { d.sg with crWaits := dropFirst (fun y => y = w) d.sg.crWaits } }
    serveHeld (ans d l j o.slot .rangeFault 0)
  | _, _ => d

/-! ### Rebase (R168 to R170) -/

/-- The consumer count of an object, when it exists. -/
def pairTaken (d : Dyn) : PairObj → Option Nat
  | .signal i => if i < 8192 then some (getSig d i).taken.toNat else none
  | .creg i => if i < 4096 && (getCr d i).valid then some (getCr d i).c.toNat else none

def pairGranule (d : Dyn) : PairObj → Nat
  | .signal _ => 1
  | .creg i => (getCr d i).depth

/-- Starts a rebase: D is computed at the owner and sent down the barrier tree. -/
def rebaseStart (d : Dyn) (o : PairObj) (taken : Nat) : Dyn :=
  let amount := w32 (taken - taken % pairGranule d o)
  out { d with sg := { d.sg with rebases := d.sg.rebases ++ [(o, amount)] } } (.rebase o amount)

/-- A pair whose consumer count has reached 2^31 is rebased while fewer than 16 rebases are in flight. -/
def rebase (o : PairObj) (_k : Cfg) (d : Dyn) : Dyn :=
  match pairTaken d o with
  | none => d
  | some t => if t < 2 ^ 31 || rebasing d o || 16 ≤ d.sg.rebases.length then d else rebaseStart d o t

/-- Some pair other than `o` has reached 2^31 and waits for a slot. -/
def rebaseUrgent (d : Dyn) (o : PairObj) : Bool :=
  d.sg.ctrs.any (fun e => .signal e.1 ≠ o && 2 ^ 31 ≤ e.2.taken.toNat && !rebasing d (.signal e.1))
    || d.sg.cregs.any (fun e => .creg e.1 ≠ o && e.2.valid && 2 ^ 31 ≤ e.2.c.toNat && !rebasing d (.creg e.1))

/-- The periodic sweep visits a pair. -/
def rebaseSweep (o : PairObj) (_k : Cfg) (d : Dyn) : Dyn :=
  match pairTaken d o with
  | none => d
  | some t =>
    if t < 2 ^ 24 || rebasing d o || 16 ≤ d.sg.rebases.length || rebaseUrgent d o then d else rebaseStart d o t

/-- D leaves the targets of the CR_WAITs that stubs hold for a region (R168, R217). -/
def rebaseHeld (d : Dyn) (i D : Nat) : Dyn :=
  (d.sg.held.filter (fun h => h.obj = .creg i)).foldl (fun d h =>
    match getOp d h.leaf h.opslot with
    | some o =>
      if o.code = 8 then
        putOp d h.leaf h.opslot { o with arg := w64 (setBits o.arg.toNat 12 32 (bits o.arg.toNat 12 32 - D)) }
      else d
    | none => d) d

/-- The barrier completes at the owner: D leaves both counts and every pending target, and held operations proceed. -/
def rebaseComplete (o : PairObj) (_k : Cfg) (d : Dyn) : Dyn :=
  match d.sg.rebases.find? (fun r => r.1 = o) with
  | none => d
  | some r =>
    let d := { d with sg := { d.sg with rebases := d.sg.rebases.filter (fun x => x.1 ≠ o) } }
    let d := match o with
      | .signal i =>
        let x := getSig d i
        serveSig (setSig d i { x with raised := x.raised - r.2, taken := x.taken - r.2 }) i
      | .creg i =>
        let x := getCr d i
        let d := setCr d i { x with v := x.v - r.2, p := x.p - r.2, c := x.c - r.2 }
        let ws := mapIf (fun w => w.creg = i && w.wait) (fun w => { w with n := w.n - r.2.toNat }) d.sg.crWaits
        serveCr (rebaseHeld { d with sg := { d.sg with crWaits := ws } } i r.2.toNat) i
    serveHeld d

end Sys2Proof.Machine
end

