-- ==== Sys2Proof/Machine/Combining.lean ====
section
/-! DEFINITION. Combining queues (R200 to R212, R352, R353): acceptance, CONTRIBUTION_APPLY with the closing of tags, and
RESULT_DELIVERY. -/
namespace Sys2Proof.Machine

/-! ### Queue entries (Table 7.8) -/

def qEntry (d : Dyn) (q : Nat) : Nat := (tgetD d.cb.queues q 0).toNat
def qValid (e : Nat) : Bool := bit e 0
def qFast (e : Nat) : Bool := bit e 1
def qOp (e : Nat) : Nat := bits e 2 2
def qOutfmt (e : Nat) : Nat := bits e 4 3
def qSat (e : Nat) : Bool := bit e 7
def qDeliver (e : Nat) : Nat := bits e 8 2
def qCtx (e : Nat) : Nat := bits e 107 6
def qRsigEn (e : Nat) : Bool := bit e 113
def qRsig (e : Nat) : Nat := bits e 114 16
def qRqidx (e : Nat) : Nat := bits e 130 3
def qRdest (e : Nat) : Nat := bits e 133 17
def qRchip (e : Nat) : Nat := bits e 150 10
def qExpect (e : Nat) : Nat := bits e 160 32
def qRbase (e : Nat) : Nat := bits e 192 64

/-- R200 and R4. -/
def qEntryOk (k : Cfg) (e : Nat) : Bool :=
  bits e 10 97 = 0 && qOp e ≠ 3 && qDeliver e ≠ 3 && qOutfmt e ≠ 7
    && !(qFast e && qOp e ≠ 0) && !(qFast e && qOutfmt e = 6) && !(qOutfmt e = 5 && qOp e ≠ 0)
    && (qDeliver e ≠ 1 ||
      (if qRchip e = k.boot.chipId then
        isCombDest (qRdest e) || (!isParcelRef (qRdest e) && !isRootRef (qRdest e) && k.present (qRdest e) && k.classOf (qRdest e) ≠ 6)
       else !isParcelRef (qRdest e) && (leafStub (qRdest e) < 0xF0 || isCombDest (qRdest e))))

/-! ### Tags -/

def Tag.new (q tag : Nat) : Tag :=
  { q := q, tag := tag, st := .opened, a := 0, any := false, nan := false, pinf := false, ninf := false, neg0 := true,
    fast := 0, count := 0, dsum := 0, remote := false, status := .ok, orphan := false }

def Tag.isOpen (t : Tag) : Bool := t.st == .opened

/-- Tags of a queue that count as open (R202). -/
def queueTags (d : Dyn) (q : Nat) : List Tag := d.cb.tags.filter (fun t => t.q = q)

/-- The queue has a tag that counts as open, or contributions accepted and not yet applied, which open one (R212). -/
def queueBusy (d : Dyn) (q : Nat) : Bool :=
  !(queueTags d q).isEmpty || d.cb.intake.any (fun t => !hClose t.hdr && combQueue (hDest t.hdr) (hQ t.hdr) = q)

/-- Addition modulo 2^320 in two's complement (R204). -/
def wrap320 (a : Int) : Int := toSigned 320 (ofSigned 320 a)

/-- The value that a MAX or MIN tag keeps. -/
def Tag.kept (t : Tag) : Elem := if t.pinf then .inf false else if t.ninf then .inf true else .num t.a (t.a = 0 && t.neg0)

/-- Order of R207: exact values, −0 below +0. -/
def elemLess : Elem → Elem → Bool
  | .inf a, .inf b => a && !b
  | .inf a, _ => a
  | _, .inf b => !b
  | .num a na, .num b nb => a < b || (a = b && a = 0 && na && !nb)
  | _, _ => false

/-- The element that a MAX or MIN tag keeps from now on; a NaN ends the comparison. The accumulator of an infinite or NaN result, which
R207 does not give, is 0 (log 79: DESIGN CHOICE). -/
def Tag.keep (t : Tag) (e : Elem) : Tag :=
  match e with
  | .nan => { t with a := 0, any := true, nan := true, pinf := false, ninf := false, neg0 := false }
  | .inf n => { t with a := 0, any := true, pinf := !n, ninf := n, neg0 := false }
  | .num a n => { t with a := a, any := true, pinf := false, ninf := false, neg0 := a = 0 && n }

/-- One element enters a tag (R204, R205, R207, R208). -/
def Tag.add (t : Tag) (entry fmt x : Nat) : Tag :=
  let e := elemValue fmt x
  if qFast entry then
    { t with any := true, fast := w32 (if t.any then fp32Add t.fast.toNat (toFp32 fmt x) else toFp32 fmt x) }
  else if qOp entry = 0 then
    match e with
    | .nan => { t with any := true, nan := true, neg0 := false }
    | .inf n => { t with any := true, pinf := t.pinf || !n, ninf := t.ninf || n, neg0 := false }
    | .num a n => { t with any := true, a := wrap320 (t.a + a), neg0 := t.neg0 && a = 0 && n }
  else
    match e with
    | .nan => t.keep e
    | _ =>
      if t.nan then t
      else if !t.any then t.keep e
      else if qOp entry = 1 then (if elemLess t.kept e then t.keep e else t)
      else if elemLess e t.kept then t.keep e else t

/-- A partial of another queue enters a tag (Table 7.9, R205). -/
def Tag.addXp (t : Tag) (hi : Bool) (payload : Nat) : Tag :=
  if !hi then { t with any := true, a := wrap320 (t.a + (bits payload 0 160 : Nat)) }
  else
    { t with any := true, a := wrap320 (t.a + toSigned 160 (bits payload 0 160) * 2 ^ 160),
             nan := t.nan || bit payload 160, pinf := t.pinf || bit payload 161, ninf := t.ninf || bit payload 162,
             neg0 := t.neg0 && bit payload 163 }

/-- The contributions of a token: tag, what enters, and its own digest (R201, R210). -/
def contributions (h : W64) (payload : Nat) : List (Nat × (Nat → Tag → Tag) × Nat) :=
  if hFmt h ≥ 6 then [(hTag h, fun _ t => t.addXp (hFmt h = 7) payload, tokDigest (hFmt h) (hLen h) payload)]
  else
    let es := tokElems (hFmt h) (hLen h) payload
    ((upFrom 0 es.length).zip es).map (fun x =>
      ((hTag h + x.1) % 65536, fun e t => t.add e (hFmt h) x.2,
       match elemValue (hFmt h) x.2 with
       | .num a _ => digFold a
       | _ => 0))

/-- One contribution: it opens its tag when that is not open, and closes it when EXPECT is reached (R202, R203). -/
def contribute (entry q : Nat) (remote : Bool) (tags : List Tag) (tag : Nat) (f : Tag → Tag) (dig : Nat) : List Tag :=
  let tags := if tags.any (fun t => t.q = q && t.tag = tag && t.isOpen) then tags else tags ++ [Tag.new q tag]
  mapFirst (fun t => t.q = q && t.tag = tag && t.isOpen) (fun t =>
    let t := f t
    let n := t.count + 1
    { t with count := n, dsum := digAdd t.dsum dig, remote := t.remote || remote,
             st := if qExpect entry ≠ 0 && n = qExpect entry then .closed else .opened }) tags

/-- A token's elements, in order, enter the tags; a CLOSE closes its tag. The declared digest of element i is its own, and what
the declared digest of the token differs from their sum by stands with element 0 (R352, log 26: DEDUCED). -/
def applyTok (chip entry : Nat) (tags : List Tag) (t : Tok) : List Tag :=
  let q := combQueue (hDest t.hdr) (hQ t.hdr)
  if hClose t.hdr then
    mapFirst (fun x => x.q = q && x.tag = hTag t.hdr && x.isOpen) (fun x => { x with st := .closed }) tags
  else
    let cs := contributions t.hdr t.payload.toNat
    let own := cs.foldl (fun s c => digAdd s c.2.2) 0
    let off := digAdd t.ddig.toNat (max64 - own)
    let cs := match cs with
      | [] => []
      | c :: r => (c.1, c.2.1, digAdd c.2.2 off) :: r
    cs.foldl (fun tags c => contribute entry q (sChip t.src ≠ chip) tags c.1 (c.2.1 entry) c.2.2) tags

/-! ### Acceptance at the intake (R200 to R202) -/

def combDecide (k : Cfg) (d : Dyn) (t : Tok) : Status × Dyn :=
  let q := combQueue (hDest t.hdr) (hQ t.hdr)
  let e := qEntry d q
  let accept : Dyn := { d with cb := { d.cb with intake := d.cb.intake ++ [t] } }
  if !qValid e then (.closed, d)
  else if hClose t.hdr then (if 512 ≤ d.cb.intake.length then (.full, d) else (.ok, accept))
  else if !fmtFits (hFmt t.hdr) (hLen t.hdr) || (6 ≤ hFmt t.hdr && (qFast e || qOp e ≠ 0))
      || (hFmt t.hdr = 7 && bits t.payload.toNat 164 4 ≠ 0) then (.badDescriptor, d)
  else if 512 ≤ d.cb.intake.length then (.full, d)
  else
    let before := d.cb.intake.foldl (fun tags x =>
      applyTok k.boot.chipId (qEntry d (combQueue (hDest x.hdr) (hQ x.hdr))) tags x) d.cb.tags
    let after := applyTok k.boot.chipId e before t
    if after.length ≤ before.length
        || (after.length ≤ 8192 && (after.filter (fun x => x.q = q)).length ≤ 64) then (.ok, accept)
    else (.full, d)

/-! ### Closing (R203, R352, R353) -/

/-- Every launch of a context that is in flight fails with a status (R353). -/
def failCtx (d : Dyn) (c : Nat) (st : Status) : Dyn :=
  (d.ls.slots.filter (fun e => e.2.inFlight && e.2.id.c = c)).foldl (fun d e => failLaunch d e.1 st) d

/-- The digest check of a closing SUM tag. -/
def digestBad (entry : Nat) (t : Tag) : Bool :=
  qOp entry = 0 && !qFast entry && t.status = .ok && t.dsum % max64 ≠ digFold t.a

/-- A tag has closed: its digest is checked, an orphan is freed and counted, a failed tag delivers nothing. -/
def tagClosed (k : Cfg) (d : Dyn) (t : Tag) : Option Tag × Dyn :=
  let e := qEntry d t.q
  let bad := digestBad e t
  let st : Status := if bad then .digestMismatch else t.status
  let d := if !bad then d else
    fault k d { frec 0x09 .digestMismatch (rootUnit 4) with
      ctx := some (qCtx e), detail := w64 (t.q + t.tag * 2 ^ 16 + b2n t.remote * 2 ^ 32) }
  let d := if st = .ok then d else failCtx d (qCtx e) st
  if t.orphan then (none, count d cStatOrph 1)
  else if qDeliver e = 2 then (some { t with st := .held, status := st }, d)
  else if st = .ok then (some t, d)
  else (none, d)

/-- Takes every tag that has just closed through its close, in ascending queue and tag; they go behind the others, so that closed tags stand
in the order in which they closed, and tags that close together in that of their rows (R257). -/
def closeTags (k : Cfg) (d : Dyn) (before : List Tag) : Dyn :=
  let isNew (t : Tag) : Bool := t.st == .closed && !before.contains t
  let r := (isort (fun a b => a.q < b.q || (a.q = b.q && a.tag ≤ b.tag)) (d.cb.tags.filter isNew)).foldl (fun (acc : List Tag × Dyn) t =>
    match tagClosed k acc.2 t with
    | (some t', d') => (acc.1 ++ [t'], d')
    | (none, d') => (acc.1, d')) (([] : List Tag), d)
  { r.2 with cb := { r.2.cb with tags := d.cb.tags.filter (fun t => !isNew t) ++ r.1 } }

/-- The intake applies its oldest token (R211). A tag that would close with a wrong digest while no record can enter stays
open, and the intake waits (Table 12.12). -/
def contributionApply (k : Cfg) (d : Dyn) : Dyn :=
  match d.cb.intake with
  | [] => d
  | t :: rest =>
    if summaryFull d then d
    else
      let e := qEntry d (combQueue (hDest t.hdr) (hQ t.hdr))
      let before := d.cb.tags.filter (fun x => x.st == .closed)
      let tags := applyTok k.boot.chipId e d.cb.tags t
      closeTags k { d with cb := { d.cb with intake := rest, tags := tags } } before

/-! ### Results (R206 to R209) -/

/-- The value of a closed tag. -/
def Tag.value (t : Tag) (entry : Nat) : Elem :=
  if qFast entry then elemValue 0 t.fast.toNat
  else if t.nan || (t.pinf && t.ninf) then .nan
  else if t.pinf then .inf false
  else if t.ninf then .inf true
  else .num t.a (if t.a = 0 then t.neg0 else t.a < 0)

def Tag.flags (t : Tag) : Nat := b2n t.nan + 2 * b2n t.pinf + 4 * b2n t.ninf + 8 * b2n t.neg0

/-- The accumulator as XP delivers it: 40 bytes, then the flags. -/
def Tag.xp (t : Tag) : Nat := ofSigned 320 t.a + t.flags * 2 ^ 320

/-- Bytes of a result in memory (R209). -/
def outWidth (fmt : Nat) : Nat := if fmt = 6 then 48 else fmtWidth fmt

def Tag.bytes (t : Tag) (entry : Nat) : List Byte :=
  if qOutfmt entry = 6 then leBytes 48 t.xp
  else leBytes (outWidth (qOutfmt entry)) (encodeElem (t.value entry) (qOutfmt entry) (qSat entry))

/-- The result token of a tag; for XP part 0 is XP_LO and part 1 XP_HI. -/
def resultTok (k : Cfg) (entry : Nat) (t : Tag) (part : Nat) : Tok :=
  let f := qOutfmt entry
  let comb := isCombDest (qRdest entry)
  let len := if f = 6 then 20 + part else fmtWidth f
  let fmt := if !comb then 0 else if f = 6 then 6 + part else f
  let pay := if f ≠ 6 then encodeElem (t.value entry) f (qSat entry)
    else if part = 0 then bits t.xp 0 160
    else bits t.xp 160 160 + t.flags * 2 ^ 160
  let h := mkHdr (qRchip entry) (qRdest entry) (qRqidx entry) t.tag len fmt false
  { hdr := h, src := mkSrc k.boot.chipId (combRef t.q) (qCtx entry) 0 0, payload := w256 pay,
    ddig := w64 (if comb then tokDigest fmt len pay else 0), sender := .comb t.q t.tag part }

/-- Changes the oldest tag instance of this queue, number and kind of state. -/
def modTag (d : Dyn) (q tag : Nat) (p : TagSt → Bool) (f : Tag → Tag) : Dyn :=
  { d with cb := { d.cb with tags := mapFirst (fun t => t.q = q && t.tag = tag && p t.st) f d.cb.tags } }

def dropTag (d : Dyn) (q tag : Nat) (p : TagSt → Bool) : Dyn :=
  { d with cb := { d.cb with tags := dropFirst (fun t => t.q = q && t.tag = tag && p t.st) d.cb.tags } }

def TagSt.isWriting : TagSt → Bool
  | .writing => true
  | _ => false

def TagSt.isKeyHeld : TagSt → Bool
  | .keyHeld _ => true
  | _ => false

def TagSt.part : TagSt → Nat
  | .keyHeld n => n
  | .sending n => n
  | _ => 0

def TagSt.isSending : TagSt → Bool
  | .sending _ => true
  | .keyHeld _ => true
  | _ => false

/-- A result is discarded: a record against CONTEXT, and the tag is freed (R209). -/
def resultRefused (k : Cfg) (d : Dyn) (q tag : Nat) (st : Status) : Dyn :=
  let e := qEntry d q
  let d := fault k d { frec 0x10 st (rootUnit 4) with ctx := some (qCtx e), detail := w64 (qRdest e) }
  dropTag d q tag (fun s => s.isSending || s == .closed)

/-- A result is delivered: the tag is freed and RSIG is raised. -/
def resultDone (k : Cfg) (d : Dyn) (q tag : Nat) (p : TagSt → Bool) : Dyn :=
  let e := qEntry d q
  let d := dropTag d q tag p
  if qRsigEn e then raiseFor k d (qCtx e) (qRsig e) 1 else d

/-- Sends a result's token; toward another chip it is held while a written LINK_KEY waits to be applied (R195). -/
def sendResult (k : Cfg) (d : Dyn) (q tag part : Nat) : Dyn :=
  match d.cb.tags.find? (fun t => t.q = q && t.tag = tag && (t.st.isSending || t.st == .closed)) with
  | none => d
  | some t =>
    let tok := resultTok k (qEntry d q) t part
    let hold := !k.local tok.hdr && d.lk.pendKey.isSome
    let d := modTag d q tag (fun s => s.isSending || s == .closed) (fun t => { t with st := if hold then .keyHeld part else .sending part })
    if hold then d
    else { d with tk := { d.tk with flight := d.tk.flight ++ [tok] } }

/-- The result token of a queue that a waiting LINK_KEY held leaves once the key is applied. -/
def resumeResult (k : Cfg) (d : Dyn) (q : Nat) : Dyn :=
  match d.cb.tags.find? (fun t => t.q = q && t.st.isKeyHeld) with
  | some t => if d.lk.pendKey.isSome then d else sendResult k d q t.tag t.st.part
  | none => d

/-- Begins the delivery of a closed tag's result: its memory write, or its token. A queue's tokens form one pair, of which one
is in flight (R187); behind a waiting delivery record the next delivery waits (Table 12.12). -/
def resultDelivery (q tag : Nat) (k : Cfg) (d : Dyn) : Dyn :=
  match d.cb.tags.find? (fun t => t.q = q && t.tag = tag && t.st == .closed) with
  | none => resumeResult k d q
  | some t =>
    let e := qEntry d q
    if unitWaits d 0x10 (rootUnit 4) then d
    else if qDeliver e = 0 then
      let d := modTag d q tag (· == .closed) (fun t => { t with st := .writing })
      busWrite k d ((qRbase e + tag * outWidth (qOutfmt e)) % p64) (t.bytes e) (.result q tag)
    else
      let h := (resultTok k e t 0).hdr
      if d.cb.tags.any (fun x => x.q = q && x.st.isSending) then resumeResult k d q
      else if !k.local h && d.lk.pendKey.isSome then d
      else if noRoute k d (combRef q) h then resultRefused k d q tag .noRoute
      else sendResult k d q tag 0

/-- A result's write has been acknowledged. -/
def resultWritten (k : Cfg) (d : Dyn) (q tag : Nat) : Dyn :=
  if d.cb.tags.any (fun t => t.q = q && t.tag = tag && t.st.isWriting) then resultDone k d q tag TagSt.isWriting else d

/-- A result token's acknowledgement has come back (R189, R209). -/
def combAcked (k : Cfg) (d : Dyn) (q tag part : Nat) (st : Status) : Dyn :=
  if !d.cb.tags.any (fun t => t.q = q && t.tag = tag && t.st == .sending part) then d
  else
    let e := qEntry d q
    let h := mkHdr (qRchip e) (qRdest e) (qRqidx e) tag 0 0 false
    let c := stallCheck k d (2 ^ 17 + q) h st { stallRec (rootUnit 4) h with ctx := some (qCtx e) }
    let d := match c.2.1 with
      | some r => fault k c.2.2 r
      | none => c.2.2
    if st = .ok then
      if qOutfmt e = 6 && part = 0 then sendResult k d q tag 1 else resultDone k d q tag TagSt.isSending
    else if c.1 = .full then sendResult k d q tag part
    else resultRefused k d q tag c.1

end Sys2Proof.Machine
end

