-- ==== Sys2Proof/Machine/Funcs.lean ====
section
/-! DEFINITION. The arithmetic of the SFU: exact fractions and their one rounding (R258), the E40 format, and the evaluation
of a function slot (R267 to R271). -/
namespace Sys2Proof.Machine

/-! ### Exact fractions -/

/-- The value n / d, d above 0. -/
structure Frac where
  n : Int
  d : Nat
  deriving DecidableEq, Repr

def Frac.add (a b : Frac) : Frac := { n := a.n * b.d + b.n * a.d, d := a.d * b.d }
def Frac.sub (a b : Frac) : Frac := { n := a.n * b.d - b.n * a.d, d := a.d * b.d }
def Frac.mul (a b : Frac) : Frac := { n := a.n * b.n, d := a.d * b.d }

/-- Quotient by a fraction that is not 0. -/
def Frac.div (a b : Frac) : Frac :=
  { n := if 0 ≤ b.n then a.n * b.d else -(a.n * b.d), d := a.d * b.n.natAbs }

/-- A number of accumulator units (2^-149). -/
def Frac.units (a : Int) : Frac := { n := a, d := 2 ^ 149 }

/-- n / d × 2^x rounded to an integer, ties to even. -/
def rneFrac (n d : Nat) (x : Int) : Nat :=
  let n' := if 0 ≤ x then n * 2 ^ x.toNat else n
  let d' := if 0 ≤ x then d else d * 2 ^ (-x).toNat
  let r := n' / d'
  let rest := 2 * (n' % d')
  if d' < rest || (rest = d' && r % 2 = 1) then r + 1 else r

/-- floor(log2(n / d)) of a positive fraction. -/
def log2Frac (n d : Nat) : Int :=
  let l : Int := (Nat.log2 n : Int) - (Nat.log2 d : Int)
  let below := if 0 ≤ l then n < d * 2 ^ l.toNat else n * 2 ^ (-l).toNat < d
  if below then l - 1 else l

/-- The magnitude pattern of n / d × 2^x in a floating format, or none when it rounds above the largest finite value. -/
def FFmt.magnitude (f : FFmt) (n d : Nat) (x : Int) : Option Nat :=
  let e := log2Frac n d + x
  if 1000 < e then none
  else if e < -1000 then some 0
  else
    let qmin : Int := 1 - f.bias - f.mb
    let q := max (e - f.mb) qmin
    let r := rneFrac n d (x - q)
    let mag := if r < 2 ^ f.mb then r else r + (q - qmin).toNat * 2 ^ f.mb
    if f.maxFinite < mag then none else some mag

/-- ± n / d × 2^x, not 0, rounded once to a format. -/
def roundScaled (neg : Bool) (n d : Nat) (x : Int) (fmt : Nat) (sat : Bool) : Nat :=
  if fmt = 5 then
    let e := log2Frac n d + x
    let r : Nat := if 40 < e then 2 ^ 40 else if e < -40 then 0 else rneFrac n d x
    ofSigned 32 (max (-(2 ^ 31)) (min (2 ^ 31 - 1) (signed neg r)))
  else
    let f := ffmt fmt
    let sign := b2n neg * 2 ^ (f.eb + f.mb)
    match f.magnitude n d x with
    | some m => sign + m
    | none => if sat then sign + f.maxFinite else infBits fmt neg

/-- `round_sum` applied to an exact fraction; 0 gives +0. -/
def roundFrac (v : Frac) (fmt : Nat) (sat : Bool) : Nat :=
  if v.n = 0 then 0 else roundScaled (v.n < 0) v.n.natAbs v.d 0 fmt sat

/-! ### E40 -/

/-- m × 2^e. -/
structure Dy where
  m : Int
  e : Int
  deriving DecidableEq, Repr

def Dy.zero : Dy := { m := 0, e := 0 }

/-- Rounding to 32 significant bits, ties to even. -/
def e40 (a : Dy) : Dy :=
  let n := a.m.natAbs
  if n < 2 ^ 32 then a
  else
    let k := Nat.log2 n - 31
    { m := signed (a.m < 0) (rne n k), e := a.e + k }

def Dy.mul (a b : Dy) : Dy := { m := a.m * b.m, e := a.e + b.e }

def Dy.neg (a : Dy) : Dy := { a with m := -a.m }

/-- Exponent of the leading bit. -/
def Dy.lead (a : Dy) : Int := (Nat.log2 a.m.natAbs : Int) + a.e

/-- The sum, as far as a rounding to 32 bits can tell: an operand more than 200 places below the other stands as one unit far
below it. -/
def Dy.add (a b : Dy) : Dy :=
  if a.m = 0 then b
  else if b.m = 0 then a
  else if b.lead + 200 < a.lead then { m := a.m * 2 ^ 80 + (if b.m < 0 then -1 else 1), e := a.e - 80 }
  else if a.lead + 200 < b.lead then { m := b.m * 2 ^ 80 + (if a.m < 0 then -1 else 1), e := b.e - 80 }
  else
    let e := min a.e b.e
    { m := a.m * 2 ^ (a.e - e).toNat + b.m * 2 ^ (b.e - e).toNat, e := e }

def Dy.sub (a b : Dy) : Dy := a.add b.neg

def Dy.lt (a b : Dy) : Bool := (a.sub b).m < 0

/-- floor of a value below 2^400 in size. -/
def Dy.floor (a : Dy) : Int :=
  if 0 ≤ a.e then a.m * 2 ^ a.e.toNat else a.m / (2 ^ (-a.e).toNat : Int)

def Dy.scale (a : Dy) (k : Int) : Dy := { a with e := a.e + k }

/-- An FP32 pattern that is a number, exactly. -/
def dyOf (x : W32) : Dy :=
  match elemValue 0 x.toNat with
  | .num a _ => { m := a, e := -149 }
  | _ => .zero

/-! ### Tables (R268) -/

def FnTab.at (t : FnTab) (lo n : Nat) : Nat := bits t.hdr.toNat lo n
def FnTab.lo (t : FnTab) : W32 := w32 (t.at 0 32)
def FnTab.pre (t : FnTab) : W32 := w32 (t.at 32 32)
def FnTab.psc (t : FnTab) : W32 := w32 (t.at 64 32)
def FnTab.cl (t : FnTab) : W32 := w32 (t.at 96 32)
def FnTab.cr (t : FnTab) : W32 := w32 (t.at 128 32)
def FnTab.wexp (t : FnTab) : Int := toSigned 8 (t.at 160 8)
def FnTab.red (t : FnTab) : Nat := t.at 168 4
def FnTab.sym (t : FnTab) : Nat := t.at 172 2
def FnTab.mulx (t : FnTab) : Bool := t.at 174 1 = 1
def FnTab.ltail (t : FnTab) : Nat := t.at 176 3
def FnTab.rtail (t : FnTab) : Nat := t.at 179 3
def FnTab.mono (t : FnTab) : Nat := t.at 182 2
def FnTab.hi (t : FnTab) : Dy := (dyOf t.lo).add { m := 1, e := 8 + t.wexp }

/-- The words of a table, as operands of a free value. -/
def FnTab.words (t : FnTab) : List Nat := t.hdr.toNat :: t.segs.flatMap (fun s => [s.1.toNat, s.2.1.toNat, s.2.2.toNat])

/-- A table from the 3,104 bytes of its image. -/
def FnTab.ofBytes (b : List Byte) : FnTab :=
  { hdr := w256 (leAt b 0 32),
    segs := (chunks 12 256 ((b.drop 32).take 3072)).map (fun s => (w32 (leAt s 0 4), w32 (leAt s 4 4), w32 (leAt s 8 4))) }

/-! ### Evaluation (R269 to R271) -/

/-- What an evaluation gives before its one rounding: NaN, an infinity, a zero of known sign, a number, or a value that the
spec does not state (log 16: DESIGN CHOICE). A number 0 has no stated sign. -/
inductive FVal where
  | nan
  | inf (neg : Bool)
  | zero (neg : Bool)
  | num (v : Dy)
  | free
  deriving DecidableEq, Repr

/-- floor(log2 y) of a positive value and y / 2^that. -/
def splitLog (y : Dy) : Int × Dy := (y.lead, y.scale (-y.lead))

/-- The reductions of Table 9.7: r, k and the sign that RECIP carries (log 27: DEDUCED). None is NaN. -/
def reduce (red : Nat) (y : Dy) : Option (Dy × Int × Bool) :=
  let s := splitLog { y with m := (y.m.natAbs : Int) }
  let one : Dy := { m := 1, e := 0 }
  match red with
  | 1 => if 200 < y.lead then some (.zero, (if y.m < 0 then -(2 ^ 200) else 2 ^ 200), false)
         else some (y.sub { m := y.floor, e := 0 }, y.floor, false)
  | 2 =>
    if y.m < 0 then none
    else if s.2.lt { m := 3, e := -1 } then some (s.2.sub one, s.1, false)
    else some ((s.2.scale (-1)).sub one, s.1 + 1, false)
  | 3 => some (s.2.sub one, s.1, y.m < 0)
  | 4 | 5 =>
    if y.m < 0 then none
    else
      let j := s.1 / 2
      some ((y.scale (-2 * j)).sub one, j, false)
  | _ => some (y, 0, false)

/-- Table 9.7, last column. -/
def rebuild (t : FnTab) (p : Dy) (k : Int) : Dy :=
  match t.red with
  | 1 | 4 => p.scale k
  | 2 => e40 ((e40 (({ m := k, e := 0 } : Dy).add p)).mul (dyOf t.psc))
  | 3 | 5 => p.scale (-k)
  | _ => p

/-- The polynomial of the segment that holds r. -/
def segment (t : FnTab) (r : Dy) : Dy :=
  let lo := dyOf t.lo
  let i := ((r.sub lo).scale (-t.wexp)).floor
  let c := t.segs.getD i.toNat (0, 0, 0)
  let off := e40 (r.sub (lo.add { m := i, e := t.wexp }))
  e40 ((dyOf c.1).add (e40 (off.mul (e40 ((dyOf c.2.1).add (e40 (off.mul (dyOf c.2.2))))))))

/-- Table 9.8: vendor slot z at an infinity or a zero. -/
def vendorSpecial (z : Nat) (inf neg : Bool) : FVal :=
  let one : FVal := .num { m := 1, e := 0 }
  if z ≤ 1 then (if inf then (if neg then .zero false else .inf false) else one)
  else if z ≤ 3 then (if inf then (if neg then .nan else .inf false) else .inf true)
  else if z = 4 then (if inf then .zero neg else .inf neg)
  else if z = 5 then (if inf then (if neg then .nan else .inf false) else .zero neg)
  else if z = 6 then (if inf then (if neg then .nan else .zero false) else .inf neg)
  else if z = 7 then (if inf then (if neg then .zero false else one) else .num { m := 1, e := -1 })
  else if z ≤ 9 then (if inf then .num { m := if neg then -1 else 1, e := 0 } else .zero neg)
  else if z ≤ 12 then (if inf then (if neg then .zero true else .inf false) else .zero neg)
  else if inf then (if neg then .zero false else .inf false)
  else .num { m := 0xB17217F7D1CF79ABC9E3B39803F2F6AF, e := -128 }

/-- The finite part of `eval`; `xneg` is the sign of a zero x, and `tail` gives the EXP tail. A zero that a tail gives, and that no E40
step has rounded, keeps its sign. -/
def evalFinite (t : FnTab) (x : Dy) (xneg : Bool) (tail : FVal) : FVal :=
  let y := e40 (x.mul (dyOf t.pre))
  if y.m = 0 && 2 ≤ t.red then .free
  else match reduce t.red y with
    | none => .nan
    | some (r0, k, flip) =>
      let neg := t.sym ≠ 0 && r0.m < 0
      let r := if neg then r0.neg else r0
      let tailOf (mode : Nat) (c : W32) : FVal :=
        if mode = 0 then (if (dyOf c).m = 0 then .zero (bit c.toNat 31) else .num (dyOf c))
        else if mode = 1 then (if x.m = 0 then .zero xneg else .num x)
        else tail
      let p0 := if r.lt (dyOf t.lo) then tailOf t.ltail t.cl
        else if !r.lt t.hi then tailOf t.rtail t.cr
        else .num (segment t r)
      let finish (p : Dy) : FVal :=
        let p := if neg then (if t.sym = 1 then p.neg else if t.sym = 2 then e40 (({ m := 1, e := 0 } : Dy).sub p) else p) else p
        let p := rebuild t p k
        let p := if flip then p.neg else p
        .num (if t.mulx then e40 (x.mul p) else p)
      match p0 with
      | .num p => finish p
      | .zero s =>
        if (neg && t.sym = 2) || t.red = 2 || t.mulx then finish .zero
        else .zero ((s != (neg && t.sym = 1)) != flip)
      | v => v

/-- `eval` of a slot at an FP32 input (R269, R271); `expTab` is the bank of slot 0 in force, for the EXP tail. -/
def evalSlot (z : Nat) (t : FnTab) (expTab : Option FnTab) (x : W32) : FVal :=
  match elemValue 0 x.toNat with
  | .nan => .nan
  | .inf n => if z < 14 then vendorSpecial z true n else .nan
  | .num a n =>
    if a = 0 && z < 14 then vendorSpecial z false n
    else
      let tail : FVal :=
        match expTab with
        | some e => if a = 0 then vendorSpecial 0 false n else evalFinite e { m := a, e := -149 } n .free
        | none => .free
      evalFinite t { m := a, e := -149 } n tail

/-- The one rounding of an evaluation to a format; what the spec does not state depends on the operands alone (R248). -/
def FVal.encode (v : FVal) (fmt : Nat) (sat : Bool) (operands : List Nat) : Nat :=
  match v with
  | .nan => nanBits fmt
  | .inf s => infBits fmt s
  | .zero s => zeroBits fmt s
  | .num y =>
    if y.m = 0 then zeroBits fmt (Config.zeroSign (fmt :: operands) = 1)
    else roundScaled (y.m < 0) y.m.natAbs 1 y.e fmt sat
  | .free => bits (Config.openResult (fmt :: operands)).toNat 0 (8 * fmtWidth fmt)

/-- The operands of an evaluation: the slot, the input, the table and the one that an EXP tail reads. -/
def evalOperands (z : Nat) (t expTab : Option FnTab) (x : W32) : List Nat :=
  z :: x.toNat :: (match t with
    | some t => t.words
    | none => []) ++ (match expTab with
    | some t => t.words
    | none => [])

/-- FP32 numbers in accumulator units; a pattern that is no number counts as 0 (log 28: DEDUCED). -/
def scoreUnits (x : W32) : Int :=
  match elemValue 0 x.toNat with
  | .num a _ => a
  | _ => 0

/-! ### Rules of a table image (R275, R276) -/

def fp32Finite (x : W32) : Bool := bits x.toNat 23 8 ≠ 255

/-- R4 and R275. -/
def tableOk (t : FnTab) : Bool :=
  t.at 184 72 = 0 && t.at 175 1 = 0 && t.mono ≠ 3 && t.ltail ≤ 2 && t.rtail ≤ 2 && t.red ≤ 5
    && -24 ≤ t.wexp && t.wexp ≤ 8
    && [t.lo, t.pre, t.psc, t.cl, t.cr].all fp32Finite
    && t.segs.all (fun s => fp32Finite s.1 && fp32Finite s.2.1 && fp32Finite s.2.2)
    && (dyOf t.pre).m ≠ 0
    && !(Dy.lt { m := 2 ^ 24 - 1, e := 104 } t.hi)
    && (t.red = 0 || t.sym = 0)
    && !((t.ltail = 2 || t.rtail = 2) && t.red ≠ 0)

/-- The value of segment i at offset t, in E40. -/
def segmentAt (t : FnTab) (i : Nat) (off : Dy) : Dy :=
  let c := t.segs.getD i (0, 0, 0)
  e40 ((dyOf c.1).add (e40 (off.mul (e40 ((dyOf c.2.1).add (e40 (off.mul (dyOf c.2.2))))))))

/-- A tail at the end x of the domain, in E40. -/
def tailAt (expTab : Option FnTab) (mode : Nat) (c : W32) (x : Dy) : Dy :=
  if mode = 0 then dyOf c
  else if mode = 1 then x
  else if x.m = 0 then { m := 1, e := 0 }
  else match expTab with
    | some e => match evalFinite e x false .free with
      | .num v => v
      | _ => .zero
    | none => .zero

/-- The sides of seam i: 0 is LO, 256 is HI, the others the segment boundaries. -/
def seamSides (t : FnTab) (expTab : Option FnTab) (i : Nat) : Dy × Dy :=
  let w : Dy := { m := 1, e := t.wexp }
  if i = 0 then (tailAt expTab t.ltail t.cl (dyOf t.lo), segmentAt t 0 .zero)
  else if i = 256 then (segmentAt t 255 w, tailAt expTab t.rtail t.cr t.hi)
  else (segmentAt t (i - 1) w, segmentAt t i .zero)

/-- The seams with a backward step, ascending, when MONO asks for the check (R276). -/
def backwardSeams (t : FnTab) (expTab : Option FnTab) : List Nat :=
  if t.mono = 0 then []
  else (upFrom 0 257).filter (fun i =>
    let s := seamSides t expTab i
    if t.mono = 1 then s.2.lt s.1 else s.1.lt s.2)

end Sys2Proof.Machine
end

