-- ==== Sys2Proof/Machine/Routing.lean ====
section
/-! DEFINITION. Expert routing and the gazetteer (R220 to R248): the issue of a ROUTE, logit chunks, TOKEN_SCORE, tiles,
GAZETTEER_LOOKUP, TILE_BLOCK_ACK, STAGING_SLOT_TAKE, cold fetches, the load tally, and the end of a ROUTE. -/
namespace Sys2Proof.Machine

/-! ### Layer entries (Table 8.1) -/

def lValid (e : Nat) : Bool := bit e 0
def lSoftmax (e : Nat) : Bool := bit e 46
def lTally (e : Nat) : Bool := bit e 47
def lRenorm (e : Nat) : Bool := bit e 48
def lLfmt (e : Nat) : Nat := bits e 49 2
def lKmin (e : Nat) : Nat := bits e 51 4 + 1
def lKmax (e : Nat) : Nat := bits e 55 4 + 1
def lTheta (e : Nat) : Nat := bits e 59 16
def lExperts (e : Nat) : Nat := bits e 75 12 + 1
def lGbase (e : Nat) : Nat := bits e 87 20
def lTclass (e : Nat) : Nat := bits e 107 4
def lTparcel (e : Nat) : Nat := bits e 111 17
def lCode (e : Nat) : Nat := bits e 128 64
def lLargs (e : Nat) : Nat := bits e 192 64

/-- Logits per chunk. -/
def lPerChunk (e : Nat) : Nat := if lLfmt e = 0 then 8 else 16

/-- R221 for an entry with VALID = 1; R4 alone for one with VALID = 0. -/
def layerOk (k : Cfg) (d : Dyn) (e : Nat) : Bool :=
  bits e 1 45 = 0 && lLfmt e ≠ 3 &&
  (!lValid e ||
    (lKmin e ≤ lKmax e && lKmax e ≤ lExperts e && bits (lTheta e) 10 5 ≠ 31
      && kindOn (lTclass e) kKernel && isParcelRef (lTparcel e) && refValid k d (lTparcel e)
      && (leafSet k d (lTparcel e)).any (fun l => k.present l && k.classOf l = lTclass e)
      && lGbase e + lExperts e ≤ 1048576))

def Route.e (r : Route) : Nat := r.layer.toNat

def Route.key (r : Route) (slot chan : Nat) : Bool := r.slot = slot && r.chan = chan

def getRoute (d : Dyn) (slot chan : Nat) : Option Route := d.rt.routes.find? (fun r => r.key slot chan)

def modRoute (d : Dyn) (slot chan : Nat) (f : Route → Route) : Dyn :=
  { d with rt := { d.rt with routes := mapIf (fun r => r.key slot chan) f d.rt.routes } }

/-! ### The gazetteer (Tables 8.5, 8.6) -/

def gValid (e : Nat) : Bool := bit e 0
def gTier (e : Nat) : Nat := bits e 1 3
def gKeep (e : Nat) : Bool := bit e 4
def gSize (e : Nat) : Nat := bits e 32 32
def gHot (e : Nat) : Nat := bits e 64 64
def gCold (e : Nat) : Nat := bits e 128 64
def gDigest (e : Nat) : Nat := bits e 192 64

def gSet (e tier hot : Nat) : Nat := setBits (setBits e 1 3 tier) 64 64 hot

/-- The cached entry of an expert. -/
def gazOf (d : Dyn) (idx : Nat) : Option Gaz := tget d.rt.gcache idx

def gazEntry (d : Dyn) (idx : Nat) : Nat :=
  match gazOf d idx with
  | some x => x.entry.toNat
  | none => 0

def modGaz (d : Dyn) (idx : Nat) (f : Gaz → Gaz) : Dyn := { d with rt := { d.rt with gcache := tmod d.rt.gcache idx f } }

/-- What is on its way of these entries is no longer what they are: it is not installed. -/
def gazSkip (d : Dyn) (p : Nat → Bool) : Dyn :=
  { d with bus := { d.bus with reads := d.bus.reads.map (fun j => match j.use with
    | .gazLine n lo hi => { j with use := .gazLine n (lo && !p (2 * n)) (hi && !p (2 * n + 1)) }
    | _ => j) } }

/-- A new TIER or HOT goes into the cache and back to HBM, USERS 0 there (R240). -/
def gazWrite (k : Cfg) (d : Dyn) (idx entry : Nat) : Dyn :=
  let d := gazSkip (modGaz d idx (fun x => { x with entry := w256 entry })) (· = idx)
  busWrite k d ((k.gazBase.toNat + 32 * idx) % p64) (leBytes 32 (setBits entry 16 16 0)) (.gazEntry idx)

def Gaz.inUse (x : Gaz) : Bool := 0 < x.use || gTier x.entry.toNat = 2

/-- An entry that must stay: in use, or looked up for a list that still holds records (R241, log 17: DESIGN CHOICE). -/
def gazHeld (d : Dyn) (idx : Nat) (x : Gaz) : Bool :=
  x.inUse || d.rt.routes.any (fun r => r.looked.contains idx)

/-- The entry is on its way. -/
def gazReading (d : Dyn) (idx : Nat) : Bool :=
  d.bus.reads.any (fun j => match j.use with
    | .gazLine n lo hi => n = idx / 2 && (if idx % 2 = 0 then lo else hi)
    | _ => false)

/-- Every way of the entry's set holds an entry that must stay. -/
def gazSetFull (d : Dyn) (idx : Nat) : Bool :=
  let set := d.rt.gcache.filter (fun e => e.1 % 4096 = idx % 4096)
  4 ≤ set.length && set.all (fun e => gazHeld d e.1 e.2)

/-- Reads the 64-byte line of an entry that the cache misses (R223, R241); with its set full of held entries it waits. -/
def gazRead (k : Cfg) (d : Dyn) (idx : Nat) : Dyn :=
  if (gazOf d idx).isSome || gazReading d idx || gazSetFull d idx then d
  else busRead k d ((k.gazBase.toNat + 64 * (idx / 2)) % p64) 64 (.gazLine (idx / 2) true true)

/-- Installs an entry read from HBM in its set of 4 ways; none when all four are held. -/
def gazFill (d : Dyn) (idx : Nat) (entry : W256) : Option Dyn :=
  let set := d.rt.gcache.filter (fun e => e.1 % 4096 = idx % 4096)
  let x : Gaz := { entry := w256 (setBits entry.toNat 16 16 0), use := 0 }
  if set.length < 4 then some { d with rt := { d.rt with gcache := tput d.rt.gcache idx x } }
  else match set.find? (fun e => !gazHeld d e.1 e.2) with
    | some v => some { d with rt := { d.rt with gcache := tput (tdel d.rt.gcache v.1) idx x } }
    | none => none

/-- A line of entries has come back: those that the cache does not hold are installed, as ways allow; after an error it is read again (Table
12.4). -/
def gazReturned (k : Cfg) (d : Dyn) (j : RdJob) (n : Nat) (lo hi : Bool) : Dyn :=
  let d := dropRead d j.use
  if j.err then busRead k d j.addr.toNat 64 (.gazLine n lo hi)
  else [(2 * n, lo), (2 * n + 1, hi)].foldl (fun d e =>
    if !e.2 || (gazOf d e.1).isSome then d
    else (gazFill d e.1 (w256 (leAt (j.data.getD []) (32 * (e.1 % 2)) 32))).getD d) d

/-! ### The end of a ROUTE (R246, R247) -/

/-- Candidates and waiting tiles on an expert, over every running ROUTE. -/
def waitingOn (d : Dyn) (idx : Nat) : List (Nat × Nat) :=
  (d.rt.routes.filter (fun r => r.tiles.any (fun t => t.st == .waiting && lGbase r.e + t.expert = idx))).map
    (fun r => (r.slot, r.chan))

/-- A started fetch that is not issued yet passes to another ROUTE that waits on it, or ends with its slot free. -/
def fetchDrop (k : Cfg) (d : Dyn) (idx : Nat) : Dyn :=
  match waitingOn d idx with
  | (s, c) :: _ => { d with rt := { d.rt with fetchWait := d.rt.fetchWait ++ [(s, c, idx)] } }
  | [] =>
    let d := modGaz d idx (fun x => { x with use := x.use - 1 })
    let d := gazWrite k d idx (gSet (gazEntry d idx) 1 0)
    { d with rt := { d.rt with stages := d.rt.stages.filter (fun s => s.2.idx ≠ idx) } }

/-- A ROUTE leaves the engine: key, slot and buffers are free, unissued tiles are discarded (R246, R247). -/
def routeRemove (k : Cfg) (d : Dyn) (r : Route) : Dyn :=
  let mine := d.rt.fetchWait.filter (fun f => f.1 = r.slot && f.2.1 = r.chan)
  let d := { d with rt := { d.rt with routes := d.rt.routes.filter (fun x => !x.key r.slot r.chan),
                                      fetchWait := d.rt.fetchWait.filter (fun f => !(f.1 = r.slot && f.2.1 = r.chan)) } }
  let tileOf (t : Task) : Bool := t.slot = r.slot && (match t.kind with
    | .tile c _ _ => c = r.chan
    | _ => false)
  let d := { d with dp := { d.dp with tasks := mapIf tileOf (fun t => { t with ended := true }) d.dp.tasks } }
  let d := (r.tiles.filter (fun t => t.st ≠ .issued)).foldl
    (fun d t => modGaz d (lGbase r.e + t.expert) (fun x => { x with use := x.use - 1 })) d
  mine.foldl (fun d f => fetchDrop k d f.2.2) d

/-- A running ROUTE fails with a status. -/
def routeFail (k : Cfg) (d : Dyn) (slot chan : Nat) (st : Status) : Dyn :=
  match getRoute d slot chan with
  | none => d
  | some r => internalEnd (routeRemove k d r) slot r.g st

/-- R246: everything of the ROUTE has happened. -/
def Route.ended (r : Route) : Bool :=
  r.scored0 + r.scored1 = r.batch && r.rowsOut = 0 && r.tiles.isEmpty && r.lists.isEmpty && r.tallyLeft.isEmpty

def routeCheck (k : Cfg) (d : Dyn) (slot chan : Nat) : Dyn :=
  match getRoute d slot chan with
  | none => d
  | some r => if r.ended then internalEnd (routeRemove k d r) slot r.g .ok else d

/-! ### Tiles (R232 to R235, R241, R243) -/

def half0 (batch : Nat) : Nat := (batch + 1) / 2

def Route.blockAddr (r : Route) (j : Nat) : Nat := (r.outBase.toNat + 128 * r.batch + j * (64 + 8 * r.tile)) % p64

/-- The tile block (Table 8.4). -/
def tileBlock (r : Route) (t : Tile) (gaz : Nat) : List Byte :=
  leBytes 64 (r.tokBase.toNat + gHot gaz * 2 ^ 64 + gSize gaz * 2 ^ 128 + t.recs.length * 2 ^ 160 + lLargs r.e * 2 ^ 192
      + gDigest gaz * 2 ^ 256 + t.expert * 2 ^ 320 + t.half * 2 ^ 336 + (lGbase r.e + t.expert) * 2 ^ 352
      + r.outBase.toNat * 2 ^ 384)
    ++ t.recs.flatMap (fun x => leBytes 8 x.toNat)

def modTile (d : Dyn) (slot chan j : Nat) (f : Tile → Tile) : Dyn :=
  modRoute d slot chan (fun r => { r with tiles := mapIf (fun t => t.j = j) f r.tiles })

/-- Writes a tile's block. -/
def tileWrite (k : Cfg) (d : Dyn) (r : Route) (t : Tile) : Dyn :=
  let d := modTile d r.slot r.chan t.j (fun t => { t with st := .writing })
  busWrite k d (r.blockAddr t.j) (tileBlock r t (gazEntry d (lGbase r.e + t.expert))) (.tile r.slot r.chan t.j)

/-- Writes the blocks of the tiles that waited for an expert. -/
def releaseTiles (k : Cfg) (d : Dyn) (idx : Nat) : Dyn :=
  d.rt.routes.foldl (fun d r =>
    (r.tiles.filter (fun t => t.st == .waiting && lGbase r.e + t.expert = idx)).foldl (fun d t => tileWrite k d r t) d) d

/-- Closes a tile of `n` records of list `key` of a ROUTE. -/
def closeTile (k : Cfg) (d : Dyn) (slot chan key n : Nat) : Dyn :=
  match getRoute d slot chan with
  | none => d
  | some r =>
    let l := tgetD r.lists key []
    let idx := lGbase r.e + key / 2
    let t : Tile := { j := r.nextTile, expert := key / 2, half := key % 2, recs := l.take n, st := .waiting, age := 0 }
    let d := modGaz d idx (fun x => { x with use := x.use + 1 })
    let d := modRoute d slot chan (fun r =>
      { r with lists := tset r.lists key (l.drop n) [], tiles := r.tiles ++ [t], nextTile := r.nextTile + 1 })
    let tier := gTier (gazEntry d idx)
    if tier = 0 || tier = 3 then tileWrite k d r t else d

/-- The number of records the next tile of a list has, when it closes now (R232). -/
def closable (r : Route) (key : Nat) : Option Nat :=
  let n := (tgetD r.lists key []).length
  let halfDone := if key % 2 = 0 then r.scored0 = half0 r.batch else r.scored1 = r.batch - half0 r.batch
  if !r.looked.contains (lGbase r.e + key / 2) then none
  else if r.tile ≤ n then some r.tile
  else if halfDone && 0 < n then some n
  else none

/-- Closes every tile that can close, lists in ascending expert and half. -/
def closeReadyN : Nat → Cfg → Dyn → Nat → Nat → Dyn
  | 0, _, d, _, _ => d
  | n + 1, k, d, slot, chan =>
    match getRoute d slot chan with
    | none => d
    | some r =>
      match (tkeys r.lists).find? (fun key => (closable r key).isSome) with
      | none => d
      | some key => closeReadyN n k (closeTile k d slot chan key ((closable r key).getD 0)) slot chan

def closeReady (k : Cfg) (d : Dyn) (slot chan : Nat) : Dyn :=
  match getRoute d slot chan with
  | none => d
  | some r =>
    let d := closeReadyN (listSum (r.lists.map (fun l => l.2.length)) + 1) k d slot chan
    modRoute d slot chan (fun r => { r with looked := r.looked.filter (fun i =>
      r.lists.any (fun l => lGbase r.e + l.1 / 2 = i)) })

/-- A tile list of the ROUTE needs the lookup of this entry. -/
def Route.needs (r : Route) (idx : Nat) : Bool := r.lists.any (fun l => lGbase r.e + l.1 / 2 = idx)

/-- A lookup in the gazetteer: on a hit the lists that waited for it may close; an entry that is not there is read first (R241). -/
def gazetteerLookup (idx : Nat) (k : Cfg) (d : Dyn) : Dyn :=
  let rs := d.rt.routes.filter (fun r => r.needs idx)
  if rs.isEmpty then d
  else match gazOf d idx with
    | none => gazRead k d idx
    | some x =>
      if !gValid x.entry.toNat then rs.foldl (fun d r => routeFail k d r.slot r.chan .noRoute) d
      else rs.foldl (fun d r =>
        let d := modRoute d r.slot r.chan (fun r => { r with looked := if r.looked.contains idx then r.looked else idx :: r.looked })
        closeReady k d r.slot r.chan) d

/-- A tile's block write is acknowledged: the tile is a candidate, its age now (R233, R235). -/
def tileBlockAck (slot chan j : Nat) (d : Dyn) : Dyn :=
  let d := modTile d slot chan j (fun t => if t.st == .writing then { t with st := .acked, age := d.dp.age } else t)
  { d with dp := { d.dp with age := d.dp.age + 1 } }

/-- A selection row's write is acknowledged. -/
def selRowAck (k : Cfg) (d : Dyn) (slot chan : Nat) : Dyn :=
  routeCheck k (modRoute d slot chan (fun r => { r with rowsOut := r.rowsOut - 1 })) slot chan

/-- A tile's completion report: USERS falls; a status other than OK fails the ROUTE (R241, R247). -/
def tileReleased (k : Cfg) (d : Dyn) (slot chan j idx : Nat) (st : Status) : Dyn :=
  let d := modGaz d idx (fun x => { x with use := x.use - 1 })
  let d := modRoute d slot chan (fun r => { r with tiles := r.tiles.filter (fun t => !(t.j = j && t.st == .issued)) })
  if st = .ok then routeCheck k d slot chan else routeFail k d slot chan st

/-! ### Staging and cold fetches (R242 to R245) -/

def stageSlots (k : Cfg) : Nat := if k.stageSlot = 0 then 0 else min 4096 (k.stageSize.toNat / k.stageSlot.toNat)

/-- The slot R243 chooses: a free one, else the evictable one whose last tile was committed earliest. -/
def stageChoice (k : Cfg) (d : Dyn) : Option Nat :=
  match firstFree (stageSlots k) 0 (tkeys d.rt.stages) with
  | some i => some i
  | none =>
    let free (e : Nat × Stage) : Bool :=
      !gKeep e.2.entry.toNat && (match gazOf d e.2.idx with
        | some x => !x.inUse
        | none => true)
    (minBy (fun e => e.2.last) (d.rt.stages.filter free)).map (·.1)

/-- A fetch fails: COLD again, the slot free, a record, and every ROUTE that waits on it fails. -/
def fetchFail (k : Cfg) (d : Dyn) (idx unit status : Nat) (leaf : Option Nat) (owner : Option Nat) : Dyn :=
  let rs := waitingOn d idx
  let d := modGaz d idx (fun x => { x with use := x.use - 1 })
  let d := gazWrite k d idx (gSet (gazEntry d idx) 1 0)
  let d := { d with rt := { d.rt with stages := d.rt.stages.filter (fun s => s.2.idx ≠ idx) } }
  let ctx := owner.bind (fun s => (tget d.ls.slots s).map (fun l => l.id.c))
  let d := fault k d { frec 0x11 .coldFetchFail unit with
    ctx := ctx, launch := owner, eng := leaf.map leafSlot, detail := w64 (idx + status * 2 ^ 24) }
  rs.foldl (fun d r => routeFail k d r.1 r.2 .coldFetchFail) d

/-- The instance has an engine of DMA class. -/
def hasDma (k : Cfg) : Bool := k.allLeaves.any (fun l => k.classOf l = 5)

/-- Takes a staging slot for a COLD expert that a closed tile needs, and synthesises its COLDFETCH; with no DMA engine in the
instance the fetch fails at once, which waits for its record's place (R243, R245, Table 12.12; log 109: DESIGN CHOICE). -/
def stagingSlotTake (idx : Nat) (k : Cfg) (d : Dyn) : Dyn :=
  match waitingOn d idx, stageChoice k d with
  | (s, c) :: _, some i =>
    if gTier (gazEntry d idx) ≠ 1 || (!hasDma k && summaryFull d) then d
    else
      let d := match tget d.rt.stages i with
        | none => d
        | some old => gazWrite k d old.idx (gSet old.entry.toNat 1 0)
      let hot := (k.stageBase.toNat + i * k.stageSlot.toNat) % p64
      let e := gSet (gazEntry d idx) 2 hot
      let d := modGaz d idx (fun x => { x with use := x.use + 1 })
      let d := gazWrite k d idx e
      let st : Stage := { idx := idx, entry := w256 e, last := d.rt.clock }
      let d := { d with rt := { d.rt with stages := tput d.rt.stages i st, clock := d.rt.clock + 1 } }
      if !hasDma k then fetchFail k d idx (rootUnit 5) 0 none (some s)
      else { d with rt := { d.rt with fetchWait := d.rt.fetchWait ++ [(s, c, idx)] } }
  | _, _ => d

/-- A COLDFETCH is released on a leaf with a status and a digest (R245). -/
def fetchDone (k : Cfg) (d : Dyn) (slot idx leaf : Nat) (st : Status) (digest : Nat) : Dyn :=
  let e := gazEntry d idx
  if st = .ok && digest = gDigest e then
    let e := gSet e 3 (gHot e)
    let d := modGaz d idx (fun x => { x with use := x.use - 1 })
    let d := gazWrite k d idx e
    let stages := mapIf (fun s => s.2.idx = idx) (fun s => (s.1, { s.2 with entry := w256 e })) d.rt.stages
    releaseTiles k { d with rt := { d.rt with stages := stages } } idx
  else fetchFail k d idx (unitOf leaf) st.code (some leaf) (some slot)

/-- A tile of expert `idx` is committed to a leaf: the newest holder, and the last use of a staged expert (R237, R243). -/
def tileCommitted (d : Dyn) (idx leaf : Nat) : Dyn :=
  let hs := match tget d.rt.holders (idx % 4096) with
    | some x => if x.1 = idx then x.2 else []
    | none => []
  let hs := (leaf :: hs.filter (· ≠ leaf)).take 4
  let stages := mapIf (fun s => s.2.idx = idx) (fun s => (s.1, { s.2 with last := d.rt.clock })) d.rt.stages
  { d with rt := { d.rt with holders := tput d.rt.holders (idx % 4096) (idx, hs), stages := stages,
                             clock := d.rt.clock + 1 } }

def holdersOf (d : Dyn) (idx : Nat) : List Nat :=
  match tget d.rt.holders (idx % 4096) with
  | some x => if x.1 = idx then x.2 else []
  | none => []

/-! ### Load tally (R238) -/

def tallyQueue (r : Route) (j : Nat) : Nat := r.combq + 8 * j / 64

/-- Tally token `j` of a ROUTE; its source is the routing engine's endpoint, for the ROUTE's context. -/
def tallyTok (k : Cfg) (d : Dyn) (r : Route) (j : Nat) : Tok :=
  let n := min 8 (lExperts r.e - 8 * j)
  let pay := (upFrom 0 n).foldl (fun s i => s + (tgetD r.counts (8 * j + i) 0) % p32 * 2 ^ (32 * i)) 0
  let q := tallyQueue r j
  let c := ((tget d.ls.slots r.slot).map (fun l => l.id.c)).getD 0
  { hdr := mkHdr k.boot.chipId (combRef q) (q % 8) (8 * j % 64) (4 * n) 5 false,
    src := mkSrc k.boot.chipId (mkLeaf 0 0xF8 0) c 0 0, payload := w256 pay, ddig := w64 (tokDigest 5 (4 * n) pay),
    sender := .tally r.slot r.chan j }

/-- A tally token to a queue is in flight: the pair is busy (R187). -/
def tallyBusy (d : Dyn) (q : Nat) : Bool :=
  let mine (t : Tok) : Bool := combQueue (hDest t.hdr) (hQ t.hdr) = q && (match t.sender with
    | .tally _ _ _ => true
    | _ => false)
  d.tk.flight.any mine || d.tk.acks.any (fun a => mine a.tok)

/-- Sends the tally tokens whose pair is free. -/
def sendTally (k : Cfg) (d : Dyn) (slot chan : Nat) : Dyn :=
  match getRoute d slot chan with
  | none => d
  | some r =>
    (r.tallyLeft.filter (fun j => !r.tallyOut.contains j)).foldl (fun d j =>
      if tallyBusy d (tallyQueue r j) then d
      else
        let d := modRoute d slot chan (fun r => { r with tallyOut := r.tallyOut ++ [j] })
        { d with tk := { d.tk with flight := d.tk.flight ++ [tallyTok k d r j] } }) d

/-- Every ROUTE sends what it has left and its pairs allow. -/
def sendTallies (k : Cfg) (d : Dyn) : Dyn := d.rt.routes.foldl (fun d r => sendTally k d r.slot r.chan) d

/-- What a tally token's acknowledgement does to its ROUTE. -/
def tallyResult (k : Cfg) (d : Dyn) (slot chan j : Nat) (st : Status) : Dyn :=
  match getRoute d slot chan with
  | none => d
  | some r =>
    if !r.tallyOut.contains j then d
    else
      let t := tallyTok k d r j
      let ctx := (tget d.ls.slots slot).map (fun l => l.id.c)
      let c := stallCheck k d (2 ^ 18) t.hdr st { stallRec (rootUnit 5) t.hdr with ctx := ctx, launch := some slot, node := some r.g }
      let d := match c.2.1 with
        | some x => fault k c.2.2 x
        | none => c.2.2
      let d := modRoute d slot chan (fun r => { r with tallyOut := r.tallyOut.filter (· ≠ j) })
      if st = .ok then
        let d := modRoute d slot chan (fun r => { r with tallyLeft := r.tallyLeft.filter (· ≠ j) })
        routeCheck k d slot chan
      else if c.1 = .full then d
      else routeFail k d slot chan c.1

/-- A tally token's acknowledgement has come back: the pair is free for every ROUTE's next count. -/
def tallyAcked (k : Cfg) (d : Dyn) (slot chan j : Nat) (st : Status) : Dyn := sendTallies k (tallyResult k d slot chan j st)

/-! ### Logits (R225, R226) -/

/-- A chunk that ends at the routing intake is decided; one that is no chunk of its ROUTE fails it (R226, R247; log 110: DEDUCED). -/
def chunkDecide (k : Cfg) (d : Dyn) (t : Tok) : Status × Dyn :=
  let slot := sLaunch t.src
  let chan := hQ t.hdr
  if (tget d.ls.slots slot).any (fun l => l.failed.isSome) then (.closed, d)
  else match getRoute d slot chan with
    | none => (.full, d)
    | some r =>
      let c := leafSlot (hDest t.hdr) * 65536 + hTag t.hdr
      let L := lPerChunk r.e
      let E := lExperts r.e
      let total := r.batch * E
      let w := fmtWidth (lLfmt r.e)
      let n := min L (total - c * L)
      let toks := ((upFrom (c * L) n).map (fun f => f / E)).eraseDups
      let fresh := toks.filter (fun x => (tget r.bufs x).isNone)
      let used := listSum (d.rt.routes.map (fun x => x.bufs.length * lExperts x.e))
      if 32768 < used + fresh.length * E then (.full, d)
      else if total ≤ c * L || r.chunks.contains c || hLen t.hdr ≠ n * w then (.badDescriptor, routeFail k d slot chan .badDescriptor)
      else
        let put (b : Tab (Tab W32)) (i : Nat) : Tab (Tab W32) :=
          let f := c * L + i
          tput b (f / E) (tput (tgetD b (f / E) []) (f % E) (w32 (toFp32 (lLfmt r.e) (bits t.payload.toNat (8 * w * i) (8 * w)))))
        let bufs := (upFrom 0 n).foldl put r.bufs
        let done := toks.filter (fun x => (tgetD bufs x []).length = E)
        (.ok, modRoute d slot chan (fun r => { r with bufs := bufs, chunks := c :: r.chunks, complete := r.complete ++ done }))

/-! ### Scoring and selection (R228 to R231) -/

/-- The table in force of a slot. -/
def tableNow (d : Dyn) (z : Nat) : Option FnTab := (tget d.sf.slots z).bind (fun s => if s.cur then s.b else s.a)

/-- A vendor slot's FP32 result, by the tables in force. -/
def vendorFp32 (d : Dyn) (z : Nat) (x : W32) : W32 :=
  let v := match tableNow d z with
    | some t => evalSlot z t (tableNow d 0) x
    | none => .free
  w32 (v.encode 0 false (evalOperands z (tableNow d z) (tableNow d 0) x))

/-- The scores of a token's experts; none is a logit that fails the ROUTE. The quotient by a sum of 0, which the rules do not give, is a
free value of the logits and the table (log 16: DESIGN CHOICE). -/
def scores (d : Dyn) (softmax : Bool) (x : List W32) : Option (List (Option W32)) :=
  let vals := x.map (fun w => elemValue 0 w.toNat)
  if vals.any (fun v => v = .nan || v = .inf false) then none
  else if !softmax then
    some (x.map (fun w => if elemValue 0 w.toNat = .inf true then none else some (vendorFp32 d 7 w)))
  else
    let nums := vals.filterMap (fun v => match v with
      | .num a _ => some a
      | _ => none)
    let m := nums.foldl max (nums.headD 0)
    let u := vals.map (fun v => match v with
      | .num a _ => some (vendorFp32 d 0 (w32 (roundSum (a - m) 0 false)))
      | _ => none)
    let s := (u.map (fun o => match o with
      | some w => scoreUnits w
      | none => 0)).foldl (· + ·) 0
    let quot (w : W32) (k : Nat) : W32 :=
      if s = 0 then w32 (Config.openResult (k :: x.map BitVec.toNat ++ evalOperands 0 (tableNow d 0) none 0)).toNat
      else w32 (roundFrac (Frac.div { n := scoreUnits w, d := 1 } { n := s, d := 1 }) 0 false)
    some (u.zipIdx.map (fun o => o.1.map (fun w => quot w o.2)))

/-- `select` of R229 over (expert, score) of the unmasked experts. -/
def selectExperts (cand : List (Nat × W32)) (theta : Int) (kmin kmax : Nat) : List (Nat × W32) :=
  let le (a b : Nat × W32) : Bool :=
    scoreUnits b.2 < scoreUnits a.2 || (scoreUnits a.2 = scoreUnits b.2 && a.1 ≤ b.1)
  let c := (isort le (cand.filter (fun e => theta ≤ scoreUnits e.2))).take kmax
  let u := isort le (cand.filter (fun e => scoreUnits e.2 < theta))
  isort le (c ++ u.take (kmin - c.length))

/-- The records of a chosen list (R230, Table 8.3). A gate of 0 by a sum of 0 is a free value of the list (R248; log 16: DESIGN CHOICE). -/
def tokenRecords (renorm : Bool) (t : Nat) (sel : List (Nat × W32)) : List (Nat × W64) :=
  let sum := (sel.map (fun e => scoreUnits e.2)).foldl (· + ·) 0
  let gate (e : Nat × W32) : Nat :=
    if !renorm then e.2.toNat
    else if sum = 0 then bits (Config.openResult (e.1 :: sel.flatMap (fun x => [x.1, x.2.toNat]))).toNat 0 32
    else roundFrac (Frac.div { n := scoreUnits e.2, d := 1 } { n := sum, d := 1 }) 0 false
  ((upFrom 0 sel.length).zip sel).map (fun e =>
    (e.2.1, w64 (gate e.2 * 2 ^ 32 + t * 2 ^ 16 + e.1 * 2 ^ 12 + e.2.1)))

/-- The routing engine scores the first complete token of a ROUTE: its selection row is written, its records enter the tile
lists, tiles close, and after the last token the tally leaves (R228 to R232, R238). -/
def tokenScore (slot chan : Nat) (k : Cfg) (d : Dyn) : Dyn :=
  match getRoute d slot chan with
  | none => d
  | some r =>
    match r.complete with
    | [] => d
    | t :: rest =>
      let x := tvals (tgetD r.bufs t [])
      match scores d (lSoftmax r.e) x with
      | none => routeFail k d slot chan .badDescriptor
      | some ss =>
        let cand := ((upFrom 0 ss.length).zip ss).filterMap (fun e => e.2.map (fun s => (e.1, s)))
        let theta := match elemValue 2 (lTheta r.e) with
          | .num a _ => a
          | _ => 0
        let recs := tokenRecords (lRenorm r.e) t (selectExperts cand theta (lKmin r.e) (lKmax r.e))
        let row := (recs.map (fun e => e.2.toNat)) ++ List.replicate (16 - recs.length) (2 ^ 64 - 1)
        let half := if t < half0 r.batch then 0 else 1
        let lists := recs.foldl (fun l e =>
          let key := 2 * e.1 + half
          tput l key (tgetD l key [] ++ [e.2])) r.lists
        let counts := if lTally r.e then recs.foldl (fun c e => tput c e.1 (tgetD c e.1 0 + 1)) r.counts else r.counts
        let d := modRoute d slot chan (fun r =>
          { r with complete := rest, bufs := tdel r.bufs t, rowsOut := r.rowsOut + 1, lists := lists, counts := counts,
                   scored0 := r.scored0 + (1 - half), scored1 := r.scored1 + half })
        let d := busWrite k d ((r.outBase.toNat + 128 * t) % p64) (row.flatMap (leBytes 8)) (.selRow slot chan)
        let d := recs.foldl (fun d e => gazRead k d (lGbase r.e + e.1)) d
        let d := closeReady k d slot chan
        if r.scored0 + r.scored1 + 1 = r.batch && lTally r.e then
          let d := modRoute d slot chan (fun r => { r with tallyLeft := upFrom 0 ((lExperts r.e + 7) / 8) })
          sendTally k d slot chan
        else d

/-! ### Issue (R222 to R224) -/

/-- R223: a ROUTE in the ready list is free for issue. -/
def routeFree (d : Dyn) (slot : Nat) (x : Desc) : Bool :=
  d.rt.routes.length < 16 && (getRoute d slot (x.b 0 16 % 8)).isNone

/-- R224: the checks at issue. -/
def routeIssueOk (e batch combq : Nat) : Bool :=
  let L := lPerChunk e
  lValid e && (batch * lExperts e + L - 1) / L ≤ 1048576
    && (if lTally e then combq + (lExperts e + 63) / 64 - 1 ≤ 1023 else combq = 0)

/-- A ROUTE is issued; its task exists already. The reads of its layer's gazetteer entries begin (R223). -/
def routeIssue (k : Cfg) (d : Dyn) (slot g : Nat) (x : Desc) : Dyn :=
  let e := tgetD d.rt.layers (x.b 0 16) 0
  let batch := x.b 16 16
  if !routeIssueOk e.toNat batch (x.b 192 10) then internalEnd d slot g .badDescriptor
  else if batch = 0 then internalEnd d slot g .ok
  else
    let r : Route :=
      { slot := slot, chan := x.b 0 16 % 8, g := g, layer := e, batch := batch, tile := x.b 32 9,
        outBase := w64 (x.b 128 64), tokBase := w64 (x.b 64 64), combq := x.b 192 10, chunks := [], bufs := [],
        complete := [], scored0 := 0, scored1 := 0, rowsOut := 0, lists := [], looked := [], tiles := [],
        nextTile := 0, counts := [], tallyLeft := [], tallyOut := [] }
    (upFrom (lGbase r.e) (lExperts r.e)).foldl (fun d i => gazRead k d i) { d with rt := { d.rt with routes := d.rt.routes ++ [r] } }

/-- The ROUTEs whose node has timed out or whose launch has failed are abandoned (R247). -/
def reapRoutes (k : Cfg) (d : Dyn) : Dyn :=
  d.rt.routes.foldl (fun d r =>
    let n := getNode d r.g
    if n.st.terminal || n.launch ≠ r.slot then internalEnd (routeRemove k d r) r.slot r.g .cancelled
    else if !launchOk d r.slot then routeFail k d r.slot r.chan .cancelled
    else d) d

end Sys2Proof.Machine
end

