-- ==== Sys2Proof/Machine/Sfu.lean ====
section
/-! DEFINITION. The statistics and function unit (R250 to R267): STAT tasks with STAT_CONTROL_BLOCK, ROW_FINISH and STAT_END,
and evaluation requests with EVAL_RESULT. -/
namespace Sys2Proof.Machine

/-! ### STAT control block and components (R253 to R256) -/

def bEps (b : Nat) : W32 := w32 (bits b 0 32)
def bNconst (b : Nat) : Nat := bits b 32 32
def bOutfmt (b : Nat) : Nat := bits b 64 8
def bSat (b : Nat) : Bool := bit b 72
def bCq (b j : Nat) : Nat := bits b (80 + 16 * j) 10

/-- The queue OP of each component of a finish (Table 9.3): 0 SUM, 1 MAX. -/
def components (finish nconst : Nat) : List Nat :=
  let n := if nconst = 0 then [0] else []
  match finish with
  | 0 => [0]
  | 1 => [1]
  | 2 => [0]
  | 3 => [0] ++ n
  | 4 => [0, 0] ++ n
  | 5 => [0] ++ n
  | _ => [1, 0]

def Stat.nq (s : Stat) : Nat := (s.rows + 63) / 64

def Stat.b (s : Stat) : Nat :=
  match s.block with
  | some b => b.toNat
  | none => 0

def Stat.comps (s : Stat) : List Nat := components s.finish (bNconst s.b)

/-- First queue of component j. -/
def Stat.cq (s : Stat) (j : Nat) : Nat := if j = 0 then s.combq else bCq s.b j

/-- Where a tag of a queue falls in the STAT's run: its rows and components, of which the runs may overlap. Before its control block is read
only component 0 is known. -/
def Stat.places (s : Stat) (q tag : Nat) : List (Nat × Nat) :=
  let js := if s.block.isSome then upFrom 0 s.comps.length else [0]
  (js.filter (fun j => s.cq j ≤ q && q < s.cq j + s.nq && 64 * (q - s.cq j) + tag < s.rows && tag < 64)).map
    (fun j => (64 * (q - s.cq j) + tag, j))

/-- The places of a tag that the STAT has yet to consume; each takes one instance of the tag, the lowest component first (R257; log 112:
DESIGN CHOICE). -/
def Stat.open (s : Stat) (q tag : Nat) : List (Nat × Nat) := (s.places q tag).filter (fun p => (tget s.got (3 * p.1 + p.2)).isNone)

/-- One queue of a component's run, as it stood at the issue (R256). -/
def statQueueOk (s : Stat) (op q : Nat) : Bool :=
  let e := (tgetD s.qs q 0).toNat
  qValid e && qDeliver e = 2 && qOp e = op && qOutfmt e = (if op = 0 then 6 else 0)

/-- R4 and R256. -/
def statBlockOk (s : Stat) (b : Nat) : Bool :=
  let comps := components s.finish (bNconst b)
  let first (j : Nat) : Nat := if j = 0 then s.combq else bCq b j
  bits b 80 16 = 0 && bits b 128 128 = 0 && bits b 73 7 = 0 && bits b 106 6 = 0 && bits b 122 6 = 0
    && bOutfmt b ≤ 5 && fp32Finite (bEps b) && !(bit (bEps b).toNat 31 && bits (bEps b).toNat 0 31 ≠ 0)
    && !(bOutfmt b = 5 && s.finish ≠ 0 && s.finish ≠ 2)
    && !(bNconst b ≠ 0 && (s.finish ≤ 2 || s.finish = 6))
    && (upFrom 1 2).all (fun j => j < comps.length || bits b (80 + 16 * j) 16 = 0)
    && ((upFrom 0 comps.length).zip comps).all (fun c =>
        first c.1 + s.nq ≤ 1024 && (upFrom (first c.1) s.nq).all (statQueueOk s c.2))
    && (!s.rms || s.finish = 5)

/-! ### Running a STAT -/

def getStat (d : Dyn) (g : Nat) : Option Stat := d.sf.stats.find? (fun s => s.g = g)

def modStat (d : Dyn) (slot g : Nat) (f : Stat → Stat) : Dyn :=
  { d with sf := { d.sf with stats := mapIf (fun s => s.slot = slot && s.g = g) f d.sf.stats } }

def statRemove (d : Dyn) (s : Stat) : Dyn :=
  dropRead { d with sf := { d.sf with stats := d.sf.stats.filter (fun x => !(x.slot = s.slot && x.g = s.g)) } }
    (.statBlock s.slot s.g)

/-- The tags of a run that its STAT has not consumed become orphans, whatever their queue's DELIVER: the first instance of each for each
place; one that has closed is freed and counted at once (R261). -/
def orphanTags (d : Dyn) (s : Stat) : Dyn :=
  let r := d.cb.tags.foldl (fun (acc : List Tag × Nat × List (Nat × Nat)) t =>
    if acc.2.2.count (t.q, t.tag) < (s.open t.q t.tag).length then
      if !t.isOpen then (acc.1, acc.2.1 + 1, (t.q, t.tag) :: acc.2.2)
      else (acc.1 ++ [{ t with orphan := true }], acc.2.1, (t.q, t.tag) :: acc.2.2)
    else (acc.1 ++ [t], acc.2.1, acc.2.2)) (([] : List Tag), 0, ([] : List (Nat × Nat)))
  count { d with cb := { d.cb with tags := r.1 } } cStatOrph r.2.1

/-- A running STAT fails: it stops, its unconsumed tags are orphaned, its node ends. -/
def statFail (d : Dyn) (s : Stat) (st : Status) : Dyn := internalEnd (orphanTags (statRemove d s) s) s.slot s.g st

/-- R252. -/
def statFree (d : Dyn) : Bool := d.sf.stats.length < 64

/-- The banks in force of every slot, as a mask. -/
def banksNow (d : Dyn) : W32 := w32 (listSum ((d.sf.slots.filter (fun s => s.2.cur)).map (fun s => 2 ^ s.1)))

/-- A STAT is issued; its task exists already (R252, R260, R263). -/
def statIssue (k : Cfg) (d : Dyn) (slot g c : Nat) (x : Desc) : Dyn :=
  if x.b 128 32 = 0 then internalEnd d slot g .ok
  else
    let s : Stat :=
      { slot := slot, g := g, rows := x.b 128 32, dst := w64 (x.b 64 64), finish := x.b 16 4, rms := x.b 20 1 = 1,
        fast := x.b 20 1 = 1 && bit k.rmsCtx.toNat c,
        combq := x.b 0 10, qs := d.cb.queues, block := none, got := [], ready := [], finished := 0, writesOut := 0,
        banks := banksNow d }
    let d := if s.rms && !s.fast then count d cRmsDeny 1 else d
    busRead k { d with sf := { d.sf with stats := d.sf.stats ++ [s] } } s.dst.toNat 32 (.statBlock slot g)

/-- The control block of a STAT has been read: it is checked. -/
def statControlBlock (g : Nat) (_k : Cfg) (d : Dyn) : Dyn :=
  match getStat d g with
  | none => d
  | some s =>
    match readDone d (.statBlock s.slot g) with
    | none => d
    | some j =>
      let d := dropRead d (.statBlock s.slot g)
      let b := leAt (j.data.getD []) 0 32
      if j.err then statFail d s .eccUncorr
      else if !statBlockOk s b then statFail d { s with block := some (w256 b) } .badDescriptor
      else modStat d s.slot g (fun s => { s with block := some (w256 b) })

/-- What a component gives: its value and its flags, or for a MAX component its FP32 pattern. -/
def consumed (d : Dyn) (t : Tag) : Int × Nat × Bool × Status :=
  let e := qEntry d t.q
  (t.a, if qOp e = 0 then t.flags else encodeElem (t.value e) 0 false, t.remote, t.status)

/-- The first running STAT in issue order that has yet to consume this tag, or whose control block, which may name it, is not read yet (R257). -/
def consumer (d : Dyn) (t : Tag) : Option Stat :=
  d.sf.stats.find? (fun s => !(s.open t.q t.tag).isEmpty || (s.block.isNone && 3 ≤ s.finish))

/-- A STAT consumes the held tags that are its own, in the order in which they closed; the row of the last one is ready. -/
def consumeAll (d : Dyn) (slot g : Nat) : Dyn :=
  d.cb.tags.foldl (fun d t =>
    if t.st ≠ .held then d
    else match consumer d t with
      | none => d
      | some s =>
        if s.slot ≠ slot || s.g ≠ g || s.block.isNone then d
        else match s.open t.q t.tag with
          | [] => d
          | p :: _ =>
            let got := tput s.got (3 * p.1 + p.2) (consumed d t)
            let full := (upFrom 0 s.comps.length).all (fun j => (tget got (3 * p.1 + j)).isSome)
            let d := dropTag d t.q t.tag (· == .held)
            modStat d slot g (fun s => { s with got := got, ready := if full then s.ready ++ [p.1] else s.ready })) d

/-! ### Finished values (R258, R259) -/

/-- A SUM component: its value with the flags of R205. -/
def sumElem (a : Int) (flags : Nat) : Elem :=
  if bit flags 0 || (bit flags 1 && bit flags 2) then .nan
  else if bit flags 1 then .inf false
  else if bit flags 2 then .inf true
  else .num a (if a = 0 then bit flags 3 else a < 0)

def Stat.bank (s : Stat) (d : Dyn) (z : Nat) : Option FnTab :=
  (tget d.sf.slots z).bind (fun x => if bit s.banks.toNat z then x.b else x.a)

/-- A vendor function at an FP32 argument, with the operands of what the spec leaves open there. -/
def Stat.fn (s : Stat) (d : Dyn) (z : Nat) (x : W32) : FVal × List Nat :=
  (match s.bank d z with
    | some t => evalSlot z t (s.bank d 0) x
    | none => .free,
   evalOperands z (s.bank d z) (s.bank d 0) x)

/-- RSQRT of an exact value (R258, R259). -/
def Stat.rsqrt (s : Stat) (d : Dyn) (v : Frac) : FVal × List Nat :=
  if v.n < 0 then (.nan, [])
  else if v.n = 0 then (.inf false, [])
  else s.fn d 6 (w32 (roundFrac v 0 false))

def fracFVal (v : Frac) (fmt : Nat) (sat : Bool) : Nat := roundFrac v fmt sat

/-- The outputs of a row as patterns. -/
def rowOutputs (s : Stat) (d : Dyn) (r : Nat) : List Nat :=
  let fmt := bOutfmt s.b
  let sat := bSat s.b
  let part (j : Nat) : Int × Nat := let x := tgetD s.got (3 * r + j) (0, 0, false, .ok); (x.1, x.2.1)
  let elem (j : Nat) : Elem :=
    if s.comps.getD j 0 = 1 then elemValue 0 (part j).2 else sumElem (part j).1 (part j).2
  let enc (v : FVal × List Nat) : Nat := v.1.encode fmt sat v.2
  let eps : Frac := Frac.units (scoreUnits (bEps s.b))
  if s.finish ≤ 2 then [encodeElem (elem 0) fmt sat]
  else
    let es := (upFrom 0 s.comps.length).map elem
    let outs := if s.finish = 4 then 3 else if s.finish = 6 then 2 else 1
    let num (j : Nat) : Int := match elem j with
      | .num a _ => a
      | _ => 0
    let bad := es.any (fun e => match e with
      | .num _ _ => false
      | _ => true)
    let nfrac : Frac := if bNconst s.b ≠ 0 then { n := bNconst s.b, d := 1 } else Frac.units (num (s.comps.length - 1))
    if bad || (s.finish ≠ 6 && nfrac.n = 0) then List.replicate outs (nanBits fmt)
    else if s.finish = 3 then [roundFrac ((Frac.units (num 0)).div nfrac) fmt sat]
    else if s.finish = 4 then
      let mu := (Frac.units (num 0)).div nfrac
      let v := ((Frac.units (num 1)).div nfrac).sub (mu.mul mu)
      [roundFrac mu fmt sat, roundFrac v fmt sat, enc (s.rsqrt d (v.add eps))]
    else if s.finish = 5 then [enc (s.rsqrt d (((Frac.units (num 0)).div nfrac).add eps))]
    else
      let m : Dy := { m := num 0, e := -149 }
      let x := w32 (roundSum (num 1) 0 false)
      if num 1 = 0 then [infBits fmt true, infBits fmt false]
      else
        let f := s.fn d 2 x
        let lse : FVal := match f.1 with
          | .num v => .num (e40 (m.add v))
          | .zero _ => .num (e40 m)
          | v => v
        [enc (lse, ofSigned 320 (num 0) :: f.2), enc (s.fn d 4 x)]

/-- ROW_FINISH: the STAT of a node consumes what it can, and finishes the first row whose components are all consumed; its
write leaves (R257, R260, R263, R353). -/
def rowFinish (g : Nat) (k : Cfg) (d : Dyn) : Dyn :=
  match getStat d g with
  | none => d
  | some s0 =>
    let d := consumeAll d s0.slot g
    match getStat d g with
    | none => d
    | some s =>
      match (tvals s.got).find? (fun x => x.2.2.2 ≠ .ok) with
      | some x => statFail d s x.2.2.2
      | none =>
        match s.ready with
        | [] => d
        | r :: rest =>
          let remote := (upFrom 0 s.comps.length).any (fun j => (tgetD s.got (3 * r + j) (0, 0, false, .ok)).2.2.1)
          if s.fast && remote then statFail d s .badDescriptor
          else
            let o := rowOutputs s d r
            let w := fmtWidth (bOutfmt s.b)
            let d := modStat d s.slot g (fun s =>
              { s with ready := rest, finished := s.finished + 1, writesOut := s.writesOut + 1 })
            busWrite k d ((s.dst.toNat + 32 + o.length * r * w) % p64) (o.flatMap (leBytes w)) (.statRow s.slot g)

/-- A row's write has its response (R260, Table 12.4). -/
def statRowAck (d : Dyn) (slot g : Nat) (err : Bool) : Dyn :=
  match d.sf.stats.find? (fun s => s.slot = slot && s.g = g) with
  | none => d
  | some s =>
    if err then statFail d s .eccUncorr
    else modStat d slot g (fun s => { s with writesOut := s.writesOut - 1 })

/-- A STAT ends done when every output write has been acknowledged (R260). -/
def statEnd (g : Nat) (_k : Cfg) (d : Dyn) : Dyn :=
  match getStat d g with
  | none => d
  | some s =>
    if s.finished = s.rows && s.writesOut = 0 then internalEnd (statRemove d s) s.slot g .ok else d

/-- The STATs whose node has timed out or whose launch has failed are abandoned (R261). -/
def reapStats (d : Dyn) : Dyn :=
  d.sf.stats.foldl (fun d s =>
    let n := getNode d s.g
    if n.st.terminal || n.launch ≠ s.slot || !launchOk d s.slot then statFail d s .cancelled else d) d

/-! ### Evaluation requests (R265, R266) -/

/-- A request token that ends at the SFU intake is decided. -/
def evalDecide (d : Dyn) (t : Tok) : Status × Dyn :=
  let s := leafSlot (hDest t.hdr)
  let z := 8 * s + hQ t.hdr
  let fmt := bits (hTag t.hdr) 10 3
  let slot := tget d.sf.slots z
  let valid := slot.any (fun x => if x.cur then x.b.isSome else x.a.isSome)
  if 4 ≤ s || 5 ≤ fmt || hLen t.hdr = 0 || hLen t.hdr % fmtWidth fmt ≠ 0 || z = 14 || z = 15 || !valid then (.badDescriptor, d)
  else if 128 ≤ d.sf.intake.length then (.full, d)
  else
    let r : EvalReq := { n := d.sf.seq, tok := t, bank := slot.any (·.cur), sent := false }
    (.ok, { d with sf := { d.sf with intake := d.sf.intake ++ [r], seq := d.sf.seq + 1 } })

/-- The header of a request's result token. -/
def resultHdr (k : Cfg) (t : Tok) : W64 :=
  mkHdr k.boot.chipId (sLeaf t.src) (bits (hTag t.hdr) 13 3) (hTag t.hdr) (hLen t.hdr) 0 false

/-- The results of a request. -/
def evalElems (d : Dyn) (r : EvalReq) : List Nat :=
  let z := 8 * leafSlot (hDest r.tok.hdr) + hQ r.tok.hdr
  let fmt := bits (hTag r.tok.hdr) 10 3
  let bank (i : Nat) (b : Bool) : Option FnTab := (tget d.sf.slots i).bind (fun x => if b then x.b else x.a)
  let exp := bank 0 ((tget d.sf.slots 0).any (·.cur))
  (tokElems fmt (hLen r.tok.hdr) r.tok.payload.toNat).map (fun x =>
    let v := match bank z r.bank with
      | some t => evalSlot z t exp (w32 (toFp32 fmt x))
      | none => .free
    v.encode fmt false (evalOperands z (bank z r.bank) exp (w32 (toFp32 fmt x))))

/-- A result is discarded with a record against the request's context (R266). -/
def evalRefused (k : Cfg) (d : Dyn) (r : EvalReq) (st : Status) : Dyn :=
  let d := fault k d { frec 0x10 st (rootUnit 6) with ctx := some (sCtx r.tok.src), detail := w64 (sLeaf r.tok.src) }
  { d with sf := { d.sf with intake := d.sf.intake.filter (fun x => x.n ≠ r.n) } }

/-- The result token of an accepted request leaves. -/
def evalSend (k : Cfg) (d : Dyn) (r : EvalReq) : Dyn :=
  let h := resultHdr k r.tok
  if noRoute k d (mkLeaf 0 0xF9 (leafSlot (hDest r.tok.hdr))) h then evalRefused k d r .noRoute
  else
    let w := fmtWidth (bits (hTag r.tok.hdr) 10 3)
    let t : Tok :=
      { hdr := h, src := mkSrc k.boot.chipId (mkLeaf 0 0xF9 (leafSlot (hDest r.tok.hdr))) (sCtx r.tok.src) 0 0,
        payload := w256 (leNat ((evalElems d r).flatMap (leBytes w))), ddig := 0, sender := .sfu r.n }
    let d := { d with tk := { d.tk with flight := d.tk.flight ++ [t] } }
    { d with sf := { d.sf with intake := mapIf (fun x => x.n = r.n) (fun x => { x with sent := true }) d.sf.intake } }

/-- EVAL_RESULT: the oldest request whose result can leave; one result token of a pair is in flight (R187, R251). -/
def evalResult (k : Cfg) (d : Dyn) : Dyn :=
  let busy (r : EvalReq) : Bool := d.sf.intake.any (fun x => x.sent && samePair (resultHdr k x.tok) (resultHdr k r.tok))
  if unitWaits d 0x10 (rootUnit 6) then d
  else match d.sf.intake.find? (fun r => !r.sent && !busy r) with
    | none => d
    | some r => evalSend k d r

/-- A result token's acknowledgement has come back (R189, R266). -/
def sfuAcked (k : Cfg) (d : Dyn) (n : Nat) (st : Status) : Dyn :=
  match d.sf.intake.find? (fun r => r.n = n && r.sent) with
  | none => d
  | some r =>
    let h := resultHdr k r.tok
    let c := stallCheck k d (2 ^ 18 + 1) h st { stallRec (rootUnit 6) h with ctx := some (sCtx r.tok.src) }
    let d := match c.2.1 with
      | some x => fault k c.2.2 x
      | none => c.2.2
    if st = .ok then { d with sf := { d.sf with intake := d.sf.intake.filter (fun x => x.n ≠ n) } }
    else if c.1 = .full then evalSend k d r
    else evalRefused k d r c.1

/-! ### Loading a user slot (R275 to R277) -/

/-- Some request or STAT in flight still uses the bank of a slot that is not in force. -/
def oldBankUsed (d : Dyn) (z : Nat) : Bool :=
  let cur := (tget d.sf.slots z).any (·.cur)
  d.sf.intake.any (fun r => 8 * leafSlot (hDest r.tok.hdr) + hQ r.tok.hdr = z && r.bank ≠ cur)
    || d.sf.stats.any (fun s => bit s.banks.toNat z ≠ cur)

/-- Writes a table into a slot's shadow bank and puts it in force. -/
def loadBank (d : Dyn) (z : Nat) (t : FnTab) : Dyn :=
  let s := (tget d.sf.slots z).getD { a := none, b := none, cur := false }
  let s := if s.cur then { s with a := some t, cur := false } else { s with b := some t, cur := true }
  { d with sf := { d.sf with slots := tput d.sf.slots z s } }

/-- The bank of slot 0 in force. -/
def expBank (d : Dyn) : Option FnTab := (tget d.sf.slots 0).bind (fun x => if x.cur then x.b else x.a)

end Sys2Proof.Machine
end

