-- ==== Sys2Proof/Machine/Placement.lean ====
section
/-! DEFINITION. Dispatch and placement (R94 to R118, R157, R234, R235, R244, R411): one dispatcher cycle, the affinity waits,
and the commit of a node, a tile or a cold fetch. -/
namespace Sys2Proof.Machine

/-! ### What a cycle may do -/

/-- A candidate that commits in the cycle, for the check of the others against it (R111). -/
structure Rival where
  g : Nat
  age : Nat
  x : Desc
  deriving DecidableEq, Repr

/-- The state of a dispatcher within its cycle: candidates still allowed, issue slots left, root issues per region (R97, R98); `d0` is the state
at the beginning of the cycle, `rivals` the candidates known to commit in it, `seen` those that have committed. -/
structure PState where
  d : Dyn
  d0 : Dyn
  rivals : List Rival
  seen : List Rival
  cands : Nat
  left : Nat
  used : Tab Nat
  deriving DecidableEq, Repr

/-- An entry that a scan examines. -/
inductive Item where
  | node (e : REntry)
  | tile (slot chan j prio age : Nat)
  | fetch (slot chan idx prio : Nat)
  deriving DecidableEq, Repr

def Item.prio : Item → Nat
  | .node e => e.level
  | .tile _ _ _ p _ => p
  | .fetch _ _ _ p => p

/-- Age of an item; a COLDFETCH, whose age the rules do not give, goes before every other entry of its level (R244; log 99: DESIGN CHOICE). -/
def Item.age : Item → Nat
  | .node e => e.age
  | .tile _ _ _ _ a => a
  | .fetch _ _ _ _ => 0

def Item.before (a b : Item) : Bool := a.prio < b.prio || (a.prio = b.prio && a.age ≤ b.age)

/-! ### Choosing a leaf (R100, R101) -/

/-- Key of a rotation pointer: the dispatcher (16 for the root) and the class. -/
def rotKey (disp : Disp) (cls : Nat) : Nat :=
  (match disp with
   | .root => 16
   | .region r => r) * 16 + cls

/-- The leaf after the pointer, in ascending reference order with wrap; before the first choice the lowest (log 18: DESIGN CHOICE). -/
def afterPointer (p : Nat) (s : List Nat) : Option Nat :=
  match minBy id (s.filter (fun l => p < l)) with
  | some l => some l
  | none => minBy id s

/-- `best`: the leaf, and the state with the pointer moved. -/
def best (disp : Disp) (cls : Nat) (d : Dyn) (s : List Nat) : Option (Nat × Dyn) :=
  let waiting := s.filter (fun l => (getEng d l).blocked.isSome && (getEng d l).pkts.isEmpty)
  match minBy (fun l => (getEng d l).reqAge * 65536 + l) waiting with
  | some l => some (l, d)
  | none =>
    match afterPointer (tgetD d.dp.rot (rotKey disp cls) 65535) s with
    | some l => some (l, { d with dp := { d.dp with rot := tput d.dp.rot (rotKey disp cls) l } })
    | none => none

/-- What R100 answers. -/
inductive Place where
  | leaf (l : Nat) (d : Dyn)
  | wait (l : Nat)
  | none

def waitSlots : Disp → Nat
  | .root => 64
  | .region _ => 16

/-- `place` of R100. -/
def place (disp : Disp) (k : Cfg) (d : Dyn) (e : REntry) (x : Desc) : Place :=
  let elig := eligible k d e.g x
  let free (l : Nat) : Bool := leafFree k d x.op x.bodyWords l
  let fromSet (s : List Nat) : Place :=
    match best disp x.cls d s with
    | some r => .leaf r.1 r.2
    | none => .none
  let rest : Place :=
    let near := match (x.ranges.find? (fun r => !rWrite r && 0 < rLen r)) with
      | some r => elig.filter (fun l => bits l 4 12 = rSite r && free l)
      | none => []
    if near.isEmpty then fromSet (elig.filter free) else fromSet near
  if x.pin then (if elig.contains x.target && free x.target then .leaf x.target d else .none)
  else
    let a := (getNode d e.g).affinity
    if a ≠ 0xFFFF && elig.contains a then
      if free a then .leaf a d
      else if 0 < x.affWait && !e.waited && (d.dp.waits.filter (fun w => w.disp = disp)).length < waitSlots disp then .wait a
      else rest
    else rest

/-- Whether some leaf is free for a node: the first test of R97. -/
def someFree (k : Cfg) (d : Dyn) (e : REntry) (x : Desc) : Bool :=
  (eligible k d e.g x).any (leafFree k d x.op x.bodyWords)

/-! ### MU banks (R411) -/

def muKey (site bank : Nat) : Nat := site * 8 + bank

/-- The banks of an MU that a range covers. -/
def rangeBanks (r : Nat) : List Nat :=
  if rLen r = 0 then []
  else (upFrom 0 8).filter (fun b => rOff r < 49152 * (b + 1) && 49152 * b < rOff r + rLen r)

/-- Asks for a fallow bank to be powered, once. -/
def wakeBank (d : Dyn) (site bank : Nat) : Dyn :=
  if !d.pw.muFallow.contains (muKey site bank) || d.pw.muWaking.contains (muKey site bank) then d
  else gateReq { d with pw := { d.pw with muWaking := d.pw.muWaking ++ [muKey site bank] } } (.mu site bank) false

/-- The fallow banks under a set of ranges. -/
def fallowUnder (d : Dyn) (rs : List Nat) : List (Nat × Nat) :=
  rs.flatMap (fun r => ((rangeBanks r).filter (fun b => d.pw.muFallow.contains (muKey (rSite r) b))).map (fun b => (rSite r, b)))

/-! ### Commit -/

def PState.spend (s : PState) (d : Dyn) (n : Nat) (leaves : List Nat) (root : Bool) : PState :=
  { s with d := d, left := s.left - n,
           used := if root then leaves.foldl (fun t l => tput t (leafRegion l) (tgetD t (leafRegion l) 0 + 1)) s.used else s.used }

/-- One leaf for each region of a set of leaves: an issue to all of them is one root issue in each region (R98, R115). -/
def regionLeaves (ls : List Nat) : List Nat := ((ls.map leafRegion).eraseDups).map (fun r => mkLeaf r 0 0)

/-- A region still takes root issues (R98). -/
def regionOpen (disp : Disp) (used : Tab Nat) (leaves : List Nat) : Bool :=
  disp ≠ .root || leaves.all (fun l =>
    tgetD used (leafRegion l) 0 + (leaves.filter (fun m => leafRegion m = leafRegion l)).length ≤ 2)

def dropEntry (d : Dyn) (disp : Disp) (g : Nat) : Dyn :=
  setReadyList d disp ((readyList d disp).filter (fun e => e.g ≠ g))

/-- The head of a packet of a node. -/
def pktHead (d : Dyn) (idx slot g op bw : Nat) : PktHead :=
  let l := tget d.ls.slots slot
  { task := idx, slot := slot, g := g, ctx := (l.map (fun l => l.id.c)).getD 0, epoch := (l.map (·.epoch)).getD 0, op := op,
    bw := bw, flags := (getNode d g).flags, step := d.step }

def copyOf (l : Nat) (shadow : Bool) : Copy := { leaf := l, shadow := shadow, taken := false, report := none, failAt := 0, released := false }

/-- A node is issued: its entry leaves the list, its ranges and its completion-queue entry are taken, its task stands. -/
def issueNode (d : Dyn) (disp : Disp) (idx : Nat) (e : REntry) (x : Desc) (copies : List Copy) (st : NState) : Dyn :=
  let d := enterRanges (dropEntry d disp e.g) disp e.g x (some idx)
  let d := modNode d e.g (fun n => { n with st := st })
  let t : Task := { idx := idx, kind := .node, slot := e.slot, g := e.g, op := x.op, body := nodeDescOff d e.slot e.g,
                    commit := d.fc, copies := copies, ended := false }
  { d with dp := { d.dp with tasks := d.dp.tasks ++ [t], waits := d.dp.waits.filter (fun w => w.g ≠ e.g),
                             resv := d.dp.resv.filter (fun r => r.g ≠ e.g) } }

/-- The ranges are held: the node becomes range-held (R111, R113). -/
def holdNode (d : Dyn) (disp : Disp) (e : REntry) (x : Desc) : Dyn :=
  modNode (enterRanges d disp e.g x none) e.g (fun n => { n with st := .rangeHeld })

def rivalClash (a b : Desc) : Bool := (liveRanges a).any (fun r => (liveRanges b).any (rangesClash r))

/-- A candidate conflicts with an entry that stood at the beginning of the cycle, or with an older candidate that commits in it (R111). -/
def heldUp (s : PState) (list : List REntry) (e : REntry) (x : Desc) : Bool :=
  conflicts s.d0 list e.g e.age x || s.rivals.any (fun v => v.age < e.age && rivalClash x v.x)

/-- The checks between placement and commit: a fallow bank or a full scoreboard turns the candidate back, a conflict holds
it (R111, R113, R114, R411). None when it may commit, on the state with nothing changed. -/
def turnBack (disp : Disp) (list : List REntry) (s : PState) (d : Dyn) (e : REntry) (x : Desc) : Option Dyn :=
  let fallow := fallowUnder d (liveRanges x)
  if !fallow.isEmpty then some (fallow.foldl (fun d b => wakeBank d b.1 b.2) d)
  else if !sbRoom d disp e.g x then some (count d cSbFull 1)
  else if heldUp s list e x then some (holdNode d disp e x)
  else none

def unitsDiffer (a b : Nat) : Bool := a / 16 ≠ b / 16

/-- Whether a node gets a shadow copy now; with PIN or no second unit in its leaf set SHADOW is cleared and counted (R118). -/
def shadowChoice (k : Cfg) (d : Dyn) (e : REntry) (x : Desc) : Bool × Dyn :=
  if !(getNode d e.g).shadow then (false, d)
  else
    let ls := leafSet k d x.target
    if x.pin || ls.all (fun l => ls.all (fun m => !unitsDiffer l m)) then
      (false, modNode (count d cShadowSkip 1) e.g (fun n => { n with shadow := false }))
    else (true, d)

def bodyPtrOf (k : Cfg) (d : Dyn) (slot g : Nat) : Nat := descAddr k (nodeDescOff d slot g + 64)

def PState.commits (s : PState) (e : REntry) (x : Desc) : PState := { s with seen := s.seen ++ [{ g := e.g, age := e.age, x := x }] }

/-- A node placed on a leaf: second leaf for a shadow copy, checks, commit (R100, R111 to R118). -/
def commitOn (disp : Disp) (k : Cfg) (list : List REntry) (s : PState) (e : REntry) (x : Desc) (l : Nat) : PState :=
  let sh := shadowChoice k s.d e x
  let d := sh.2
  let free2 := (eligible k d e.g x).filter (fun m => unitsDiffer l m && leafFree k d x.op x.bodyWords m)
  let second : Option (Nat × Dyn) := if sh.1 then best disp x.cls d free2 else none
  let leaves := l :: (match second with
    | some r => [r.1]
    | none => [])
  if sh.1 && (second.isNone || s.left < 2) then { s with d := d }
  else if !regionOpen disp s.used leaves then { s with d := d }
  else match turnBack disp list s d e x, cqFree d with
    | some d', _ => { s with d := d' }
    | none, none => { s with d := d }
    | none, some idx =>
      let s := s.commits e x
      let d := match second with
        | some r => r.2
        | none => d
      let copies := copyOf l false :: (match second with
        | some r => [copyOf r.1 true]
        | none => [])
      let d := issueNode d disp idx e x copies .issued
      let h := pktHead d idx e.slot e.g x.op x.bodyWords
      let d := copies.foldl (fun d c => sendPacket k d c.leaf h c.shadow x.body (bodyPtrOf k d e.slot e.g) false) d
      s.spend d leaves.length leaves (disp = .root)

/-! ### SECTION (R115 to R117, R157) -/

/-- The members of a SECTION. -/
def sectionMembers (k : Cfg) (d : Dyn) (x : Desc) : List Nat :=
  (leafSet k d x.target).filter (fun l => !(k.stubExists l && bit (k.slotByte l) 7 && k.classOf l = 6))

/-- A reservation keeps a leaf from a SECTION: of those that have reserved, an earlier one; and one of a PRIO that is not higher keeps it
from a SECTION that has not reserved yet (R116). -/
def heldFrom (d : Dyn) (g prio l : Nat) : Bool :=
  if d.dp.resv.any (fun r => r.g = g) then (d.dp.resv.takeWhile (fun r => r.g ≠ g)).any (fun r => r.members.contains l)
  else reservedAgainst d g prio l

/-- Every member can take the packet, and no reservation of another SECTION holds one. -/
def sectionReady (k : Cfg) (d : Dyn) (e : REntry) (x : Desc) (ms : List Nat) : Bool :=
  ms.all (fun l => k.present l && !hedged d l && k.packetLen l x.bodyWords ≤ credit k d l && !heldFrom d e.g x.prio l)

def reserve (d : Dyn) (e : REntry) (x : Desc) (ms : List Nat) : Dyn :=
  if d.dp.resv.any (fun r => r.g = e.g) then d
  else { d with dp := { d.dp with resv := d.dp.resv ++ [{ g := e.g, prio := x.prio, members := ms }] } }

/-- END_STREAM and the end chainage of a SECTION of a launch, for its task. -/
def sectionWatch (d : Dyn) (idx : Nat) (e : REntry) (x : Desc) : Watch :=
  let bases := ((tget d.ls.slots e.slot).map (·.bases)).getD []
  { slot := e.slot, g := e.g, task := idx, stream := x.b 64 4, target := bases.getD (x.b 64 4) 0 + w64 (x.b 0 64),
    found := none, fired := false }

/-- The end chainage of a SECTION is reached at its commit: each member finds the notice when it takes its packet (R157). -/
def dueSection (d : Dyn) (idx : Nat) : Dyn :=
  raiseSectEnd { d with ch := { d.ch with sect := mapIf (fun x => x.task = idx) (fun x => { x with fired := true }) d.ch.sect } } idx

/-- The SECTION is committed on every member at once, and takes all their credit. -/
def commitSection (disp : Disp) (k : Cfg) (list : List REntry) (s : PState) (e : REntry) (x : Desc) (ms : List Nat) : PState :=
  let d := s.d
  let leaves := regionLeaves ms
  if 256 ≤ d.ch.sect.length || !regionOpen disp s.used leaves then s
  else match turnBack disp list s d e x, cqFree d with
    | some d', _ => { s with d := d' }
    | none, none => s
    | none, some idx =>
      let s := s.commits e x
      let w := sectionWatch d idx e x
      let d := issueNode d disp idx e x (ms.map (fun l => copyOf l false)) .issued
      let d := { d with ch := { d.ch with sect := d.ch.sect ++ [w] } }
      let h := pktHead d idx e.slot e.g x.op x.bodyWords
      let d := ms.foldl (fun d l =>
        let d := sendPacket k d l h false x.body (bodyPtrOf k d e.slot e.g) false
        let c := credit k d l
        modEng d l (fun en => { en with secHeld := en.secHeld + c, secTask := some idx })) d
      let d := if reached (chain d w.stream) w.target then dueSection d idx else d
      s.spend d 1 leaves (disp = .root)

/-! ### Kinds executed inside Denut (R31, R96, R223, R252) -/

/-- R97: the kind's unit is free. -/
def internalFree (d : Dyn) (e : REntry) (x : Desc) : Bool :=
  if x.op = kRoute then routeFree d e.slot x else if x.op = kStat then statFree d else true

/-- The return of a HOST node (Table 13.22). -/
def hostReturn (d : Dyn) (slot : Nat) (x : Desc) : Dyn :=
  match tget d.ls.slots slot with
  | none => d
  | some l => pushRet d { cmdRet l.id cLaunch .ok (w64 (x.b 64 64)) with kind := 1, svc := l.svc, note := w32 (x.b 0 32) }

/-- A node executed inside Denut is issued and running at once. -/
def commitInternal (k : Cfg) (list : List REntry) (s : PState) (e : REntry) (x : Desc) : PState :=
  let d := s.d
  match turnBack .root list s d e x, cqFree d with
  | some d', _ => { s with d := d' }
  | none, none => s
  | none, some idx =>
    let s := s.commits e x
    let d := issueNode d .root idx e x [] .running
    let c := ((tget d.ls.slots e.slot).map (fun l => l.id.c)).getD 0
    let d :=
      if x.op = kRoute then routeIssue k d e.slot e.g x
      else if x.op = kStat then statIssue k d e.slot e.g c x
      else if x.op = kHost then internalEnd (hostReturn d e.slot x) e.slot e.g .ok
      else d
    s.spend d 1 [] false

/-! ### Tiles and cold fetches (R234, R235, R244) -/

/-- Leaves that may take a synthesised packet of a class: none on a WP2 port without a descriptor store (R131). -/
def synthEligible (k : Cfg) (d : Dyn) (ls : List Nat) (cls prio g : Nat) : List Nat :=
  ls.filter (fun l => k.present l && k.classOf l = cls && !hedged d l && !reservedAgainst d g prio l
    && !(k.isWp2 l && k.boot.descSize = 0))

/-- Commits a synthesised packet on its leaves; on a WP2 port its body is written first (R131). -/
def commitSynth (k : Cfg) (d : Dyn) (idx slot g op prio : Nat) (kind : TaskKind) (copies : List Copy) (body : Nat) : Dyn :=
  let _ := prio
  let t : Task := { idx := idx, kind := kind, slot := slot, g := g, op := op, body := 0, commit := d.fc, copies := copies, ended := false }
  let d := { d with dp := { d.dp with tasks := d.dp.tasks ++ [t] } }
  let h := pktHead d idx slot g op 1
  let ptr := descAddr k (64 * idx)
  copies.foldl (fun d c =>
    let wp2 := k.isWp2 c.leaf
    let d := sendPacket k d c.leaf h c.shadow body ptr wp2
    if wp2 then busWrite k d ptr (leBytes 64 body) (.synthBody c.leaf idx) else d) d

/-- `place_tile` and the commit of a closed tile; the first copy's leaf becomes a holder, a shadow copy's does not (R237; log 100: DESIGN CHOICE). -/
def commitTile (k : Cfg) (s : PState) (slot chan j : Nat) : PState :=
  match getRoute s.d slot chan with
  | none => s
  | some r =>
    match r.tiles.find? (fun t => t.j = j && t.st == .acked) with
    | none => s
    | some t =>
      let d := s.d
      let idx := lGbase r.e + t.expert
      let cls := lTclass r.e
      let prio := (getNode d r.g).prio
      let all := leafSet k d (lTparcel r.e)
      let elig := synthEligible k d all cls prio r.g
      let free := elig.filter (leafFree k d kKernel 1)
      let hold := (holdersOf d idx).filter free.contains
      match best .root cls d (if hold.isEmpty then free else hold), cqFree d with
      | some (l, d1), some cq =>
        let want := (getNode d r.g).shadow
        let multi := all.any (unitsDiffer l)
        let second := if want && multi then best .root cls d1 (free.filter (unitsDiffer l)) else none
        let leaves := l :: (match second with
          | some x => [x.1]
          | none => [])
        if (want && multi && (second.isNone || s.left < 2)) || !regionOpen .root s.used leaves then { s with d := d1 }
        else
          let d2 := match second with
            | some x => x.2
            | none => d1
          let d2 := if want && !multi then count d2 cShadowSkip 1 else d2
          let copies := copyOf l false :: (match second with
            | some x => [copyOf x.1 true]
            | none => [])
          let body := lCode r.e + r.blockAddr j * p64 + (64 + 8 * t.recs.length) * 2 ^ 128
          let d2 := commitSynth k d2 cq slot r.g kKernel prio (.tile chan j idx) copies body
          let d2 := modTile d2 slot chan j (fun t => { t with st := .issued })
          s.spend (tileCommitted d2 idx l) leaves.length leaves true
      | _, _ => s

/-- The commit of a cold fetch on a free DMA-class leaf of parcel 0. -/
def commitFetch (k : Cfg) (s : PState) (slot chan idx : Nat) : PState :=
  match getRoute s.d slot chan with
  | none => s
  | some r =>
    let d := s.d
    let prio := (getNode d r.g).prio
    let free := (synthEligible k d (leafSet k d 65536) 5 prio r.g).filter (leafFree k d kColdfetch 1)
    match best .root 5 d free, cqFree d with
    | some (l, d1), some cq =>
      if !regionOpen .root s.used [l] then { s with d := d1 }
      else
        let e := gazEntry d1 idx
        let body := gCold e + gHot e * p64 + gSize e * 2 ^ 128 + idx * 2 ^ 160
        let d1 := commitSynth k d1 cq slot r.g kColdfetch prio (.fetch chan idx) [copyOf l false] body
        let d1 := { d1 with rt := { d1.rt with fetchWait := d1.rt.fetchWait.filter (fun f => f ≠ (slot, chan, idx)) } }
        s.spend d1 1 [l] true
    | _, _ => s

/-- Some leaf is free for a closed tile or a fetch. -/
def synthFree (k : Cfg) (d : Dyn) (slot chan : Nat) (fetch : Bool) : Bool :=
  match getRoute d slot chan with
  | none => false
  | some r =>
    let prio := (getNode d r.g).prio
    let ls := if fetch then leafSet k d 65536 else leafSet k d (lTparcel r.e)
    let cls := if fetch then 5 else lTclass r.e
    (synthEligible k d ls cls prio r.g).any (leafFree k d (if fetch then kColdfetch else kKernel) 1)

/-! ### A dispatcher's cycle (R97, R235) -/

/-- R97: an entry of the list is selectable. -/
def selectable (d : Dyn) (list : List REntry) (e : REntry) : Bool :=
  !e.void && !e.affWait && dcHit d (nodeDescOff d e.slot e.g)
    && !((getNode d e.g).st == .rangeHeld && conflicts d list e.g e.age (nodeDesc d e.slot e.g))

/-- The closed tiles and the fetches that compete at the root; a half-1 tile counts as no older than any closed half-0 tile of its ROUTE, and follows
it (R235). -/
def routingItems (d : Dyn) : List Item :=
  let tiles := d.rt.routes.flatMap (fun r =>
    let prio := (getNode d r.g).prio
    let closed := r.tiles.filter (fun t => t.st == .acked)
    let first := closed.filter (·.half = 0)
    let last := listMax (first.map (·.age))
    first.map (fun t => .tile r.slot r.chan t.j prio t.age)
      ++ (closed.filter (·.half ≠ 0)).map (fun t => .tile r.slot r.chan t.j prio (max t.age last)))
  let fetches := d.rt.fetchWait.map (fun f =>
    .fetch f.1 f.2.1 f.2.2 (match getRoute d f.1 f.2.1 with
      | some r => (getNode d r.g).prio
      | none => 0))
  tiles ++ fetches

/-- Two tiles of one list of one ROUTE. -/
def sameList (d : Dyn) (slot chan j : Nat) : Item → Bool
  | .tile s c i _ _ =>
    s = slot && c = chan && (match getRoute d slot chan with
      | some r =>
        match r.tiles.find? (fun t => t.j = j), r.tiles.find? (fun t => t.j = i) with
        | some a, some b => a.expert = b.expert && a.half = b.half
        | _, _ => false
      | none => false)
  | _ => false

/-- The candidate's descriptor has been looked up in the cache. -/
def PState.looked (p : PState) (e : REntry) : PState := { p with d := dcTouch p.d (nodeDescOff p.d e.slot e.g) }

/-- A node that waits for its affinity leaf. -/
def waitFor (disp : Disp) (d : Dyn) (e : REntry) (l : Nat) : Dyn :=
  let d := setReadyList d disp (mapIf (fun q => q.g = e.g) (fun q => { q with affWait := true }) (readyList d disp))
  { d with dp := { d.dp with waits := d.dp.waits ++ [{ disp := disp, g := e.g, leaf := l, since := d.fc }] } }

/-- One examined entry: whether it is a candidate, and what becomes of it. A candidate's descriptor is looked up in the cache (R99). -/
def examine (disp : Disp) (k : Cfg) (list : List REntry) (s : PState) : Item → Bool × PState
  | .node e =>
    let x := nodeDesc s.d e.slot e.g
    if !onEngines x.op then
      if internalFree s.d e x then (true, commitInternal k list (s.looked e) e x) else (false, s)
    else if x.op = kSection then
      let ms := sectionMembers k s.d x
      if sectionReady k s.d e x ms then (true, commitSection disp k list (s.looked e) e x ms)
      else (false, { s with d := reserve s.d e x ms })
    else if !someFree k s.d e x then (false, s)
    else match place disp k (s.looked e).d e x with
      | .leaf l d => (true, commitOn disp k list { s with d := d } e x l)
      | .wait l => (true, { s with d := waitFor disp (s.looked e).d e l })
      | .none => (true, s.looked e)
  | .tile slot chan j _ _ =>
    if synthFree k s.d slot chan false then (true, commitTile k s slot chan j) else (false, s)
  | .fetch slot chan idx _ =>
    if synthFree k s.d slot chan true then (true, commitFetch k s slot chan idx) else (false, s)

/-- The scan over the examined entries: once a tile is a candidate, its list's other tiles come next. -/
def scan (disp : Disp) (k : Cfg) (list : List REntry) : Nat → List Item → PState → PState
  | 0, _, s => s
  | _, [], s => s
  | n + 1, it :: rest, s =>
    if s.cands = 0 || s.left = 0 then s
    else
      let r := examine disp k list s it
      let s' := if r.1 then { r.2 with cands := r.2.cands - 1 } else r.2
      let rest := match it with
        | .tile slot chan j _ _ =>
          if r.1 then rest.filter (sameList s.d slot chan j) ++ rest.filter (fun i => !sameList s.d slot chan j i) else rest
        | _ => rest
      scan disp k list n rest s'

def scanDepth : Disp → Nat
  | .root => 64
  | .region _ => 16

def issueSlots : Disp → Nat
  | .root => 8
  | .region _ => 2

/-- A dispatcher at the beginning of its cycle. -/
def PState.start (d : Dyn) (slots : Nat) (rivals : List Rival) : PState :=
  { d := d, d0 := d, rivals := rivals, seen := [], cands := slots, left := slots, used := [] }

/-- Of the candidates that would commit, those that do: by age, each that conflicts with none that commits before it (R111). -/
def settleRivals (vs : List Rival) : List Rival :=
  (isort (fun a b => a.age ≤ b.age) vs).foldl (fun acc v => if acc.any (fun w => rivalClash v.x w.x) then acc else acc ++ [v]) []

/-- The entries that a dispatcher's cycle goes through, in priority and age order: those of its list that are selectable, and at the root the
closed tiles and the fetches (R97, R235). -/
def cycleItems (disp : Disp) (d : Dyn) (list : List REntry) : List Item :=
  let nodes := (list.filter (selectable d list)).map Item.node
  isort Item.before (match disp with
    | .root => nodes ++ routingItems d
    | .region _ => nodes)

/-- One pass of a cycle, with the candidates already known to commit in it. -/
def cyclePass (disp : Disp) (k : Cfg) (d : Dyn) (list : List REntry) (rivals : List Rival) : PState :=
  scan disp k list (scanDepth disp) (cycleItems disp d list) (PState.start d (issueSlots disp) rivals)

/-- The list of a dispatcher without its void entries, at the beginning of a cycle; entries whose descriptor has left the cache are fetched
again (R83, R99). -/
def cycleBegin (disp : Disp) (k : Cfg) (d : Dyn) : List REntry × Dyn :=
  let d := refill k d (readyList d disp)
  let list := (readyList d disp).filter (fun e => !e.void)
  (list, setReadyList d disp list)

/-- PLACEMENT: one cycle of a dispatcher. Where candidates of the cycle conflict with one another, the cycle is that in which the older ones hold
the younger (R111). -/
def placement (disp : Disp) (k : Cfg) (d : Dyn) : Dyn :=
  let b := cycleBegin disp k d
  let first := cyclePass disp k b.2 b.1 []
  let rivals := settleRivals first.seen
  if rivals.length = first.seen.length then first.d else (cyclePass disp k b.2 b.1 rivals).d

/-! ### Affinity waits (R102) -/

/-- A wait ends; the node has waited. -/
def endWait (d : Dyn) (w : AffWait) (waited : Bool) : Dyn :=
  let d := { d with dp := { d.dp with waits := d.dp.waits.filter (fun y => y.g ≠ w.g) } }
  setReadyList d w.disp
    (mapIf (fun e => e.g = w.g) (fun e => { e with affWait := false, waited := e.waited || waited }) (readyList d w.disp))

/-- AFFWAIT cycles have passed without the credit. -/
def affinityWaitExpiry (g : Nat) (_k : Cfg) (d : Dyn) : Dyn :=
  match d.dp.waits.find? (fun w => w.g = g) with
  | none => d
  | some w =>
    let slot := (getNode d g).launch
    if cyclesSince d w.since < (nodeDesc d slot g).affWait then d else endWait d w true

/-- The oldest node that waits for a leaf with enough credit for it is placed there, and so on while the credit covers another. -/
def serveWaitsN : Nat → Cfg → Dyn → Nat → Dyn
  | 0, _, d, _ => d
  | n + 1, k, d, l =>
    let ready := d.dp.waits.filter (fun w => w.leaf = l && !hedged d l)
    let entry (w : AffWait) : Option REntry := (readyList d w.disp).find? (fun e => e.g = w.g)
    let age (w : AffWait) : Nat := match entry w with
      | some e => e.age
      | none => 0
    match minBy age (ready.filter (fun w => match entry w with
        | some e => (let x := nodeDesc d e.slot e.g; leafFree k d x.op x.bodyWords l && !reservedAgainst d e.g x.prio l)
        | none => false)) with
    | none => d
    | some w =>
      match entry w with
      | none => d
      | some e =>
        let d := endWait d w false
        let s := PState.start d (issueSlots w.disp) []
        serveWaitsN n k (commitOn w.disp k (readyList d w.disp) s e (nodeDesc d e.slot e.g) l).d l

/-- After credit has returned at a leaf, the nodes that wait for it are placed there, the oldest first (R102). -/
def serveWaits (k : Cfg) (d : Dyn) (l : Nat) : Dyn := serveWaitsN d.dp.waits.length k d l

end Sys2Proof.Machine
end

