-- ==== Sys2Proof/Machine/Ports.lean ====
section
/-! DEFINITION. Work ports and reports (R117, R121, R127, R133 to R144, R346, R350): PACKET_NOTICE, READ, IDLE_TIMEOUT, MARK,
REWIND, RELEASE, TAKEN_REPORT, CREDIT_RETURN, COMPLETION_REPORT, WAIT_TIMEOUT, HEARTBEAT, HANG. -/
namespace Sys2Proof.Machine

/-! ### The engine's side -/

/-- The tag and the packets after a notice: the first packet not noticed yet goes behind the noticed ones. -/
def noticeFirst (tag : Nat) (l : List Pkt) : List Pkt :=
  match l.find? (fun p => !p.noticed) with
  | none => l
  | some p =>
    l.filter (·.noticed) ++ [{ p with noticed := true, ptag := tag, beats := 4 * p.words.length }]
      ++ (dropFirst (fun q => !q.noticed) (l.filter (fun q => !q.noticed)))

/-- A point that lay past the last noticed packet lies at the new one. -/
def Pt.onNotice (p : Pt) (tag : Nat) : Pt := if p = .past then .at tag 0 else p

/-- The notice of the oldest packet in a port that has none, once a synthesised body is written (R127, R131, R134). -/
def packetNotice (l : Nat) (k : Cfg) (d : Dyn) : Dyn :=
  let e := getEng d l
  match e.pkts.find? (fun p => !p.noticed) with
  | none => d
  | some p =>
    if p.bodyWait then d
    else
      let tag := freshNat ((e.pkts.filter (·.noticed)).map (·.ptag))
      serveBlocked k (setEng d l { e with asm := p.words.getLastD e.asm, pkts := noticeFirst tag e.pkts, rp := e.rp.onNotice tag,
                                          sp := e.sp.map (fun s => s.onNotice tag) }) l

/-- READ (R133, R135, R136): a word, an idle item, or the READ blocks; a second one is a protocol error (R141). -/
def read (l : Nat) (idleTo : BitVec 21) (k : Cfg) (d : Dyn) : Dyn :=
  if !k.taskEngine l || opBlocked d l then d
  else if (getEng d l).blocked.isSome then protoError k d l 0 0 []
  else
    let d := modEng d l (fun e => { e with blocked := some (BitVec.ofNat 21 (capTo idleTo.toNat), d.fc), reqAge := d.rep.reqAge })
    serveBlocked k { d with rep := { d.rep with reqAge := d.rep.reqAge + 1 } } l

/-- The idle time-out of a blocked READ ends (R136): IDLE_TO cycles have passed since its presentation. -/
def idleTimeout (l : Nat) (_k : Cfg) (d : Dyn) : Dyn :=
  match (getEng d l).blocked with
  | some b => if b.1 = 0 || cyclesSince d b.2 < b.1.toNat then d else idleItem d l 1 (cyclesSince d b.2)
  | none => d

/-- MARK (R139). -/
def mark (l : Nat) (k : Cfg) (d : Dyn) : Dyn :=
  if !k.taskEngine l || opBlocked d l then d else modEng d l (fun e => { e with sp := some e.rp })

/-- REWIND (R139). -/
def rewind (l : Nat) (k : Cfg) (d : Dyn) : Dyn :=
  if !k.taskEngine l || opBlocked d l then d
  else match (getEng d l).sp with
    | none => out d (.noMark l)
    | some p => serveBlocked k (modEng d l (fun e => { e with rp := p })) l

/-- The statuses an engine may release with (R142). -/
def releaseCodes : List Nat := [0x00, 0x02, 0x03, 0x04, 0x06, 0x07, 0x09, 0x0A, 0x0B, 0x0E, 0x10]

/-- The status of a release. -/
def releaseStatus (code : Nat) : Status :=
  if releaseCodes.contains code then (Status.ofCode code).getD .badDescriptor else .badDescriptor

/-- Where a point that lay in the released packet moves. -/
def Engine.pastPkt (e : Engine) (tag : Nat) : Pt :=
  match nextAfter tag e.pkts with
  | some q => .at q.ptag 0
  | none => .past

def Pt.inPkt (p : Pt) (tag : Nat) : Bool :=
  match p with
  | .past => false
  | .at t _ => t = tag

/-- The words of a packet leave its port (R140); the last taken packet takes the count of silence with it. -/
def dropPkt (d : Dyn) (l : Nat) (p : Pkt) : Dyn :=
  let e := getEng d l
  let left := dropFirst (fun q => q.noticed && q.ptag = p.ptag) e.pkts
  let d := setEng d l
    { e with pkts := left, rp := if e.rp.inPkt p.ptag then e.pastPkt p.ptag else e.rp,
             sp := e.sp.filter (fun s => !s.inPkt p.ptag), silence := if left.any (·.taken) then e.silence else 0,
             hung := e.hung && left.any (·.taken) }
  let d := if p.sectEnd then out d (.sectEnd l false) else d
  if p.shadow && !left.any (fun q => q.taken && q.shadow) then out d (.shadowQual l false) else d

/-- RELEASE (R140 to R143): the packet goes, and its credit and its report are on their way. A task with an access refused by a
fallow bank fails with BANK_FALLOW (R412). -/
def release (l ptag : Nat) (status : Byte) (digest : W64) (k : Cfg) (d : Dyn) : Dyn :=
  if !k.taskEngine l || opBlocked d l then d
  else match ((getEng d l).tagged ptag).filter (·.taken) with
    | none => protoError k d l 3 status.toNat []
    | some p =>
      let d := dropPkt d l p
      let code : Byte := if p.fallow && status = 0 then BitVec.ofNat 8 Status.bankFallow.code else status
      let r : Report := { task := p.task, slot := p.slot, g := p.g, leaf := l, code := code, digest := digest,
                          tokdig := p.tokdig, hang := false }
      let threads := if p.op = kThread then 1 else 0
      let d := { d with rep := { d.rep with credits := d.rep.credits ++ [(l, p.words.length, threads, p.task)],
                                            reports := d.rep.reports ++ [r] } }
      if releaseCodes.contains status.toNat then d
      else fault k d { frec 0x0B .badDescriptor (unitOf l) with
        ctx := some p.ctx, launch := some p.slot, node := some p.g, eng := some (leafSlot l),
        detail := w64 (3 + status.toNat * 2 ^ 8) }

/-- A heartbeat pulse (R346). -/
def heartbeat (l : Nat) (k : Cfg) (d : Dyn) : Dyn :=
  if !k.taskEngine l then d else modEng d l (fun e => { e with silence := 0, hung := false })

/-- HANG: an engine that holds taken packets has been silent for HANG_LIMIT × 65,536 cycles. One record, and a report with
HANG for each packet it holds; both wait while no record can enter (Table 12.12). -/
def hang (l : Nat) (k : Cfg) (d : Dyn) : Dyn :=
  let e := getEng d l
  if !e.holdsTaken || e.hung || summaryFull d || e.silence < k.hangLimit.toNat * 65536 then d
  else
    let hit (p : Pkt) : Bool := p.taken && !p.hung
    let rs : List Report := (e.pkts.filter hit).map (fun p =>
      { task := p.task, slot := p.slot, g := p.g, leaf := l, code := BitVec.ofNat 8 Status.hang.code, digest := 0,
        tokdig := 0, hang := true })
    let d := setEng d l { e with pkts := mapIf hit (fun p => { p with hung := true }) e.pkts, hung := true }
    fault k { d with rep := { d.rep with reports := d.rep.reports ++ rs } }
      { frec 0x07 .hang (unitOf l) with
        eng := some (leafSlot l), detail := w64 e.silence }

/-! ### The root's side: taken reports and credit -/

def modTask (d : Dyn) (idx : Nat) (f : Task → Task) : Dyn :=
  { d with dp := { d.dp with tasks := mapIf (fun t => t.idx = idx) f d.dp.tasks } }

def taskAt (d : Dyn) (idx : Nat) : Option Task := d.dp.tasks.find? (fun t => t.idx = idx)

def Task.setCopy (t : Task) (l : Nat) (f : Copy → Copy) : Task := { t with copies := mapIf (fun c => c.leaf = l) f t.copies }

/-- The oldest taken report of a leaf reaches the root; with the last copy taken the node runs (R96, R118, R144). -/
def takenReport (l : Nat) (_k : Cfg) (d : Dyn) : Dyn :=
  match d.rep.takens.find? (fun t => t.1 = l) with
  | none => d
  | some t =>
    let d := { d with rep := { d.rep with takens := dropFirst (fun x => x = t) d.rep.takens } }
    let d := modTask d t.2 (fun x => x.setCopy l (fun c => { c with taken := true }))
    match taskAt d t.2 with
    | none => d
    | some x =>
      if x.kind = .node && !x.ended && x.copies.all (·.taken) && (getNode d x.g).st == .issued then
        modNode d x.g (fun n => { n with st := .running })
      else d

/-- A SECTION whose members have all released returns the credit it holds (R115). -/
def sectionCredit (k : Cfg) (d : Dyn) (task : Nat) : Dyn :=
  if d.en.any (fun e => e.2.pkts.any (fun p => p.task = task)) || d.rep.credits.any (fun c => c.2.2.2 = task) then d
  else
    let ls := (d.en.filter (fun e => e.2.secTask = some task)).map (·.1)
    let d := ls.foldl (fun d l => modEng d l (fun e => { e with secHeld := 0, secTask := none })) d
    ls.foldl (serveWaits k) d

/-- The oldest credit of a leaf returns (R102, R107, R115, R143). -/
def creditReturn (l : Nat) (k : Cfg) (d : Dyn) : Dyn :=
  match d.rep.credits.find? (fun c => c.1 = l) with
  | none => d
  | some c =>
    let d := { d with rep := { d.rep with credits := dropFirst (fun x => x = c) d.rep.credits } }
    let d := modEng d l (fun e =>
      { e with used := e.used - c.2.1, threads := e.threads - c.2.2.1,
               secHeld := if e.secTask.isSome then e.secHeld + c.2.1 else e.secHeld })
    sectionCredit k (serveWaits k d l) c.2.2.2

/-! ### The root's side: completion reports -/

/-- A SECTION has ended: the section-end watch entry of its task goes (R157). -/
def dropSectWatch (d : Dyn) (task : Nat) : Dyn :=
  { d with ch := { d.ch with sect := d.ch.sect.filter (fun w => w.task ≠ task) } }

/-- What a task's end does with its status: the node, the tile or the cold fetch. The affinity that a SECTION leaves is its first
member's leaf (log 108: DESIGN CHOICE). -/
def taskEnds (k : Cfg) (d : Dyn) (t : Task) (st : Status) (digest : Nat) : Dyn :=
  let leaf := ((t.copies.find? (fun c => !c.shadow)).map (·.leaf)).getD 0
  match t.kind with
  | .node =>
    let d := dropSectWatch d t.idx
    let n := getNode d t.g
    if n.st.terminal || n.launch ≠ t.slot then d
    else if st = .ok then settle (nodeDone d t.idx t.slot t.g (some leaf)) t.slot
    else settle (nodeFailed d t.slot t.g st) t.slot
  | .tile chan j idx => tileReleased k d t.slot chan j idx st
  | .fetch _ idx => fetchDone k d t.slot idx leaf st digest

/-- The record of a task's fault against a leaf. -/
def taskRec (d : Dyn) (t : Task) (mech : Nat) (st : Status) (l : Nat) : FRec :=
  { frec mech st (unitOf l) with
    ctx := (tget d.ls.slots t.slot).map (fun x => x.id.c), launch := some t.slot, node := some t.g, eng := some (leafSlot l) }

/-- R350: two copies that both report OK agree in DIGEST and TOKDIG. -/
def shadowCompare (k : Cfg) (d : Dyn) (t : Task) (a b : Copy) (x y : Status × Nat × Nat) : Status × Dyn :=
  if x.2 = y.2 then (.ok, d)
  else
    let o := if a.shadow then b else a
    let s := if a.shadow then a else b
    (.shadowMismatch, fault k d { taskRec d t 0x08 .shadowMismatch o.leaf with
      detail := w64 (s.leaf + (x.2.1 ^^^ y.2.1) % p32 * p32) })

/-- The status with which a task ends once enough of its copies have reported: a shadowed task at its first failure or when
both agree (R350), any other when every packet has (R117: the lowest leaf among those that failed first). -/
def taskVerdict (k : Cfg) (d : Dyn) (t : Task) : Option (Status × Nat × Dyn) :=
  let fails := t.copies.filter (fun c => c.report.any (fun r => r.1 ≠ .ok))
  let first := minBy (fun c => c.failAt * 65536 + c.leaf) fails
  let failed := (first.bind (·.report)).map (fun r => (r.1, r.2.1, d))
  match t.copies with
  | [a, b] =>
    if b.shadow then
      match failed with
      | some v => some v
      | none =>
        match a.report, b.report with
        | some x, some y =>
          let v := shadowCompare k d t a b x y
          some (v.1, x.2.1, v.2)
        | _, _ => none
    else if t.copies.all (fun c => c.report.isSome) then some (failed.getD (.ok, 0, d)) else none
  | [a] => a.report.map (fun r => (r.1, r.2.1, d))
  | _ => if t.copies.all (fun c => c.report.isSome) then some (failed.getD (.ok, 0, d)) else none

/-- A task has its status: its ranges are released first, but for those that a packet still held after HANG may be writing
(R77, R346, R350); it stands, ended, until its last packet is released. -/
def finishTask (k : Cfg) (d : Dyn) (t : Task) (st : Status) (digest : Nat) : Dyn :=
  let all := t.copies.all (·.released)
  let hungLeft := t.copies.any (fun c => !c.released && c.report.any (fun r => r.1 == .hang))
  let d := if hungLeft then d else freeRanges d t.idx
  let d := if all then dropTask d t.idx else modTask d t.idx (fun x => { x with ended := true })
  taskEnds k d t st digest

/-- A report of a task that is over is discarded; its last one frees the task (Table 4.3, R346, R350). A tile's USERS falls
when its ROUTE has gone before it. -/
def discardReport (d : Dyn) (t : Task) : Dyn :=
  if t.copies.all (·.released) then dropSectWatch (dropTask (freeRanges d t.idx) t.idx) t.idx else d

/-- A report that names no task issued to its leaf (R342). -/
def strayReport (k : Cfg) (d : Dyn) (r : Report) : Dyn :=
  let d := fault k d { frec 0x06 .conservation (unitOf r.leaf) with
    launch := some r.slot, node := some r.g, eng := some (leafSlot r.leaf),
    detail := w64 (2 ^ 16 + (r.slot * 2 ^ 20 + r.g) % p32 * p32) }
  failLaunch d r.slot .conservation

/-- The first report of a SURVEY packet is judged: its engine passes when it released with OK and DIGEST = EXPECT; otherwise its unit has failed,
with a record that names TEST and SET (R361, R362, Table 12.9; log 102: DESIGN CHOICE). -/
def surveyJudge (k : Cfg) (d : Dyn) (t : Task) (c : Copy) (st : Status) (digest : Nat) : Dyn :=
  let x := (nodeDesc d t.slot t.g).w2.toNat
  if t.op ≠ kSurvey || c.report.isSome || k.survey.pass = 0 then d
  else if st = .ok && digest = bits x 192 64 then unitPassed d (unitOf c.leaf)
  else
    let st' : Status := if st = .ok then .digestMismatch else st
    unitFailed (fault k d { taskRec d t 0x0D st' c.leaf with ctx := none, plane := 1, detail := w64 (bits x 0 18) }) (unitOf c.leaf)

/-- The record of an engine that reports ECC_UNCORR (R331). -/
def eccReport (k : Cfg) (d : Dyn) (t : Task) (r : Report) (st : Status) : Dyn :=
  if st = .eccUncorr && !r.hang then fault k d { taskRec d t 0x0C .eccUncorr r.leaf with detail := r.digest } else d

/-- A completion report is sampled. -/
def sampleReport (k : Cfg) (d : Dyn) (r : Report) : Dyn :=
  match taskAt d r.task with
  | none => strayReport k d r
  | some t0 =>
    match t0.copies.find? (fun c => c.leaf = r.leaf && !c.released) with
    | none => strayReport k d r
    | some c =>
      let st : Status := if r.hang then .hang else releaseStatus r.code.toNat
      let rep := if c.report.isSome then c.report else some (st, r.digest.toNat, r.tokdig)
      let t := t0.setCopy r.leaf (fun c =>
        { c with report := rep, failAt := if c.report.isSome then c.failAt else d.fc.toNat, released := !r.hang })
      let d := surveyJudge k (eccReport k (modTask d r.task (fun _ => t)) t r st) t c st r.digest.toNat
      if t.ended then
        let gone := match t.kind with
          | .tile _ _ idx =>
            if (taskVerdict k d t0).isNone && (taskVerdict k d t).isSome then
              modGaz d idx (fun x => { x with use := x.use - 1 }) else d
          | _ => d
        discardReport gone t
      else match taskVerdict k d t with
        | none => d
        | some v => finishTask k v.2.2 t v.1 v.2.1

/-- COMPLETION_REPORT: report `i` of those on their way, oldest first; those of one leaf arrive in order, after the taken
report and the credit of the packet (R143, R144). It waits while a record of its own cannot enter (Table 12.12). -/
def completionReport (i : Nat) (k : Cfg) (d : Dyn) : Dyn :=
  match d.rep.reports[i]? with
  | none => d
  | some r =>
    let early := (d.rep.reports.take i).any (fun x => x.leaf = r.leaf)
      || d.rep.takens.any (fun x => x = (r.leaf, r.task))
      || (!r.hang && d.rep.credits.any (fun x => x.1 = r.leaf && x.2.2.2 = r.task))
    if early || (mechWaits d 0x0D && (taskAt d r.task).any (fun t => t.op = kSurvey)) then d
    else
      let d' := sampleReport k { d with rep := { d.rep with reports := d.rep.reports.eraseIdx i } } r
      if d.fs.waiting.length < d'.fs.waiting.length then d else d'

/-! ### Wait time-outs (R120 to R122) -/

/-- A running child launch of a GRAPH node is cancelled. -/
def cancelChildren (d : Dyn) (slot g : Nat) : Dyn :=
  (d.ls.slots.filter (fun e => e.2.parent = some (slot, g) && e.2.inFlight)).foldl (fun d e => failLaunch d e.1 .cancelled) d

/-- What a time-out does with an issued or running task (Table 4.3). -/
def timeoutTask (d : Dyn) (t : Task) : Dyn :=
  let d := if t.op = kSection && (getNode d t.g).st == .running then raiseSectEnd d t.idx else d
  if onEngines t.op || t.op = kGraph then modTask d t.idx (fun x => { x with ended := true }) else d

/-- The deadline of a node: WAITTO × 1,000 ticks after its launch's instantiation (R120). -/
def nodeDeadline (d : Dyn) (l : Launch) (slot g : Nat) : W64 := l.instTs + w64 ((nodeDesc d slot g).waitTo * 1000)

/-- WAIT_TIMEOUT: the deadline of a node is reached by the timestamp, compared as in R151 (R120, R172). -/
def waitTimeout (g : Nat) (_k : Cfg) (d : Dyn) : Dyn :=
  let n := getNode d g
  let slot := n.launch
  match tget d.ls.slots slot with
  | none => d
  | some l =>
    if n.st == .idle || n.st.terminal || l.phase ≠ .running || (nodeDesc d slot g).waitTo = 0
        || !reached d.ts (nodeDeadline d l slot g) then d
    else
      let d := count d cNodeTmo 1
      let t := taskOf d slot g
      let d := match t with
        | some t => timeoutTask d t
        | none => dropWaiting d slot g
      let d := modNode d g (fun n => { n with st := .timedOut, start := false })
      let d := failLaunch d slot .timeout
      let d := if (nodeDesc d slot g).op = kGraph then cancelChildren d slot g else d
      settle d slot

end Sys2Proof.Machine
end

