-- ==== Sys2Proof/Machine/Arrivals.lean ====
section
/-! DEFINITION. Arrivals of tokens and their acknowledgements, and the link endpoints (R176, R182, R183, R193 to R197, R425,
R445): TOKEN_ARRIVAL, LOGIT_CHUNK, EVAL_REQUEST, TOKEN_ACK, LINK_FRAME, LINK_RETRANSMIT_REQUEST, LINK_CONFIRMATION,
LINK_CONFIRM_SEND, LINK_CONFIRM_TIMEOUT, LINK_UP_CHANGE. -/
namespace Sys2Proof.Machine

/-! ### Token frames (Table 16.9) -/

def fHdr (f : BitVec 576) : W64 := f.extractLsb' 0 64
def fSrc (f : BitVec 576) : W64 := f.extractLsb' 64 64
def fPay (f : BitVec 576) : W256 := f.extractLsb' 128 256
def fDdig (f : BitVec 576) : W64 := f.extractLsb' 384 64
def fKind (f : BitVec 576) : Nat := bits f.toNat 448 8
def fStatus (f : BitVec 576) : Nat := bits f.toNat 456 8
def fOpslot (f : BitVec 576) : Nat := bits f.toNat 464 3
def fSeq (f : BitVec 576) : W32 := f.extractLsb' 480 32
def fAckseq (f : BitVec 576) : W32 := f.extractLsb' 512 32
def fCheck (f : BitVec 576) : Nat := bits f.toNat 544 32

/-- The check code of bits [543:0]. -/
def frameCheck (f : Nat) : Nat := crc32c (leBytes 68 (bits f 0 544))

/-- A frame as a link sends it, its SEQ, ACKSEQ and CHECK filled in. -/
def sealFrame (body : Nat) (seq ackseq : W32) : BitVec 576 :=
  let f := bits body 0 480 + seq.toNat * 2 ^ 480 + ackseq.toNat * 2 ^ 512
  BitVec.ofNat 576 (f + frameCheck f * 2 ^ 544)

def tokFrame (t : Tok) (opslot : Nat) : Nat :=
  t.hdr.toNat + t.src.toNat * 2 ^ 64 + t.payload.toNat * 2 ^ 128 + t.ddig.toNat * 2 ^ 384 + 1 * 2 ^ 448 + opslot % 8 * 2 ^ 464

def ackFrame (t : Tok) (st : Status) (opslot : Nat) : Nat :=
  t.hdr.toNat + t.src.toNat * 2 ^ 64 + 2 * 2 ^ 448 + st.code * 2 ^ 456 + opslot % 8 * 2 ^ 464

/-- Link-control frames: KIND 3 or 4 with ACKSEQ alone. -/
def ctlFrame (kind : Nat) (ackseq : W32) : BitVec 576 := sealFrame (kind * 2 ^ 448) 0 ackseq

/-! ### Link endpoints (R445) -/

/-- The endpoint of a link port is built, populated and may send. -/
def linkOk (k : Cfg) (d : Dyn) (p : Nat) : Bool := (tget k.boot.links p).isSome && (getLink d p).up

def linkLog (p : Nat) : Nat := rootLog (3 + p)

/-- Sends a token or acknowledgement frame and keeps it until it is confirmed; it carries the ACKSEQ that is owed. -/
def linkSend (d : Dyn) (p body : Nat) (token : Bool) : Dyn :=
  let x := getLink d p
  let f := sealFrame body x.txSeq x.rxSeq
  let x := { x with txSeq := x.txSeq + 1, unconf := x.unconf ++ [(f, 0, d.fc)], owed := false,
                    tokSent := if token then x.tokSent + 1 else x.tokSent,
                    ackSent := if token then x.ackSent else x.ackSent + 1 }
  out (setLink d p x) (.linkTx p f)

/-- ACKSEQ lies beyond SEQ, modulo 2^32. -/
def seqBelow (seq ackseq : W32) : Bool := seq ≠ ackseq && dist32 seq ackseq < 2 ^ 31

/-- Confirms every frame below an ACKSEQ. -/
def confirmTo (d : Dyn) (p : Nat) (ackseq : W32) : Dyn :=
  let x := getLink d p
  setLink d p { x with peerAck := ackseq, unconf := x.unconf.filter (fun u => !seqBelow (fSeq u.1) ackseq) }

/-! ### Senders -/

/-- The slot a sender gives its frames: an engine its operation slot, a combining queue its QIDX (log 30: DEDUCED). -/
def senderSlot (s : Sender) : Nat :=
  match s with
  | .engine _ j _ => j
  | .comb q _ _ => q % 8
  | _ => 0

/-- The sender of this chip that an acknowledgement frame answers. -/
def ackSender (d : Dyn) (hdr src : W64) (opslot : Nat) : Option Sender :=
  let l := sLeaf src
  if isCombDest l then
    let q := combQueue l opslot
    (d.cb.tags.find? (fun t => t.q = q && t.tag = hTag hdr && t.st.isSending)).map (fun t =>
      .comb q t.tag (match t.st with
        | .sending n => n
        | _ => 0))
  else
    (getOp d l opslot).bind (fun o =>
      (o.tgts.find? (fun t => t.st == .sent && t.hdr = hdr)).map (fun t => .engine l opslot t.i))

def pushAck (d : Dyn) (t : Tok) (st : Status) : Dyn :=
  { d with tk := { d.tk with acks := d.tk.acks ++ [{ tok := t, status := st }] } }

/-! ### Arrivals (R182, R183, R193) -/

/-- The token stays on this chip. -/
def endsHere (k : Cfg) (t : Tok) : Bool := k.local t.hdr

/-- Which intake a local token ends at: 0 a receive queue or the combining intake, 1 the routing intake, 2 the SFU intake. -/
def intakeOf (t : Tok) : Nat :=
  if isRootRef (hDest t.hdr) then (if leafStub (hDest t.hdr) = 0xF8 then 1 else if leafStub (hDest t.hdr) = 0xF9 then 2 else 0)
  else 0

/-- A decided token: its log, the refusal counts, its acknowledgement on the way back. -/
def decided (d : Dyn) (key : Nat) (t : Tok) (st : Status) : Dyn :=
  let d := if st = .ok then d else count d cTokNak 1
  let d := if st ≠ .ok && key < 65536 then count d (cRegNak (leafRegion (16 * key))) 1 else d
  pushAck (logPut d key t st.code) t st

/-- A token that arrived over a link for a destination that is absent is refused at the endpoint (R176). -/
def linkRefused (k : Cfg) (t : Tok) : Option Nat :=
  match t.sender with
  | .link p _ => if destAbsent k (hDest t.hdr) then some p else none
  | _ => none

/-- A local token is decided at its queue or intake. A chunk from another chip is refused: logits reach the routing engine of
their own chip (R225, log 31: DEDUCED). -/
def decideHere (k : Cfg) (d : Dyn) (t : Tok) : Dyn :=
  match linkRefused k t with
  | some p => decided d (linkLog p) t .noRoute
  | none =>
    let dest := hDest t.hdr
    if !isRootRef dest then
      let r := queueDecide d t
      decided r.2 (stubLog (dest / 16)) t r.1
    else if intakeOf t = 1 then
      let r := if sChip t.src = k.boot.chipId then chunkDecide k d t else (.noRoute, d)
      decided r.2 (rootLog 1) t r.1
    else if intakeOf t = 2 then
      let r := evalDecide d t
      decided r.2 (rootLog 2) t r.1
    else
      let r := combDecide k d t
      decided r.2 (rootLog 0) t r.1

/-- A token for another chip reaches its link endpoint: it leaves, waits while 64 frames are unconfirmed, or meets a link
that is down (R194, R445). -/
def forward (k : Cfg) (d : Dyn) (t : Tok) : Option Dyn :=
  let src := sLeaf t.src
  let mask := (tgetD d.tk.routes (hChip t.hdr) 0).toNat
  if mask = 0 then some (pushAck (count d cTokNak 1) t .noRoute)
  else
    let p := portOfPair d.lk.key.toNat src (hChip t.hdr) (hDest t.hdr) (hQ t.hdr) mask
    if !linkOk k d p then some (decided d (linkLog p) t .noRoute)
    else if 64 ≤ (getLink d p).unconf.length then none
    else some (linkSend (logPut d (linkLog p) t 0xFF) p (tokFrame t (senderSlot t.sender)) true)

/-- Takes token `i` of those on the fabric through its arrival, when it ends at this kind of intake. Tokens of one pair
arrive in the order sent: one of a pair is in flight (R187). -/
def arrival (i kind : Nat) (k : Cfg) (d : Dyn) : Dyn :=
  match d.tk.flight[i]? with
  | none => d
  | some t =>
    let d1 := { d with tk := { d.tk with flight := d.tk.flight.eraseIdx i } }
    if endsHere k t then (if intakeOf t = kind then decideHere k d1 t else d)
    else if kind = 0 then (forward k d1 t).getD d
    else d

/-! ### Acknowledgements (R187) -/

/-- An acknowledgement for a token that came over a link leaves over it, when the endpoint can send. -/
def ackBack (k : Cfg) (d : Dyn) (t : Tok) (st : Status) (p opslot : Nat) : Option Dyn :=
  if !linkOk k d p || 64 ≤ (getLink d p).unconf.length then none
  else some (linkSend d p (ackFrame t st opslot) false)

/-- TOKEN_ACK: acknowledgement `i` of those on their way reaches its sender. -/
def tokenAck (i : Nat) (k : Cfg) (d : Dyn) : Dyn :=
  match d.tk.acks[i]? with
  | none => d
  | some a =>
    let d1 := { d with tk := { d.tk with acks := d.tk.acks.eraseIdx i } }
    match a.tok.sender with
    | .engine l j n => sendAcked k d1 l j n a.status
    | .comb q tag part => combAcked k d1 q tag part a.status
    | .tally slot chan j => tallyAcked k d1 slot chan j a.status
    | .sfu n => sfuAcked k d1 n a.status
    | .link p opslot => (ackBack k d1 a.tok a.status p opslot).getD d

/-! ### Received frames (R445, R196) -/

/-- The receiving endpoint asks for every frame from the one it expects, and discards until it comes. -/
def askAgain (d : Dyn) (p : Nat) : Dyn :=
  let x := getLink d p
  out (setLink d p { x with discarding := true }) (.linkTx p (ctlFrame 3 x.rxSeq))

/-- A confirmation is owed, from the first frame received since the last one sent. -/
def Link.owes (x : Link) (fc : W64) : Link := { x with owed := true, owedFrom := if x.owed then x.owedFrom else fc }

/-- A frame in sequence: a token goes to its destination, an acknowledgement to its sender. A token for another chip is
refused with NO_ROUTE (R193). -/
def takeFrame (k : Cfg) (d : Dyn) (p : Nat) (f : BitVec 576) : Dyn :=
  let x := getLink d p
  let tok : Tok := { hdr := fHdr f, src := fSrc f, payload := fPay f, ddig := fDdig f, sender := .link p (fOpslot f) }
  if fKind f = 1 then
    let d := setLink d p { x.owes d.fc with rxSeq := x.rxSeq + 1, discarding := false, tokRcvd := x.tokRcvd + 1 }
    if hChip tok.hdr ≠ k.boot.chipId then decided d (linkLog p) tok .noRoute
    else { d with tk := { d.tk with flight := d.tk.flight ++ [tok] } }
  else
    let d := setLink d p { x.owes d.fc with rxSeq := x.rxSeq + 1, discarding := false, ackRcvd := x.ackRcvd + 1 }
    match ackSender d (fHdr f) (fSrc f) (fOpslot f), Status.ofCode (fStatus f) with
    | some s, some st => pushAck d { tok with sender := s } st
    | _, _ => d

/-- A record of this port's link waits; so does the endpoint's next frame (Table 12.12). -/
def linkWaits (k : Cfg) (d : Dyn) (p : Nat) : Bool :=
  d.fs.waiting.any (fun w => w.record.mech = 0x0A && w.record.detail = w64 (p % 16) && w.record.unit = unitOf (tgetD k.boot.links p 0))

/-- The first frame that is to be sent again, given up after its third retransmission: it is taken out, the frames behind it
move up one SEQ, and a token's sender is answered NO_ROUTE (R196, log 32: DEDUCED). -/
def giveUp (k : Cfg) (d : Dyn) (p : Nat) (f : BitVec 576) : Dyn :=
  let x := getLink d p
  let shift (u : BitVec 576 × Nat × W64) : BitVec 576 × Nat × W64 :=
    if seqBelow (fSeq f) (fSeq u.1) then (sealFrame u.1.toNat (fSeq u.1 - 1) (fAckseq u.1), u.2) else u
  let d := setLink d p { x with unconf := (x.unconf.filter (fun u => u.1 ≠ f)).map shift, txSeq := x.txSeq - 1 }
  let d := fault k d { frec 0x0A .linkDigest (unitOf (tgetD k.boot.links p 0)) with detail := w64 (p % 16) }
  if fKind f ≠ 1 then d
  else match ackSender d (fHdr f) (fSrc f) (fOpslot f) with
    | some s => pushAck d { hdr := fHdr f, src := fSrc f, payload := fPay f, ddig := fDdig f, sender := s } .noRoute
    | none => d

/-- Sends every unconfirmed frame again, in order, with the ACKSEQ of now; the first counts the retransmission. -/
def resend (d : Dyn) (p : Nat) : Dyn :=
  let x := getLink d p
  let again (u : BitVec 576 × Nat × W64) : BitVec 576 × Nat × W64 := (sealFrame u.1.toNat (fSeq u.1) x.rxSeq, u.2.1, d.fc)
  let us := x.unconf.map again
  let us' := match us with
    | [] => []
    | u :: r => (u.1, u.2.1 + 1, u.2.2) :: r
  us.foldl (fun d u => out d (.linkTx p u.1)) (setLink d p { x with unconf := us', owed := false })

/-- A retransmit request for the frames from `seq` on. A fourth failure gives the token up; that waits while no record can
enter. -/
def retransmit (k : Cfg) (d : Dyn) (p : Nat) (seq : W32) : Dyn :=
  if !linkOk k d p then d
  else
    let d1 := confirmTo d p seq
    match (getLink d1 p).unconf with
    | [] => d1
    | u :: _ =>
      if u.2.1 < 3 then resend d1 p
      else if summaryFull d then d
      else resend (giveUp k d1 p u.1) p

/-- KIND 3 from the peer. -/
def linkRetransmitRequest (p : Nat) (seq : W32) (k : Cfg) (d : Dyn) : Dyn := retransmit k d p seq

/-- KIND 4 from the peer. -/
def linkConfirmation (p : Nat) (ackseq : W32) (k : Cfg) (d : Dyn) : Dyn :=
  if linkOk k d p then confirmTo d p ackseq else d

/-- A frame of the peer. While one with a bad CHECK is asked for again, frames out of sequence are discarded (log 32: DEDUCED). -/
def linkFrame (p : Nat) (f : BitVec 576) (k : Cfg) (d : Dyn) : Dyn :=
  if !linkOk k d p || linkWaits k d p then d
  else if fCheck f ≠ frameCheck f.toNat then askAgain d p
  else if fKind f = 3 then retransmit k d p (fAckseq f)
  else
    let d := confirmTo d p (fAckseq f)
    if fKind f = 1 || fKind f = 2 then
      if fSeq f = (getLink d p).rxSeq then takeFrame k d p f
      else if (getLink d p).discarding then d
      else askAgain d p
    else d

/-- Confirms what has been received, when no frame of its own has done so within 256 cycles. -/
def linkConfirmSend (p : Nat) (k : Cfg) (d : Dyn) : Dyn :=
  let x := getLink d p
  if !linkOk k d p || !x.owed || cyclesSince d x.owedFrom < 256 then d
  else out (setLink d p { x with owed := false }) (.linkTx p (ctlFrame 4 x.rxSeq))

/-- The unconfirmed frames that were sent, or sent again, 4,096 cycles ago count as confirmed. -/
def linkConfirmTimeout (p : Nat) (k : Cfg) (d : Dyn) : Dyn :=
  if (tget k.boot.links p).isSome then
    let x := getLink d p
    setLink d p { x with unconf := x.unconf.filter (fun u => cyclesSince d u.2.2 < 4096) }
  else d

/-- LNK_UP of a built endpoint changes. -/
def linkUpChange (p : Nat) (up : Bool) (k : Cfg) (d : Dyn) : Dyn :=
  if p < k.build.linkMax then setLink d p { getLink d p with up := up } else d

end Sys2Proof.Machine
end

