-- ==== Sys2Proof/Machine/Completions.lean ====
section
/-! DEFINITION. Completions and interrupts (R291, R297 to R302, R322, R323): COMPLETION_ENTRY, COMPLETION_WRITE_ACK,
IRQ_HOLD_EXPIRY, CPL_HEAD_WRITE, FE_POST, and the FENCE's condition. -/
namespace Sys2Proof.Machine

/-! ### Completion entries (Table 10.9) -/

/-- An entry without its CSEQ, PHASE and cairn record. -/
def entryWord (kind : Nat) (st : Status) (dseq : W32) (ring op : Nat) (consumed : W32) (value userdata : W64) : Nat :=
  dseq.toNat * 2 ^ 32 + kind * 2 ^ 64 + st.code * 2 ^ 72 + ring % 8 * 2 ^ 80 + op * 2 ^ 88 + consumed.toNat * 2 ^ 96
    + value.toNat * 2 ^ 128 + userdata.toNat * 2 ^ 192

def eKindOf (w : BitVec 512) : Nat := bits w.toNat 64 8
def eStatusOf (w : BitVec 512) : Nat := bits w.toNat 72 8
def eValueOf (w : BitVec 512) : Nat := bits w.toNat 128 64

/-- Free values `i` of those that an entry takes where the spec states nothing (log 33: DESIGN CHOICE). -/
def freeW (d : Dyn) (i : Nat) : W64 := Config.freeWord (d.free + i)

def useFree (d : Dyn) (n : Nat) : Dyn := { d with free := d.free + n }

/-- The completion ring has space (R299): entries written and not yet acknowledged take theirs. -/
def cplRoom (d : Dyn) (c : Nat) : Bool :=
  let x := getCtx d c
  x.isOpen && x.cplEn && dist32 x.cplHead x.cplNext < 2 ^ x.cplLog2.toNat

/-- PHASE of entry j (R298). -/
def phaseOf (j : W32) (log2 : Nat) : Nat := 1 - (j.toNat >>> log2) % 2

def entryBytes (x : Ctx) : Nat := if x.rev = 1 then 32 else 64

/-- Posts an entry with the next CSEQ: its write to the ring (R297, R298). `asked` says that its command set IRQ. -/
def postEntry (k : Cfg) (d : Dyn) (c : Nat) (w : BitVec 512) (asked : Bool) : Dyn :=
  let x := getCtx d c
  let j := x.cplNext
  let kind := eKindOf w
  let full := setBits (setBits w.toNat 0 32 x.cseq.toNat) 87 1 (phaseOf j x.cplLog2.toNat)
  let qual := asked || kind ≠ 0 || eStatusOf w ≠ 0
  let record := if kind = 3 then some (eValueOf w) else none
  let d := setCtx d c { x with cseq := x.cseq + 1, cplNext := j + 1 }
  busWrite k d ((x.cplBase.toNat + j.toNat % 2 ^ x.cplLog2.toNat * entryBytes x) % p64) (leBytes (entryBytes x) full)
    (.completion c (some j) qual record)

/-- RING_ERROR and FAULT entries of a context, in order, while the ring has space. -/
def flushPosts (k : Cfg) (d : Dyn) (c : Nat) : Dyn :=
  d.fe.posts.foldl (fun d p =>
    if p.1 = c && cplRoom d c then postEntry k d c p.2 false
    else { d with fe := { d.fe with posts := d.fe.posts ++ [p] } }) { d with fe := { d.fe with posts := [] } }

/-- An entry of the front end or the firmware is to be posted. -/
def addPost (k : Cfg) (d : Dyn) (c : Nat) (w : BitVec 512) : Dyn :=
  flushPosts k { d with fe := { d.fe with posts := d.fe.posts ++ [(c, w)] } } c

/-! ### FENCE (R291) -/

/-- Every earlier command of a fence's scope has completed. -/
def fenceMet (d : Dyn) (x : Cmd) (all : Bool) : Bool :=
  !d.fe.cmds.any (fun y => y.id.c = x.id.c && (all || y.id.r = x.id.r) && y.seq < x.seq)

/-- FENCEs whose condition holds complete. -/
def fenceCheck (d : Dyn) : Dyn :=
  d.fe.cmds.foldl (fun d x =>
    match x.stage with
    | .fence all => if fenceMet d x all then finish d x.id cFence .ok 0 else d
    | _ => d) d

/-! ### COMPLETION_ENTRY -/

/-- Taken commands not yet completed (R301), with the standing service's step in flight (R305). -/
def ctxInflight (d : Dyn) (c : Nat) : Nat :=
  (d.fe.cmds.filter (fun x => x.id.c = c)).length + b2n (d.sv.run && d.sv.ctx = c && d.sv.inFlight)

/-- The cairn record (Table 11.4). -/
def cairn (prog wdigest idigest stepv : W64) (seedidx ftv : Nat) (mode : Byte) : Nat :=
  prog.toNat + wdigest.toNat * 2 ^ 64 + idigest.toNat * 2 ^ 128 + stepv.toNat % p32 * 2 ^ 192
    + seedidx % 65536 * 2 ^ 224 + ftv % 256 * 2 ^ 240 + mode.toNat * 2 ^ 248

/-- The cairn record of a host launch's completion return (R323). -/
def launchCairn (k : Cfg) (x : Cmd) (r : Ret) : Nat :=
  cairn r.prog (w64 (opn x.ops 32 8)) (w64 (opn x.ops 40 8)) r.stepv (opn x.ops 20 4) k.ftv.toNat r.mode

/-- A command has completed: it no longer counts, and fences behind it are tried (R291, R301). -/
def cmdGone (d : Dyn) (x : Cmd) : Dyn :=
  fenceCheck { d with fe := { d.fe with cmds := d.fe.cmds.filter (fun y => y.seq ≠ x.seq) } }

/-- A refused command's entry (R290): no return, so no cairn record (log 34: DEDUCED). -/
def postRefused (k : Cfg) (d : Dyn) (x : Cmd) : Dyn :=
  let w := BitVec.ofNat 512 (entryWord 0 .badDescriptor x.id.dseq x.id.r x.op x.consumed 0 x.userdata)
  cmdGone (postEntry k d x.id.c w x.irq) x

/-- Marks a return as turned into its entry. -/
def markRet (d : Dyn) (r : Ret) : Dyn :=
  { d with lt := { d.lt with rets := mapFirst (· = r) (fun x => { x with fe := true }) d.lt.rets } }

/-- The front end or the firmware has used a return. -/
def Ret.spent (r : Ret) : Bool := r.fe || 2 ≤ r.kind

/-- The rows of a returned launch are freed with its slot (R17, R453). -/
def freeSlot (d : Dyn) (s : Nat) : Dyn :=
  match tget d.ls.slots s with
  | some l => if l.inFlight then d else freeRows { d with ls := { d.ls with slots := tdel d.ls.slots s } } l
  | none => d

/-- A return that the firmware has freed and that nothing reads any longer. -/
def Ret.gone (r : Ret) : Bool := r.popped && r.spent

/-- Freed returns leave the launch table, and with a launch's return goes its slot (R17, R299). -/
def reapRets (d : Dyn) : Dyn :=
  (d.lt.rets.filterMap (fun r => if r.gone then r.slot else none)).foldl freeSlot
    { d with lt := { d.lt with rets := d.lt.rets.filter (fun r => !r.gone) } }

def ledgerCap : Nat := 2048

/-- A launch that completes stands in the ledger until the check interval after its own has been compared (R344). -/
def ledgerAdd (d : Dyn) (r : Ret) : Dyn :=
  match r.slot.bind (fun s => (tget d.ls.slots s).map (fun l => (s, l))) with
  | none => d
  | some (s, l) =>
    let e : LedgerEntry := { id := r.id, slot := s, banks := l.touch, banksPrev := l.touchPrev, old := false }
    { d with fe := { d.fe with ledger := d.fe.ledger ++ [e] } }

/-- The entry of a command's return. -/
def postCommand (k : Cfg) (d : Dyn) (r : Ret) : Dyn :=
  match d.fe.cmds.find? (fun x => x.id = r.id && x.stage ≠ .refused) with
  | none => markRet d r
  | some x =>
    let rec2 := (getCtx d r.id.c).rev = 2
    let rec0 := if r.op = cLaunch && rec2 then launchCairn k x r * 2 ^ 256 else 0
    let w := BitVec.ofNat 512 (entryWord 0 r.status r.id.dseq r.id.r r.op x.consumed r.value x.userdata + rec0)
    let d := postEntry k (markRet d r) r.id.c w x.irq
    cmdGone (ledgerAdd d r) x

/-- The entry of a HOST node's return: CONSUMED is its LAUNCH's (for a service step, which no ring entry took, a free value). -/
def postNotify (k : Cfg) (d : Dyn) (r : Ret) : Dyn :=
  let x := d.fe.cmds.find? (fun x => x.id = r.id)
  let consumed := (x.map (·.consumed)).getD ((freeW d 0).setWidth 32)
  let w := BitVec.ofNat 512 (entryWord 1 .ok r.id.dseq r.id.r cLaunch consumed r.value (r.note.setWidth 64))
  postEntry k (markRet (useFree d 1) r) r.id.c w false

/-- A return that the front end turns into an entry; a step's completion goes to the firmware (R309). -/
def Ret.forEntry (r : Ret) (c : Nat) : Bool := r.id.c = c && !r.fe && ((r.kind = 0 && !r.svc) || r.kind = 1)

/-- The oldest return of a context that may be posted: a launch's waits while the ledger is full (R344). -/
def retFor (d : Dyn) (c : Nat) : Option Ret :=
  d.lt.rets.find? (fun r => r.forEntry c && !(r.slot.isSome && ledgerCap ≤ d.fe.ledger.length))

/-- COMPLETION_ENTRY: entries of the front end that wait, then a refused command, then the oldest return. -/
def completionEntry (c : Nat) (k : Cfg) (d : Dyn) : Dyn :=
  if !cplRoom d c then d
  else if d.fe.posts.any (fun p => p.1 = c) then flushPosts k d c
  else match minBy Cmd.seq (d.fe.cmds.filter (fun x => x.id.c = c && x.stage == .refused)) with
    | some x => postRefused k d x
    | none =>
      match retFor d c with
      | some r => if r.kind = 1 then postNotify k d r else postCommand k d r
      | none => d

/-! ### Interrupts (R302) -/

def irqVector (x : Ctx) : Nat := bits x.irq.toNat 0 11
def irqMode (x : Ctx) : Nat := bits x.irq.toNat 12 2
def irqHold (x : Ctx) : Nat := bits x.irq.toNat 24 8

/-- COALESCE as it acts. -/
def irqCoalesce (x : Ctx) : Nat := max 1 (min 64 (bits x.irq.toNat 16 7))

def irqOn (x : Ctx) : Bool := irqMode x = 1 || irqMode x = 2

/-- Requests the interrupt for every entry that is pending. -/
def irqRequest (d : Dyn) (c : Nat) : Dyn :=
  out (modCtx d c (fun x => { x with irqPend := 0 })) (.msix (irqVector (getCtx d c)))

/-- The interrupt is due by COALESCE, or at once under HOLD 0. -/
def irqCheck (d : Dyn) (c : Nat) : Dyn :=
  let x := getCtx d c
  if irqOn x && 0 < x.irqPend && (irqCoalesce x ≤ x.irqPend || irqHold x = 0) then irqRequest d c else d

/-- An entry of a context counts toward its interrupt once its write is acknowledged. -/
def irqCount (d : Dyn) (c : Nat) (qual : Bool) : Dyn :=
  let x := getCtx d c
  if irqMode x = 2 || (irqMode x = 1 && qual) then
    irqCheck (modCtx d c (fun x => { x with irqPend := x.irqPend + 1, irqFrom := if x.irqPend = 0 then d.fc else x.irqFrom })) c
  else d

/-- HOLD units of 256 cycles have passed since the first pending entry. -/
def irqHoldExpiry (c : Nat) (_k : Cfg) (d : Dyn) : Dyn :=
  let x := getCtx d c
  if irqOn x && 0 < x.irqPend && irqHold x * 256 ≤ cyclesSince d x.irqFrom then irqRequest d c else d

/-! ### COMPLETION_WRITE_ACK -/

/-- Indices of a context's entries whose writes are outstanding. -/
def cplOut (d : Dyn) (c : Nat) : List W32 :=
  d.bus.writes.filterMap (fun j => match j.use with
    | .completion c' (some i) _ _ => if c' = c then some i else none
    | _ => none)

/-- TAIL: the oldest entry whose write is outstanding, else the next one (R298). -/
def cplTailNow (d : Dyn) (c : Nat) : W32 :=
  let x := getCtx d c
  (minBy (fun i => dist32 x.cplTail i) (cplOut d c)).getD x.cplNext

/-- The FAULT entry of a record has been written (R334, R344). -/
def recordPosted (d : Dyn) (c n : Nat) : Dyn :=
  { d with fs := { d.fs with recs := tmod d.fs.recs n (fun e =>
    if e.record.ctx = some c then { e with posted := true } else e) } }

/-- The write of an entry has been acknowledged; its job is gone from the port already. -/
def entryAcked (d : Dyn) (c : Nat) (idx : Option W32) (qual : Bool) (record : Option Nat) : Dyn :=
  let d := if idx.isSome then modCtx d c (fun x => { x with cplTail := cplTailNow d c }) else d
  let d := match record with
    | some n => recordPosted d c n
    | none => d
  irqCount d c qual

/-- The write of an entry of the context. -/
def isEntryOf (c : Nat) (j : WrJob) : Bool :=
  match j.use with
  | .completion c' _ _ _ => c' = c
  | _ => false

/-- The oldest outstanding completion write of a context is acknowledged. -/
def completionWriteAck (c : Nat) (_k : Cfg) (d : Dyn) : Dyn :=
  match d.bus.writes.find? (isEntryOf c) with
  | none => d
  | some j =>
    match j.use with
    | .completion _ idx qual record =>
      entryAcked { d with bus := { d.bus with writes := dropFirst (fun w => w = j) d.bus.writes } } c idx qual record
    | _ => d

/-! ### The completion ring's registers (R383, R385) -/

/-- CPL_HEAD_WRITE. -/
def cplHeadWrite (c : Nat) (v : W32) (k : Cfg) (d : Dyn) : Dyn :=
  let x := getCtx d c
  if !x.isOpen then d
  else if dist32 x.cplHead x.cplTail < dist32 x.cplHead v then setCtx d c { x with cplIgn := true }
  else flushPosts k (setCtx d c { x with cplHead := v }) c

/-- Entry writes of a context that is being set up anew keep no index. -/
def forgetIdx (d : Dyn) (c : Nat) : Dyn :=
  let f (j : WrJob) : WrJob := match j.use with
    | .completion c' _ q r => if c' = c then { j with use := .completion c' none q r } else j
    | _ => j
  { d with bus := { d.bus with writes := d.bus.writes.map f } }

/-- CPL_RING_CONFIG: CTX_CPL_BASE, or CTX_CPL_CFG (R280, R385). -/
def cplRingConfig (c : Nat) (base : Bool) (v : W64) (k : Cfg) (d : Dyn) : Dyn :=
  let x := getCtx d c
  let en := bit v.toNat 31
  let log2 := bits v.toNat 0 5
  let subs := x.rings.any (fun r => r.2.en)
  if !x.isOpen then d
  else if x.cplEn then
    if !base && !en && !subs then setCtx d c { x with cplEn := false } else setCtx d c { x with cplIgn := true }
  else if base then setCtx d c { x with cplBase := v }
  else
    let x := { x with cplLog2 := BitVec.ofNat 5 log2 }
    if en && 4 ≤ log2 && log2 ≤ 16 && x.cplBase.toNat % 4096 = 0 then
      flushPosts k (setCtx (forgetIdx d c) c { x with cplEn := true, cplHead := 0, cplTail := 0, cplNext := 0 }) c
    else setCtx d c x

/-- FE_POST: the firmware posts the entry staged at FE_ENTRY to a context (Table 13.21). -/
def fePost (c : Nat) (w : BitVec 512) (k : Cfg) (d : Dyn) : Dyn :=
  let d := { d with fe := { d.fe with entry := w } }
  if (getCtx d c).isOpen then addPost k d c w else d

end Sys2Proof.Machine
end

