-- ==== Sys2Proof/Machine/Rings.lean ====
section
/-! DEFINITION. Submission rings (R280 to R290, R300, R311, R325, R326, R384): RING_FETCH_READ, RING_FETCH_RETURN,
RING_DOORBELL, RING_ENABLE, RING_DISABLE, STOP_REQ, RING_RESUME, and the other ring registers. -/
namespace Sys2Proof.Machine

def ringCount : Nat := 6

/-! ### Ring errors (R300) -/

def Ring.fetching (g : Ring) : Bool := g.fetch.isSome

/-- What a ring has fetched, or has on its way, is discarded. -/
def dropFetch (d : Dyn) (c r : Nat) : Dyn :=
  let d := dropRead d (.ringFetch c r)
  { d with fe := { d.fe with order := d.fe.order.filter (fun x => x ≠ (c, r)) } }

/-- A ring stops in the cycle of this FC; what it has fetched is gone. -/
def Ring.stopNow (g : Ring) (fc : W64) : Ring :=
  { g with st := .stopped, stopReq := false, fetch := none, stopFc := some fc }

/-- STATE of a ring as reported: HELD for every enabled ring while the chip is not in SERVICE (Table 12.7). -/
def ringState (k : Cfg) (g : Ring) : RingState := if k.health ≠ .service && g.en then .held else g.st

/-- A ring error: the ring stops, what it has fetched is discarded, and a RING_ERROR entry is posted. An entry with no command
has no OPCODE and no USERDATA of its own: free values (log 33: DESIGN CHOICE). -/
def ringError (k : Cfg) (d : Dyn) (c r : Nat) (value : W64) (dseq : W32) : Dyn :=
  let g := getRing d c r
  let w := entryWord 2 .badDescriptor dseq r (bits (freeW d 0).toNat 0 8) g.head value (freeW d 1)
  let d := dropFetch (useFree d 2) c r
  let d := modRing d c r (fun g => { g.stopNow d.fc with err := 0x0B })
  addPost k d c (BitVec.ofNat 512 w)

/-! ### Stops (R282, R384) -/

/-- A ring whose STATE reads STOPPED or DISABLED: DSEQ and HEAD may be written (R384). -/
def ringStill (k : Cfg) (g : Ring) : Bool := ringState k g = .stopped || ringState k g = .disabled

/-- What a ring does once nothing of its fetch is left: a stop or a disable takes effect. -/
def ringSettle (fc : W64) (g : Ring) : Ring :=
  if g.fetching then g
  else if !g.en then { g with st := .disabled, stopReq := false }
  else if g.stopReq then g.stopNow fc
  else g

/-- STOP_REQ written 1 (R282): a stopped or disabled ring takes no request (R384). -/
def ringStop (fc : W64) (g : Ring) : Ring :=
  if !g.en || g.st = .stopped || g.st = .disabled then g else ringSettle fc { g with stopReq := true }

/-- STOPPED written 1: a stopped ring is ACTIVE again, and its serve loop goes on at the re-check; a stop requested again takes effect. -/
def ringGo (fc : W64) (g : Ring) : Ring :=
  if g.st = .stopped then ringSettle fc { g with st := .active, err := 0, snap := g.head } else g

/-- The ring's stop took effect in the cycle of this FC. -/
def Ring.stopsNow (g : Ring) (fc : W64) : Bool := g.st = .stopped && g.stopFc = some fc

/-! ### Enable and disable (R280, R281, R384) -/

/-- A write of CTX_RING_CFG. -/
def ringCfg (fc : W64) (x : Ctx) (g : Ring) (v : W32) : Ring :=
  let en := bit v.toNat 31
  let gen := bit v.toNat 8
  let log2 : BitVec 5 := BitVec.ofNat 5 (bits v.toNat 0 5)
  if g.en then
    if !en then ringSettle fc { g with en := false }
    else if gen = g.gen && log2 = g.log2 then g
    else { g with cfgIgn := true }
  else if g.st ≠ .disabled then { g with cfgIgn := true }
  else
    let g := { g with gen := gen, log2 := log2 }
    if !en then g
    else if log2.toNat < 4 || 16 < log2.toNat || g.base.toNat % 4096 ≠ 0 || (gen && x.rev = 1) || !x.cplEn then
      { g with err := 0x0B }
    else { g with en := true, head := 0, tail := 0, snap := 0, err := 0, fetch := none,
                  st := if g.pendingDb then .active else .idle }

def ringCfgWrite (c r : Nat) (v : W32) (_k : Cfg) (d : Dyn) : Dyn :=
  let x := getCtx d c
  if x.isOpen && r < ringCount then modRing d c r (fun g => ringCfg d.fc x g v) else d

/-- RING_ENABLE: CTX_RING_CFG written with EN = 1. -/
def ringEnable (c r : Nat) (cfg : W32) (k : Cfg) (d : Dyn) : Dyn := ringCfgWrite c r (cfg ||| w32 (2 ^ 31)) k d

/-- RING_DISABLE: CTX_RING_CFG written with EN = 0. -/
def ringDisable (c r : Nat) (cfg : W32) (k : Cfg) (d : Dyn) : Dyn := ringCfgWrite c r (cfg &&& w32 (2 ^ 31 - 1)) k d

/-- CTX_RING_BASE. -/
def ringBaseWrite (c r : Nat) (v : W64) (_k : Cfg) (d : Dyn) : Dyn :=
  if !(getCtx d c).isOpen then d
  else modRing d c r (fun g =>
    if v = g.base then g else if g.en || g.st ≠ .disabled then { g with cfgIgn := true } else { g with base := v })

/-- CTX_RING_DSEQ. -/
def ringDseqWrite (c r : Nat) (v : W32) (k : Cfg) (d : Dyn) : Dyn :=
  if !(getCtx d c).isOpen then d
  else modRing d c r (fun g =>
    if ringStill k g then { g with dseq := v } else { g with cfgIgn := true })

/-- CTX_RING_HEAD. -/
def ringHeadWrite (c r : Nat) (v : W32) (k : Cfg) (d : Dyn) : Dyn :=
  if !(getCtx d c).isOpen then d
  else modRing d c r (fun g =>
    if ringStill k g && dist32 v g.tail ≤ 2 ^ g.log2.toNat then { g with head := v, snap := v }
    else { g with cfgIgn := true })

/-- CTX_RING_STAT: CFG_IGN is W1C, STOPPED resumes, STOP_REQ stops, as STATE permits (R384). In the cycle in which a stop takes effect the
ring stays STOPPED against a resumption, and a STOP_REQ is requested again (W1C and W1S, Table 0.2). -/
def ringStatWrite (c r : Nat) (v : W32) (k : Cfg) (d : Dyn) : Dyn :=
  if !(getCtx d c).isOpen then d
  else modRing d c r (fun g =>
    let g' := if bit v.toNat 6 then { g with cfgIgn := false } else g
    let g' := if bit v.toNat 5 && ringState k g = .stopped && !g.stopsNow d.fc then ringGo d.fc g' else g'
    if !bit v.toNat 4 then g'
    else if g.stopsNow d.fc then { g' with stopReq := true }
    else if ringStill k g then g' else ringStop d.fc g')

/-- STOP_REQ and RING_RESUME: CTX_RING_STAT written with that bit alone. -/
def stopReq (c r : Nat) (k : Cfg) (d : Dyn) : Dyn := ringStatWrite c r 0x10 k d

def ringResume (c r : Nat) (k : Cfg) (d : Dyn) : Dyn := ringStatWrite c r 0x20 k d

/-! ### The doorbell (R283) -/

/-- DSEQ of the entry at HEAD as fetched, else a free value (log 33: DESIGN CHOICE). -/
def headDseq (d : Dyn) (g : Ring) : W32 :=
  match g.fetch with
  | some { left := e :: _, .. } => w32 (leAt e 0 4)
  | _ => (freeW d 2).setWidth 32

/-- RING_DOORBELL: a write of CTX_RING_TAIL. A disabled ring takes TAIL unchecked: its size is not in force (log 35: DEDUCED). -/
def ringDoorbell (c r : Nat) (tail : W32) (k : Cfg) (d : Dyn) : Dyn :=
  let g := getRing d c r
  if !(getCtx d c).isOpen || ringCount ≤ r then d
  else if g.en && 2 ^ g.log2.toNat < dist32 g.head tail then
    useFree (ringError k d c r (tail.setWidth 64) (headDseq d g)) 1
  else modRing d c r (fun g =>
    { g with tail := tail, pendingDb := true, st := if g.st = .idle then .active else g.st })

/-! ### Serving a ring: snapshot and fetch (R284, R285) -/

/-- The front end fetches: the chip is in SERVICE and its front end works (Table 12.7, R345). -/
def Cfg.fetches (k : Cfg) : Bool := k.health == .service && !k.dcpHalted

/-- The ring has something to do that needs no entry: the re-check, or a snapshot. -/
def Ring.atSnap (g : Ring) : Bool := g.head = g.snap

/-- The ring may be chosen for a fetch read or a pass of its loop. -/
def ringCandidate (d : Dyn) (c r : Nat) : Bool :=
  let g := getRing d c r
  (getCtx d c).isOpen && g.en && g.st = .active && !g.fetching && !g.stopReq
    && ((g.atSnap && g.tail = g.head) || cplRoom d c)

/-- The context that follows, in ascending order with wrap, the one last served (R285). -/
def nextCtx (last : Option Nat) (cs : List Nat) : Option Nat :=
  match last with
  | none => minBy id cs
  | some l => match minBy id (cs.filter (fun c => l < c)) with
    | some c => some c
    | none => minBy id cs

/-- The ring that R285 chooses, from level `r` on. -/
def chooseRing (d : Dyn) : Nat → Nat → Option (Nat × Nat)
  | 0, _ => none
  | n + 1, r =>
    match nextCtx (tget d.fe.rr r) ((tkeys d.fe.ctxs).filter (fun c => ringCandidate d c r)) with
    | some c => some (c, r)
    | none => chooseRing d n (r + 1)

def entrySize (g : Ring) : Nat := if g.gen then 64 else 32

/-- Entries of one read: up to 8 toward the snapshot, without crossing the ring's end. -/
def readCount (g : Ring) : Nat :=
  min (min 8 (dist32 g.head g.snap)) (2 ^ g.log2.toNat - g.head.toNat % 2 ^ g.log2.toNat)

def ringReads (d : Dyn) : Nat :=
  (d.bus.reads.filter (fun j => match j.use with
    | .ringFetch _ _ => true
    | _ => false)).length

/-- Issues the fetch read of a ring whose HEAD has not reached its snapshot. -/
def fetchIssue (k : Cfg) (d : Dyn) (c r : Nat) : Dyn :=
  let g := getRing d c r
  let a := (g.base.toNat + g.head.toNat % 2 ^ g.log2.toNat * entrySize g) % p64
  let d := { d with fe := { d.fe with rr := tput d.fe.rr r c } }
  let d := modRing d c r (fun g => { g with fetch := some { tag := none, left := [] } })
  busRead k d a (readCount g * entrySize g) (.ringFetch c r)

/-- Snapshots TAIL and clears PENDING, with the record of R326; then entries are fetched, or the re-check ends the pass. -/
def snapshot (k : Cfg) (d : Dyn) (c r : Nat) : Dyn :=
  if !rpRoom d 1 false then d
  else
    let d := rpPut d 0x04 false c r (getRing d c r).tail.toNat [] none
    let d := modRing d c r (fun g => { g with snap := g.tail, pendingDb := false })
    if (getRing d c r).atSnap then modRing d c r (fun g => { g with st := .idle }) else fetchIssue k d c r

/-- RING_FETCH_READ: one pass of the serve loop for the ring that R285 chooses. -/
def ringFetchRead (k : Cfg) (d : Dyn) : Dyn :=
  if !k.fetches || 16 ≤ ringReads d then d
  else match chooseRing d ringCount 0 with
    | none => d
    | some (c, r) =>
      let g := getRing d c r
      if !g.atSnap then fetchIssue k d c r
      else if g.tail = g.head && !g.pendingDb then modRing d c r (fun g => { g with st := .idle })
      else snapshot k d c r

/-! ### Taking entries (R290, R325, R326) -/

/-- A fetched entry, decoded (Tables 10.4, 10.5). -/
structure Entry where
  dseq : W32
  op : Nat
  irq : Bool
  formOk : Bool
  userdata : W64
  ops : BitVec 384
  deriving DecidableEq, Repr

def Entry.ofBytes (genB : Bool) (b : List Byte) : Entry :=
  let flags := leAt b 5 1
  { dseq := w32 (leAt b 0 4), op := leAt b 4 1, irq := bit flags 0,
    formOk := bits flags 1 7 = 0 && (if genB then leAt b 6 1 = 2 && leAt b 7 1 = 0 else leAt b 6 2 = 0),
    userdata := if genB then w64 (leAt b 8 8) else 0,
    ops := BitVec.ofNat 384 (if genB then leAt b 16 48 else leAt b 8 24) }

/-- The command waits for memory that its record will name (R326). -/
def readsMemory (op : Nat) (ops : BitVec 384) : Bool :=
  op = cLoad || op = cPatch || op = cTable || op = cSvcStart || (op = cLaunch && opn ops 24 8 ≠ 0)

/-- DNT_MODE as a SET_MODE would leave it. -/
def modeAfter (k : Cfg) (ops : BitVec 384) : Nat :=
  let mask := opn ops 20 4
  (k.modeWord &&& (mask ^^^ (p32 - 1))) ||| (opn ops 16 4 &&& mask)

/-- The take of a SET_MODE that sets DET starts the log, when it is enabled (R325). -/
def startsLog (k : Cfg) (d : Dyn) (e : Entry) : Bool :=
  e.op = cMode && k.replayEn && !k.det && !d.rp.recording && bit (modeAfter k e.ops) 0

/-- LOG_START (Table 11.6), with the DNT_MODE that the SET_MODE sets. -/
def logStart (k : Cfg) (d : Dyn) (c r mode : Nat) : Dyn :=
  let d := { d with rp := { d.rp with recording := true, lseq := 0, startFc := d.fc } }
  rpPut d 0x01 false c r (k.fwver.toNat + k.ftv.toNat * 2 ^ 32 + k.boot.chipId * 2 ^ 48 + mode * 2 ^ 64) [] none

/-- The record of a taken entry. -/
def recordEntry (d : Dyn) (id : CmdId) (e : Entry) (head : W32) (bytes : List Byte) (refused : Bool) : Dyn :=
  rpPut d 0x03 false id.c id.r (e.dseq.toNat + head.toNat * 2 ^ 32)
    ((chunks 32 2 bytes).map (fun s => w256 (leNat s))) (if !refused && readsMemory e.op e.ops then some id else none)

/-- A taken command: a refused one completes with its entry, a NOP is no command to be counted, any other is posted. -/
def postCmd (d : Dyn) (id : CmdId) (e : Entry) (head : W32) (refused : Bool) : Dyn :=
  let x : Cmd := { seq := d.fe.seq, id := id, op := e.op, irq := e.irq, userdata := e.userdata, ops := e.ops,
                   consumed := head, stage := if refused then .refused else .posted }
  let counted := refused || e.op ≠ 0
  let d := if counted then { d with fe := { d.fe with cmds := d.fe.cmds ++ [x], seq := d.fe.seq + 1 } } else d
  if refused then d else postReq d { id := id, svc := false, op := e.op, ops := e.ops, held := false }

/-- After a take: the fetch goes on, or the ring's stop, disable or re-check follows. -/
def afterTake (fc : W64) (g : Ring) (rest : List (List Byte)) : Ring :=
  let g : Ring := { g with st := if g.st = .held then .active else g.st }
  if !rest.isEmpty then { g with fetch := some { tag := none, left := rest } }
  else
    let g := ringSettle fc { g with fetch := none }
    if g.st = .active && g.atSnap && g.tail = g.head && !g.pendingDb then { g with st := .idle } else g

/-- The entries of a read have all been taken: the next read's turn has come (R285). -/
def endRead (d : Dyn) (c r : Nat) (rest : List (List Byte)) : Dyn :=
  if rest.isEmpty then { d with fe := { d.fe with order := d.fe.order.filter (fun x => x ≠ (c, r)) } } else d

/-- The entry cannot be taken: its command waits at the head of the ring under back-pressure (Table 10.2). -/
def holdHead (d : Dyn) (c r : Nat) : Dyn :=
  modRing d c r (fun g => { g with st := if g.st = .active then RingState.held else g.st })

/-- Takes one entry: its checks, its record, its posting. -/
def takeEntry (k : Cfg) (d : Dyn) (c r : Nat) (b : List Byte) (rest : List (List Byte)) : Dyn :=
  let g := getRing d c r
  let e := Entry.ofBytes g.gen b
  if e.dseq ≠ g.dseq then ringError k d c r (g.dseq.setWidth 64) e.dseq
  else
    let refused := !e.formOk || cmdRefused k c g.gen (getCtx d c).rev e.op e.ops
    let starts := !refused && startsLog k d e
    let slots := 1 + (if g.gen then 2 else 1)
    if (!refused && !reqRoom d) || !(if starts then rpFits d (slots + 1) false else rpRoom d slots false) then holdHead d c r
    else
      let id : CmdId := { c := c, r := r, dseq := e.dseq }
      let head := g.head + 1
      let d := if starts then logStart k d c r (modeAfter k e.ops) else d
      let d := recordEntry d id e head b refused
      let d := modRing d c r (fun g => { g with head := head, dseq := g.dseq + 1 })
      let d := postCmd d id e head refused
      let d := endRead (modRing d c r (fun g => afterTake d.fc g rest)) c r rest
      if !refused && holdsRing e.op then holdRing d id else d

/-- An error response to a fetch: every ring of the context stops with ECC_UNCORR (Table 12.4). -/
def fetchFailed (d : Dyn) (c : Nat) : Dyn :=
  (upFrom 0 ringCount).foldl (fun d r =>
    if (getRing d c r).en then modRing (dropFetch d c r) c r (fun g => { g.stopNow d.fc with err := 0x06 }) else d) d

/-- A fetch read has returned: its entries wait for their turn, in the order in which the reads return (R285). -/
def fetchReturned (d : Dyn) (c r : Nat) (bytes : List Byte) : Dyn :=
  let d := dropRead d (.ringFetch c r)
  let n := entrySize (getRing d c r)
  let d := modRing d c r (fun g => { g with fetch := some { tag := none, left := chunks n 8 bytes } })
  { d with fe := { d.fe with order := d.fe.order ++ [(c, r)] } }

/-- An entry of the ring can be checked now: nothing holds it (log 92: DEDUCED). -/
def mayTake (d : Dyn) (c r : Nat) : Bool :=
  (getCtx d c).isOpen && ((getRing d c r).st = .active || (getRing d c r).st = RingState.held) && !ringHeld d c r

/-- The ring whose entries are next: of the reads in the order of their return, the first whose ring is not held (R285). -/
def turn (d : Dyn) : Option (Nat × Nat) := d.fe.order.find? (fun x => mayTake d x.1 x.2)

/-- RING_FETCH_RETURN: takes the next fetched entry, when it is this ring's. -/
def ringFetchReturn (c r : Nat) (k : Cfg) (d : Dyn) : Dyn :=
  if turn d ≠ some (c, r) then d
  else match (getRing d c r).fetch with
    | some { left := b :: rest, .. } => takeEntry k d c r b rest
    | _ => d

end Sys2Proof.Machine
end

