-- ==== Sys2Proof/Machine/Commands.lean ====
section
/-! DEFINITION. Commands that the data plane takes and completes itself (R214, R291, R293, R295, R296, R315, R317): NOP,
RECORD_EVENT, RECORD_EVENT_APPLY, WAIT_EVENT, WAIT_EVENT_TIMEOUT, SIGNAL, FENCE, SET_MODE, SET_MODE_APPLY, CTX_CANCEL,
LT_REQ_POST, LT_RET_POP. -/
namespace Sys2Proof.Machine

/-- NOP completes on being taken. -/
def nop (c : Nat) (_k : Cfg) (d : Dyn) : Dyn :=
  match frontOp d c 0 with
  | none => d
  | some q => dropReq d q

/-! ### Events (R293) -/

/-- The physical event that an entry of the event map names. -/
def eventOf (d : Dyn) (c id : Nat) : Option Nat :=
  let e := (tgetD d.sg.emap (mapKey c id) 0).toNat
  if bit e 31 then some (bits e 0 18) else none

/-- The physical event that an entry of the event map names. -/
def evtOf (v : W32) : Option Nat := if bit v.toNat 31 then some (bits v.toNat 0 18) else none

def eventValue (d : Dyn) (ev : Nat) : W64 := tgetD d.sg.events ev 0

def Cmd.event (x : Cmd) : Nat := opn x.ops 16 2

/-- The WAIT_EVENT of a command has its outcome: the ring runs on. -/
def waitEnds (d : Dyn) (x : Cmd) (st : Status) (value : W64) : Dyn :=
  finish d x.id cWait st value.toNat

/-- A pending WAIT_EVENT is satisfied, or its event is in error (Table 12.4; the value then observed is a free value). -/
def waitTry (d : Dyn) (x : Cmd) : Dyn :=
  match x.stage, eventOf d x.id.c x.event with
  | .wait _ _ v _, some ev =>
    if d.sg.evEcc.contains ev then waitEnds (useFree d 1) x .eccUncorr (freeW d 0)
    else if v.toNat ≤ (eventValue d ev).toNat then waitEnds d x .ok (eventValue d ev)
    else d
  | _, _ => d

/-- After a change of event values or bindings. -/
def waitsCheck (d : Dyn) : Dyn := d.fe.cmds.foldl waitTry d

/-- No earlier command of its ring is left. -/
def firstOfRing (d : Dyn) (x : Cmd) : Bool :=
  !d.fe.cmds.any (fun y => y.id.c = x.id.c && y.id.r = x.id.r && y.seq < x.seq)

/-- A deferred RECORD_EVENT writes its value, replacing the event's, and the waits on it are tried. -/
def recordApply (d : Dyn) (x : Cmd) : Dyn :=
  match eventOf d x.id.c x.event with
  | none => finish d x.id cRecord .noRoute 0
  | some ev =>
    if d.sg.evEcc.contains ev then finish d x.id cRecord .eccUncorr 0
    else
      let d := { d with sg := { d.sg with events := tset d.sg.events ev (w64 (opn x.ops 24 8)) 0 } }
      waitsCheck (finish d x.id cRecord .ok 0)

def recordsOf (d : Dyn) (c r : Nat) : List Cmd :=
  d.fe.cmds.filter (fun x => x.id.c = c && x.id.r = r && x.stage == .record)

/-- RECORD_EVENT_APPLY: the oldest deferred record of a ring, once the ring's earlier commands have completed. -/
def recordEventApply (c r : Nat) (_k : Cfg) (d : Dyn) : Dyn :=
  match minBy Cmd.seq (recordsOf d c r) with
  | none => d
  | some x => if firstOfRing d x then recordApply d x else d

/-- Takes the context's next request when it is a RECORD_EVENT, once its identifier has been looked up: deferred, or a 65th of its ring holds it
(R293). -/
def recordEvent (c : Nat) (k : Cfg) (d : Dyn) : Dyn :=
  match frontOp d c cRecord with
  | none => d
  | some q =>
    match mapLookup k true d (mapKey c (opn q.ops 16 2)) with
    | (none, d) => d
    | (some v, d) =>
      if (evtOf v).isNone then finish (takeReq d q) q.id cRecord .noRoute 0
      else if 64 ≤ (recordsOf d c q.id.r).length then blockReq d q
      else recordEventApply c q.id.r k (setStage (takeReq d q) q.id .record)

/-- Takes the context's next request when it is a WAIT_EVENT, once its identifier has been looked up. -/
def waitEvent (c : Nat) (k : Cfg) (d : Dyn) : Dyn :=
  match frontOp d c cWait with
  | none => d
  | some q =>
    match mapLookup k true d (mapKey c (opn q.ops 16 2)) with
    | (none, d) => d
    | (some v, d) =>
      let d := takeReq d q
      if (evtOf v).isNone then finish (useFree d 1) q.id cWait .noRoute (freeW d 0).toNat
      else
        let d := setStage d q.id (.wait (w32 (opn q.ops 20 4)) (opn q.ops 18 1 = 1) (w64 (opn q.ops 24 8)) d.ts)
        waitsCheck (holdRing d q.id)

/-- A stop of a ring by a WAIT_EVENT's time-out (R293, R300): its own entry stands in for the RING_ERROR entry. -/
def timeoutStop (d : Dyn) (c r : Nat) : Dyn :=
  modRing (dropFetch d c r) c r
    (fun g => { g.stopNow d.fc with err := BitVec.ofNat 8 Status.timeout.code })

/-- The command waits for an event, and its time-out, in microseconds from the beginning of the wait, has passed (R172; log 114: DEDUCED). -/
def Cmd.timedOut (d : Dyn) (x : Cmd) : Bool :=
  match x.stage with
  | .wait t _ _ since => t ≠ 0 && reached d.ts (since + w64 (t.toNat * 1000))
  | _ => false

/-- The WAIT_EVENT that holds a ring and whose time-out has passed. -/
def ringWaiter (d : Dyn) (c r : Nat) : Option Cmd := d.fe.cmds.find? (fun x => x.id.c = c && x.id.r = r && x.timedOut d)

/-- WAIT_EVENT_TIMEOUT: the TIMEOUT of the WAIT_EVENT that holds a ring has passed. -/
def waitEventTimeout (c r : Nat) (k : Cfg) (d : Dyn) : Dyn :=
  match ringWaiter d c r with
  | none => d
  | some x =>
    let v := match eventOf d c x.event with
      | some ev => eventValue d ev
      | none => freeW d 0
    let onto := match x.stage with
      | .wait _ o _ _ => o
      | _ => false
    let d := waitEnds (useFree d 1) x .timeout v
    if onto && !k.det then d else timeoutStop d c r

/-! ### SIGNAL and FENCE -/

/-- Takes the context's next request when it is a SIGNAL, once its identifier has been looked up: the raise is applied, or a rebase holds it (R170,
R214). -/
def signal (c : Nat) (k : Cfg) (d : Dyn) : Dyn :=
  match frontOp d c cSignal with
  | none => d
  | some q =>
    if unitWaits d 0x10 (rootUnit 7) then blockReq d q
    else
      let id := opn q.ops 16 2
      match mapLookup k false d (mapKey c id) with
      | (none, d) => d
      | (some v, d) =>
        match sigOf v with
        | none => finish (takeReq (sigFault k d c id) q) q.id cSignal .noRoute 0
        | some i =>
          match raiseAt d i (opn q.ops 18 2) with
          | (some st, d) => finish (takeReq d q) q.id cSignal st 0
          | (none, d) => blockReq d q

/-- Takes the context's next request when it is a FENCE. -/
def fence (c : Nat) (_k : Cfg) (d : Dyn) : Dyn :=
  match frontOp d c cFence with
  | none => d
  | some q => fenceCheck (holdRing (setStage (takeReq d q) q.id (.fence (opn q.ops 16 1 = 1))) q.id)

/-! ### SET_MODE (R295, R312, R315, R317, R325) -/

/-- Takes the context's next request when it is a SET_MODE: from here on no new launch is taken. -/
def setMode (c : Nat) (_k : Cfg) (d : Dyn) : Dyn :=
  match frontOp d c cMode with
  | none => d
  | some q =>
    let m : ModeReq := { id := q.id, mode := w32 (opn q.ops 16 4), mask := w32 (opn q.ops 20 4) }
    let d := holdRing (takeReq d q) q.id
    { d with ls := { d.ls with modes := d.ls.modes ++ [m] } }

/-- DNT_MODE with a SET_MODE applied. -/
def newMode (k : Cfg) (m : ModeReq) : Nat :=
  ((w32 k.modeWord &&& ~~~m.mask) ||| (m.mode &&& m.mask)).toNat

/-- A valid combining queue is FAST. -/
def anyFast (d : Dyn) : Bool := d.cb.queues.any (fun q => qValid q.2.toNat && qFast q.2.toNat)

/-- Why a SET_MODE is refused, if it is (R208, R315, R317, R347). -/
def modeRefused (k : Cfg) (d : Dyn) (m : ModeReq) : Option Status :=
  let n := newMode k m
  if 8 < bits n 4 4 || 5 < bits n 8 3 then some .badDescriptor
  else if bit n 0 && !k.det && (!k.replayEn || anyFast d) then some .determinism
  else none

/-- LOG_STOP (Table 11.6) ends the recording. -/
def logStop (d : Dyn) (id : CmdId) (st : Status) (mode : Nat) : Dyn :=
  let d := rpPut d 0x02 false id.c id.r (st.code + mode * 2 ^ 64) [] none
  { d with rp := { d.rp with recording := false } }

/-- The oldest SET_MODE sets DET, and no log is under way: the one that its take started has ended, or the log was enabled since (R312). -/
def lateStart (k : Cfg) (d : Dyn) (m : ModeReq) : Bool := bit (newMode k m) 0 && !d.rp.recording && (modeRefused k d m).isNone

/-- SET_MODE_APPLY: with no launch in flight the oldest SET_MODE is applied or refused. Under DET = 1 every input is recorded (R312): a log
that is not under way starts now (log 113: DESIGN CHOICE). -/
def setModeApply (b : Block) : Block :=
  let k := b.cfg
  let d := b.d
  match d.ls.modes with
  | [] => b
  | m :: rest =>
    let late := lateStart k d m
    if !noLaunch d || !(if late then rpFits d 1 false else rpRoom d 1 false) then b
    else
      let d := { d with ls := { d.ls with modes := rest } }
      match modeRefused k d m with
      | some st =>
        let d := if d.rp.recording && !k.det && bit (newMode k m) 0 then logStop d m.id st k.modeWord else d
        { b with d := finish d m.id cMode st k.modeWord }
      | none =>
        let n := newMode k m
        let d := if late then logStart k d m.id.c m.id.r n
          else if d.rp.recording && k.det && !bit n 0 then logStop d m.id .ok n else d
        let d := traceState k d 4 n k.modeWord
        { cfg := { k with det := bit n 0, cblk := bits n 4 4, shfrac := bits n 8 3 }, d := finish d m.id cMode .ok n }

/-! ### Cancellation (R296) -/

/-- The launches a cancellation names: host launches of the context, taken and not completed. -/
def cancelNamed (d : Dyn) (c : Nat) (all : Bool) (r : Nat) (dseq : W32) : List Nat :=
  (d.ls.slots.filter (fun e => e.2.inFlight && !e.2.svc && e.2.parent.isNone && e.2.id.c = c
    && (all || (e.2.id.r = r && e.2.id.dseq = dseq)))).map (·.1)

/-- The data plane abandons the launches that a cancellation names; naming none sets MISS. -/
def cancel296 (d : Dyn) (c : Nat) (all : Bool) (r : Nat) (dseq : W32) : Dyn :=
  match cancelNamed d c all r dseq with
  | [] => modCtx d c (fun x => { x with cancelMiss := true })
  | ss => settleAll (ss.foldl (fun d s => failLaunch d s .cancelled) d)

/-- The request entry of a cancellation (Table 13.22). -/
def cancelReq (c : Nat) (all : Bool) (r : Nat) (dseq : W32) : Req :=
  { id := { c := c, r := r, dseq := dseq }, svc := false, op := cCancel, held := false,
    ops := BitVec.ofNat 384 (dseq.toNat + r * 2 ^ 32 + b2n all * 2 ^ 40) }

/-- The data plane takes a cancellation (R18, R296). -/
def takeCancel (d : Dyn) (q : Req) : Dyn :=
  cancel296 (dropReq d q) q.id.c (opn q.ops 21 1 % 2 = 1) (opn q.ops 20 1) (w32 (opn q.ops 16 4))

/-- A cancellation that is the next request of its context. -/
def nextCancel (d : Dyn) : Option Req := d.lt.reqs.find? (fun q => q.op = cCancel && frontOp d q.id.c cCancel = some q)

/-- Cancellations are taken as soon as their turn has come, and those that the front end holds are posted as entries become free (R16, R18,
R296; log 36: DEDUCED). -/
def serveCancels : Nat → Dyn → Dyn
  | 0, d => d
  | n + 1, d =>
    match nextCancel d, d.fe.cancels with
    | some q, _ => serveCancels n (takeCancel d q)
    | none, q :: t =>
      if reqRoom d then serveCancels n (postReq { d with fe := { d.fe with cancels := t } } q) else d
    | none, [] => d

def settleCancels (d : Dyn) : Dyn := serveCancels (d.lt.reqs.length + 2 * d.fe.cancels.length) d

/-- CTX_CANCEL: the front end posts a cancellation (R16, R296). -/
def ctxCancel (c : Nat) (v : W64) (_k : Cfg) (d : Dyn) : Dyn :=
  if !(getCtx d c).isOpen || !rpRoom d 1 false then d
  else
    let r := bits v.toNat 32 3
    let d := rpPut d 0x06 false c r v.toNat [] none
    { d with fe := { d.fe with cancels := d.fe.cancels ++ [cancelReq c (bit v.toNat 35) r (w32 v.toNat)] } }

/-! ### The launch table port (Tables 13.21, 13.22) -/

/-- LT_REQ_POST: the staged request enters the table; with no free entry it is ignored (R389). -/
def ltReqPost (w : BitVec 512) (_k : Cfg) (d : Dyn) : Dyn :=
  let n := w.toNat
  let d := { d with lt := { d.lt with staged := w } }
  let id : CmdId := { c := bits n 16 6, r := bits n 24 3, dseq := w32 (bits n 32 32) }
  let q : Req := { id := id, svc := bit n 31, op := bits n 0 8, ops := BitVec.ofNat 384 (bits n 128 384), held := false }
  if !reqRoom d then d else postReq d q

/-- LT_RET_POP: the head return is freed, and with a launch's return its slot. One that the front end has still to turn into an entry leaves the
firmware's view, and waits in the table with its slot until then (R17, R299, R301; log 91: DEDUCED). -/
def ltRetPop (_k : Cfg) (d : Dyn) : Dyn :=
  { d with lt := { d.lt with rets := mapFirst (fun r => !r.popped) (fun r => { r with popped := true }) d.lt.rets } }

end Sys2Proof.Machine
end

