-- ==== Sys2Proof/Machine/Tables.lean ====
section
/-! DEFINITION. WRITE_TABLE (R104, R105, R191, R193, R200, R208, R212, R213, R216, R221, R240, R275 to R277, R293, R294, R314,
R411, R455). The request stays at the front of its context's requests until it is applied or refused: first its source image is
read, then every entry is checked, then all are written. -/
namespace Sys2Proof.Machine

/-- What a table write comes to: it waits (on a state that may have begun a wake), is refused with a status and the index of
the first refused entry or seam, or is applied. -/
inductive TRes where
  | waits (d : Dyn)
  | refuse (st : Status) (v : Nat)
  | ok (d : Dyn)

/-- The first entry of the list that a check refuses, with its table index. -/
def firstBad (check : Nat → Nat → Option Status) : Nat → List Nat → Option (Status × Nat)
  | _, [] => none
  | i, e :: t =>
    match check i e with
    | some st => some (st, i)
    | none => firstBad check (i + 1) t

/-- The entries of a table that a context which is not privileged may write only for itself: the first one of another context,
then the other checks (R294). -/
def firstBadOf (k : Cfg) (c : Nat) (ctxOf : Nat → Nat) (check : Nat → Nat → Option Status) (i : Nat) (es : List Nat) :
    Option (Status × Nat) :=
  match firstBad (fun _ e => if !k.priv c && ctxOf e ≠ c then some .badDescriptor else none) i es with
  | some x => some x
  | none => firstBad check i es

def badIf (b : Bool) (st : Status) : Option Status := if b then some st else none

/-- Entries of `n` bytes of the source image. -/
def entriesOf (n cnt : Nat) (b : List Byte) : List Nat := (chunks n cnt b).map leNat

/-! ### Table 0: parcels -/

def memberWords : Nat := 65536

/-- Runs of the member store, by parcel. -/
def parcelRuns (d : Dyn) (skip : Nat) : List (Nat × Nat) :=
  ((d.dp.parcels.filter (fun e => e.1 ≠ skip)).map (fun e => (e.2.first, e.2.members.length)))

/-- Moves the runs toward index 0 in ascending order of FIRST (R455). -/
def compactRuns (skip : Nat) (t : Tab Parcel) : Tab Parcel :=
  let order := isort (fun a b => a.2.first ≤ b.2.first) (t.filter (fun e => e.1 ≠ skip))
  (order.foldl (fun (acc : Nat × Tab Parcel) e =>
    (acc.1 + e.2.members.length, tmod acc.2 e.1 (fun p => { p with first := acc.1 }))) (0, t)).2

/-- The parcel, or one that contains it, is named by a descriptor of a live epoch or a valid routing layer (R105). -/
def parcelInUse (k : Cfg) (d : Dyn) (p : Nat) : Bool :=
  let hits (ref : Nat) : Bool := refReaches k d p 18 ref
  (tvals d.gs.graphs).any (fun g => g.epochs.any (fun e => (upFrom 0 g.nNodes).any (fun n => hits (g.desc e.ord n).target)))
    || d.rt.layers.any (fun l => lValid l.2.toNat && hits (lTparcel l.2.toNat))

/-- A member reference of a parcel write (R28, R29, R105). -/
def memberOk (k : Cfg) (d : Dyn) (ref : Nat) : Bool :=
  if isParcelRef ref then refValid k d ref else !isRootRef ref && k.present ref

/-- Recomputes DEPTH of every defined parcel. -/
def fillDepths (k : Cfg) (d : Dyn) : Dyn :=
  let ps := d.dp.parcels.map (fun e => (e.1, { e.2 with depth := refDepth k d 18 (65536 + e.1) }))
  { d with dp := { d.dp with parcels := ps } }

/-- The table with parcel p defined, its run placed (R455); none when the free words are too few. -/
def placeParcel (d : Dyn) (p : Nat) (ms : List Nat) : Option (Tab Parcel) :=
  let used := parcelRuns d p
  let free := memberWords - listSum (used.map (·.2))
  if free < ms.length then none
  else match firstFit 0 memberWords ms.length used with
    | some f => some (tput d.dp.parcels p { first := f, depth := 0, members := ms })
    | none =>
      let t := compactRuns p d.dp.parcels
      let f := listSum (used.map (·.2))
      some (tput t p { first := f, depth := 0, members := ms })

/-- The rules of R105 but for FULL and the depths. -/
def parcelBad (k : Cfg) (d : Dyn) (p cnt e : Nat) (ms : List Nat) : Bool :=
  let valid := bit e 0
  p ≤ 16 || bits e 52 12 ≠ 0 || bits e 1 15 ≠ 0 || bits e 48 4 ≠ 0 || bits e 16 16 ≠ 0 || bits e 32 16 ≠ cnt
    || (valid && (cnt = 0 || 4096 < cnt)) || (!valid && cnt ≠ 0)
    || ms.any (fun m => 2 ^ 17 ≤ m || !memberOk k d m) || ms.eraseDups.length ≠ ms.length
    || ms.any (refReaches k d p 18)
    || ((tget d.dp.parcels p).isSome && parcelInUse k d p)
    || (!valid && d.dp.parcels.any (fun q => q.1 ≠ p && q.2.members.contains (65536 + p)))

/-- With these members the parcel, or one that contains it, would reach a depth above 16 (R105). -/
def tooDeep (k : Cfg) (d : Dyn) (p : Nat) (ms : List Nat) : Bool :=
  let t := tput d.dp.parcels p { first := 0, depth := 0, members := ms }
  (fillDepths k { d with dp := { d.dp with parcels := t } }).dp.parcels.any (fun q => 16 < q.2.depth)

/-- A parcel write. -/
def writeParcel (k : Cfg) (d : Dyn) (p cnt : Nat) (b : List Byte) : TRes :=
  let e := leAt b 0 8
  let ms := entriesOf 4 cnt (b.drop 8)
  if parcelBad k d p cnt e ms then .refuse .badDescriptor p
  else if !bit e 0 then .ok (fillDepths k { d with dp := { d.dp with parcels := tdel d.dp.parcels p } })
  else if tooDeep k d p ms then .refuse .badDescriptor p
  else match placeParcel d p ms with
    | none => .refuse .full p
    | some t => .ok (fillDepths k { d with dp := { d.dp with parcels := t } })

/-! ### Tables 1 and 2: multicast groups and routes -/

/-- A send to the group is outstanding at some stub (R191). -/
def groupBusy (d : Dyn) (g : Nat) : Bool :=
  d.en.any (fun e => e.2.ops.any (fun o => o.2.code = 0 && hMc o.2.hdr && hGroup o.2.hdr = g))

def writeGroup (d : Dyn) (g : Nat) (ws : List Nat) : TRes :=
  if ws.any (fun w => bits w 30 2 ≠ 0) || ws.eraseDups.length ≠ ws.length then .refuse .badDescriptor g
  else if groupBusy d g then .waits d
  else .ok { d with tk := { d.tk with groups := tput d.tk.groups g (ws.map w32) } }

/-- Writes consecutive entries of a table. -/
def putAll [DecidableEq α] (t : Tab α) (idx : Nat) (vs : List α) (dflt : α) : Tab α :=
  (((upFrom idx vs.length).zip vs).foldl (fun t v => tset t v.1 v.2 dflt) t)

def writeRoutes (d : Dyn) (idx : Nat) (ws : List Nat) : TRes :=
  .ok { d with tk := { d.tk with routes := putAll d.tk.routes idx (ws.map w32) 0 } }

/-! ### Table 3: combining queues -/

/-- R200, R208, R212 for one entry. -/
def queueBad (k : Cfg) (d : Dyn) (q e : Nat) : Option Status :=
  if !qEntryOk k e || queueBusy d q then some .badDescriptor
  else badIf (k.det && qFast e) .determinism

def writeQueues (k : Cfg) (d : Dyn) (c idx : Nat) (es : List Nat) : TRes :=
  match firstBadOf k c qCtx (queueBad k d) idx es with
  | some x => .refuse x.1 x.2
  | none => .ok { d with cb := { d.cb with queues := putAll d.cb.queues idx (es.map w256) 0 } }

/-! ### Tables 4 and 5: signal and event maps -/

/-- R4 and R213 for one entry. -/
def sigMapBad (d : Dyn) (c _i e : Nat) : Option Status :=
  badIf (bits e 13 18 ≠ 0 || (bit e 31 && (getSig d (bits e 0 13)).owner.any (· ≠ c))) .badDescriptor

/-- A counter of a context that no entry of its map names is released. -/
def releaseSigs (d : Dyn) (c : Nat) : Dyn :=
  let named (i : Nat) : Bool := d.sg.map.any (fun e => e.1 / 65536 = c && bit e.2.toNat 31 && bits e.2.toNat 0 13 = i)
  let mine := (d.sg.ctrs.filter (fun e => e.2.owner = some c && !named e.1)).map (·.1)
  mine.foldl (fun d i => setSig d i { getSig d i with owner := none }) d

/-- Binds a counter that no context owns. TAKEs that were pending on it before stay in its order: the rules say nothing of them (log 104: DESIGN
CHOICE). -/
def bindSig (d : Dyn) (c i : Nat) : Dyn :=
  if (getSig d i).owner.isSome then d else setSig d i { Sig.init with owner := some c }

def writeSigMap (k : Cfg) (d : Dyn) (c idx : Nat) (es : List Nat) (b : List Byte) : TRes :=
  let bound := (es.filter (fun e => bit e 31)).map (fun e => bits e 0 13)
  match firstBad (sigMapBad d c) idx es with
  | some x => .refuse x.1 x.2
  | none =>
    if bound.any (fun i => rebasing d (.signal i)) then .waits d
    else
      let d := { d with sg := { d.sg with map := putAll d.sg.map (mapKey c idx) (es.map w32) 0 } }
      let d := releaseSigs (bound.foldl (fun d i => bindSig d c i) d) c
      .ok (busWriteOn .memory (mapWritten d false (mapKey c idx) (es.map w32)) ((k.sigMapBase.toNat + 0x40000 * c + 4 * idx) % p64) b .map)

def evtMapBad (_i e : Nat) : Option Status := badIf (bits e 18 13 ≠ 0) .badDescriptor

/-- Binds an event: one that no map names starts at 0; one in error is whole again. -/
def bindEvt (named : List Nat) (d : Dyn) (ev : Nat) : Dyn :=
  let sg := if named.contains ev then d.sg else { d.sg with events := tset d.sg.events ev 0 0 }
  { d with sg := { sg with evEcc := sg.evEcc.filter (· ≠ ev) } }

def writeEvtMap (k : Cfg) (d : Dyn) (c idx : Nat) (es : List Nat) (b : List Byte) : TRes :=
  let named := (d.sg.emap.filter (fun e => bit e.2.toNat 31)).map (fun e => bits e.2.toNat 0 18)
  match firstBad evtMapBad idx es with
  | some x => .refuse x.1 x.2
  | none =>
    let d := { d with sg := { d.sg with emap := putAll d.sg.emap (mapKey c idx) (es.map w32) 0 } }
    let d := ((es.filter (fun e => bit e 31)).map (fun e => bits e 0 18)).foldl (bindEvt named) d
    .ok (waitsCheck (busWriteOn .memory (mapWritten d true (mapKey c idx) (es.map w32)) ((k.evtMapBase.toNat + 0x40000 * c + 4 * idx) % p64) b .map))

/-! ### Table 6: circular regions -/

/-- R216 for one entry, whatever its VALID bit (log 37: DEDUCED). -/
def cregBad (k : Cfg) (d : Dyn) (i e : Nat) : Option Status :=
  let x : CReg := { CReg.init with entry := BitVec.ofNat 128 e }
  let old := getCr d i
  badIf (bits e 96 32 ≠ 0 || bits e 1 25 ≠ 0
    || x.depth = 0 || x.slotBytes = 0 || !k.sitePresent x.site || bits x.site 8 4 ≠ i / 256
    || k.siteMem x.site < x.base + x.depth * x.slotBytes
    || (old.valid && !(old.v = old.p && old.p = old.c))) .badDescriptor

/-- The range that a circular region covers, as a descriptor's range. -/
def cregRange (e : Nat) : Nat :=
  let x : CReg := { CReg.init with entry := BitVec.ofNat 128 e }
  x.site + x.base * 2 ^ 16 + (x.depth * x.slotBytes) * 2 ^ 36

/-- Table 6 (R216). Acquisitions and waits pending on a region that is redefined stay pending on the new definition (log 104: DESIGN
CHOICE). -/
def writeCregs (k : Cfg) (d : Dyn) (c idx : Nat) (es : List Nat) : TRes :=
  match firstBadOf k c (fun e => bits e 58 6) (cregBad k d) idx es with
  | some x => .refuse x.1 x.2
  | none =>
    let cold := fallowUnder d ((es.filter (fun e => bit e 0)).map cregRange)
    if !cold.isEmpty then .waits (cold.foldl (fun d b => wakeBank d b.1 b.2) d)
    else if (upFrom idx es.length).any (fun i => rebasing d (.creg i)) then .waits d
    else .ok (((upFrom idx es.length).zip es).foldl
      (fun d x => setCr d x.1 { CReg.init with entry := BitVec.ofNat 128 x.2 }) d)

/-! ### Tables 7 and 8: routing layers and the gazetteer -/

def writeLayers (k : Cfg) (d : Dyn) (idx : Nat) (es : List Nat) : TRes :=
  match firstBad (fun _ e => badIf (!layerOk k d e) .badDescriptor) idx es with
  | some x => .refuse x.1 x.2
  | none => .ok { d with rt := { d.rt with layers := putAll d.rt.layers idx (es.map w256) 0 } }

/-- R240 for one entry. HOT of a COLD entry and USERS are written 0 (Table 8.5). -/
def gazBad (k : Cfg) (d : Dyn) (i e : Nat) : Option Status :=
  badIf (bits e 5 11 ≠ 0 || bits e 16 16 ≠ 0 || 1 < gTier e || (gTier e = 1 && (gHot e ≠ 0 || k.stageSlot.toNat < gSize e))
    || (gazOf d i).any Gaz.inUse) .badDescriptor

/-- An entry replaces the cached one; what was staged for it gives its slot up. -/
def putGaz (d : Dyn) (i e : Nat) : Dyn :=
  let d := gazSkip (modGaz d i (fun x => { x with entry := w256 e })) (· = i)
  { d with rt := { d.rt with stages := d.rt.stages.filter (fun s => s.2.idx ≠ i) } }

def writeGaz (k : Cfg) (d : Dyn) (idx : Nat) (es : List Nat) (b : List Byte) : TRes :=
  match firstBad (gazBad k d) idx es with
  | some x => .refuse x.1 x.2
  | none =>
    let d := ((upFrom idx es.length).zip es).foldl (fun d x => putGaz d x.1 x.2) d
    .ok (busWrite k d ((k.gazBase.toNat + 32 * idx) % p64) b (.gazEntry idx))

/-! ### Table 9: SFU user slots -/

/-- The seam check of an image (R276): the report names the lowest seam; under SEAM_FORCE the steps are counted. -/
def writeFn (d : Dyn) (z : Nat) (force : Bool) (b : List Byte) : TRes :=
  let t := FnTab.ofBytes b
  if oldBankUsed d z then .waits d
  else if !tableOk t then .refuse .badDescriptor z
  else match backwardSeams t (expBank d) with
    | [] => .ok (loadBank d z t)
    | s :: r =>
      if !force then .refuse .tableSeam s
      else .ok (loadBank (count d cTableStep (r.length + 1)) z t)

/-! ### The command -/

/-- Table 10.8: the least and greatest COUNT, the least index, one past the last, bytes per entry. -/
def tableShape (t : Nat) : Nat × Nat × Nat × Nat × Nat :=
  match t with
  | 0 => (0, 4096, 0, 65536, 4)
  | 1 => (1, 32, 0, 1024, 4)
  | 2 => (1, 1024, 0, 1024, 4)
  | 3 => (1, 1024, 0, 1024, 32)
  | 4 => (1, 4096, 0, 65536, 4)
  | 5 => (1, 4096, 0, 65536, 4)
  | 6 => (1, 256, 0, 4096, 16)
  | 7 => (1, 1024, 0, 1024, 32)
  | 8 => (1, 4096, 0, 1048576, 32)
  | _ => (1, 1, 16, 32, 3104)

/-- COUNT and INDEX lie in the table's range (R294). -/
def tableRange (t cnt idx : Nat) : Bool :=
  let s := tableShape t
  let one := t = 0 || t = 1 || t = 9
  s.1 ≤ cnt && cnt ≤ s.2.1 && s.2.2.1 ≤ idx && (if one then idx + 1 else idx + cnt) ≤ s.2.2.2.1
    && (t ≠ 6 || idx / 256 = (idx + cnt - 1) / 256)

/-- Bytes of the source image. -/
def tableBytes (t cnt : Nat) : Nat := (if t = 0 then 8 else 0) + cnt * (tableShape t).2.2.2.2

/-- Every entry is checked, then all are written. -/
def tableWrite (k : Cfg) (d : Dyn) (c : Nat) (ops : BitVec 384) (b : List Byte) : TRes :=
  let t := opn ops 16 1
  let cnt := opn ops 18 2
  let idx := opn ops 20 4
  let es := entriesOf (tableShape t).2.2.2.2 cnt b
  match t with
  | 0 => writeParcel k d idx cnt b
  | 1 => writeGroup d idx es
  | 2 => writeRoutes d idx es
  | 3 => writeQueues k d c idx es
  | 4 => writeSigMap k d c idx es b
  | 5 => writeEvtMap k d c idx es b
  | 6 => writeCregs k d c idx es
  | 7 => writeLayers k d idx es
  | 8 => writeGaz k d idx es b
  | _ => writeFn d idx (opn ops 17 1 = 1) b

/-- Under DET = 1 the write waits for the launches in flight (R314). -/
def tableDrains (k : Cfg) (d : Dyn) (t : Nat) : Bool := k.det && (t = 1 || (3 ≤ t && t ≤ 9)) && !noLaunch d

/-- A refusal of the command as a whole: no entry is named, so VALUE is a free value (log 38: DESIGN CHOICE). -/
def tableRefuse (d : Dyn) (q : Req) (st : Status) : Dyn :=
  finish (useFree (takeReq d q) 1) q.id cTable st (freeW d 0).toNat

/-- WRITE_TABLE: the context's next request goes one step on. -/
def writeTable (c : Nat) (k : Cfg) (d : Dyn) : Dyn :=
  match frontOp d c cTable with
  | none => d
  | some q =>
    let t := opn q.ops 16 1
    let cnt := opn q.ops 18 2
    if tableDrains k d t then blockReq d q
    else if 9 < t || (t ≠ 9 && opn q.ops 17 1 ≠ 0) || !tableRange t cnt (opn q.ops 20 4) then tableRefuse d q .badDescriptor
    else if !d.bus.reads.any (fun j => j.use = .table q.id) then busRead k d (opn q.ops 24 8) (tableBytes t cnt) (.table q.id)
    else match readDone d (.table q.id) with
      | none => d
      | some j =>
        let clear (d : Dyn) : Dyn := takeReq (dropRead d (.table q.id)) q
        if j.err then tableRefuse (dropRead d (.table q.id)) q .eccUncorr
        else
          let b := j.data.getD []
          let d := rpImg d q.id (digBytes b)
          match tableWrite k d c q.ops b with
          | .waits d => blockReq d q
          | .refuse st v => finish (clear d) q.id cTable st v
          | .ok d => finish (clear d) q.id cTable .ok 0

end Sys2Proof.Machine
end

