-- ==== Sys2Proof/Machine/Chainage.lean ====
section
/-! DEFINITION. Chainage, STEP and the timestamp (R147 to R163, R167, R328, R372, R380): CHAIN_ADVANCE, CHAIN_PRESET, the four
watches, STEP_WRITE, LINK_KEY_WRITE, TS_BACK. -/
namespace Sys2Proof.Machine

/-! ### Targets (R151) -/

/-- What a test of the watches finds for an entry: the cycle in which it was first reached, and the distance at the end of that cycle (R153). -/
def foundNow (d : Dyn) (old : Option (Nat × Nat)) (s : Nat) (t : W64) : Option (Nat × Nat) :=
  let now := if reached (chain d s) t then some (d.ch.clock, chainDist d s t) else none
  match old with
  | some x => if x.1 = d.ch.clock then now.or (some x) else some x
  | none => now

/-- One test of every entry of the four watches. -/
def watchTest (d : Dyn) : Dyn :=
  let w (x : Watch) : Watch := { x with found := foundNow d x.found x.stream x.target }
  let v (x : SvcWatch) : SvcWatch := { x with found := foundNow d x.found x.stream x.target }
  { d with ch := { d.ch with release := d.ch.release.map w, sect := d.ch.sect.map w, expiry := d.ch.expiry.map v,
                             admission := d.ch.admission.map v } }

/-- The order in which reached entries fire: the cycle that found them, descending distance, stream, index. -/
def fireBefore (a b : (Nat × Nat) × Nat × Nat) : Bool :=
  if a.1.1 ≠ b.1.1 then a.1.1 < b.1.1
  else if a.1.2 ≠ b.1.2 then b.1.2 < a.1.2
  else if a.2.1 ≠ b.2.1 then a.2.1 < b.2.1
  else a.2.2 ≤ b.2.2

def Watch.key (w : Watch) : (Nat × Nat) × Nat × Nat := (w.found.getD (0, 0), w.stream, w.g)
def SvcWatch.key (w : SvcWatch) : (Nat × Nat) × Nat × Nat := (w.found.getD (0, 0), w.stream, w.order)

/-- The reached entries of a watch in firing order. -/
def firing (l : List Watch) : List Watch :=
  isort (fun a b => fireBefore a.key b.key) (l.filter (fun w => w.found.isSome && !w.fired))

def svcFiring (l : List SvcWatch) : List SvcWatch :=
  isort (fun a b => fireBefore a.key b.key) (l.filter (fun w => w.found.isSome))

/-! ### Advances and presets (R148, R150) -/

/-- CHAIN_ADVANCE: an accepted advance of n positions. The counters run in DOZE too (R160). -/
def chainAdvance (s : Nat) (n : W16) (k : Cfg) (d : Dyn) : Dyn :=
  if k.inReset || k.frozen || 16 ≤ s then d
  else
    let v := chain d s + n.setWidth 64
    watchTest { d with ch := { d.ch with chain := tset d.ch.chain s v 0 } }

/-- Some watch entry names the stream. -/
def streamWatched (d : Dyn) (s : Nat) : Bool :=
  d.ch.release.any (fun w => w.stream = s) || d.ch.sect.any (fun w => w.stream = s)
    || d.ch.expiry.any (fun w => w.stream = s) || d.ch.admission.any (fun w => w.stream = s)

/-- CHAIN_PRESET. -/
def chainPreset (s : Nat) (v : W64) (k : Cfg) (d : Dyn) : Dyn :=
  if 16 ≤ s then d
  else if streamWatched d s then { d with ch := { d.ch with preref := d.ch.preref ||| BitVec.ofNat 16 (2 ^ s) } }
  else if !rpRoom d 1 true then dropWrite k d (0xC00 + 8 * s)
  else
    let d := rpPut d 0x08 true 0 s (v.toNat * 2 ^ 64) [] none
    { d with ch := { d.ch with chain := tset d.ch.chain s v 0 } }

/-- STEP_WRITE (R163, R372). -/
def stepWrite (v : W64) (k : Cfg) (d : Dyn) : Dyn :=
  if d.sv.run then d
  else if !rpRoom d 1 true then dropWrite k d 0x28
  else { rpPut d 0x09 true 0 0 (v.toNat * 2 ^ 64) [] none with step := v }

/-- LINK_KEY_WRITE: the key waits for its application (R195, R374). -/
def linkKeyWrite (v : W64) (_k : Cfg) (d : Dyn) : Dyn := { d with lk := { d.lk with pendKey := some v } }

/-! ### The watches (R153 to R160) -/

/-- Fires release entries in order: each makes its node ready when its bank's outbox has room; later entries of a bank that has
none wait behind it (R155, R454). -/
def fireReleases (k : Cfg) : Nat → List Watch → List Nat → Dyn → Dyn
  | _, [], _, d => d
  | 0, _, _, d => d
  | n + 1, w :: t, blocked, d =>
    let b := nodeBank d w.slot w.g
    if blocked.contains b || !readyRoom d w.slot w.g then fireReleases k (n + 1) t (b :: blocked) d
    else
      let d := { d with ch := { d.ch with release := d.ch.release.filter (fun x => !(x.slot = w.slot && x.g = w.g)) } }
      fireReleases k n t blocked (becomeReady k d w.slot w.g)

/-- RELEASE_WATCH_FIRE: up to 8 entries. -/
def releaseWatchFire (k : Cfg) (d : Dyn) : Dyn :=
  let d := watchTest d
  settleAll (fireReleases k 8 (firing d.ch.release) [] d)

/-- SECTION_END_FIRE: up to 4 entries; the notice rises at every member's port (R157). -/
def sectionEndFire (_k : Cfg) (d : Dyn) : Dyn :=
  let d := watchTest d
  ((firing d.ch.sect).take 4).foldl (fun d w =>
    let sect := mapIf (fun x => x.task = w.task) (fun x => { x with fired := true }) d.ch.sect
    raiseSectEnd { d with ch := { d.ch with sect := sect } } w.task) d

def modWindow (d : Dyn) (order : Nat) (f : SvcReq → SvcReq) : Dyn :=
  { d with sv := { d.sv with window := mapIf (fun r => r.order = order) f d.sv.window } }

/-- The CHAIN_MARK of a fired service entry (Table 11.6): KIND 1 admission, 2 expiry. -/
def markFired (d : Dyn) (kind : Nat) (w : SvcWatch) : Dyn :=
  rpPut d 0x08 false d.sv.ctx w.stream (kind + w.rseq.toNat * 2 ^ 32 + w.target.toNat * 2 ^ 64) [] none

/-- The entries that fire in one cycle: the first 4, as far as their records have room (R153, R328). -/
def firingNow (d : Dyn) (l : List SvcWatch) : List SvcWatch :=
  ((svcFiring l).take 4).take ((upFrom 1 4).filter (fun n => rpRoom d n false)).length

/-- The records of the entries that fire in one cycle, in ascending stream (R327). -/
def markAll (d : Dyn) (kind : Nat) (ws : List SvcWatch) : Dyn :=
  (isort (fun a b => a.stream ≤ b.stream) ws).foldl (fun d w => markFired d kind w) d

/-- EXPIRY_FIRE: up to 4 entries, each with its record. -/
def expiryFire (_k : Cfg) (d : Dyn) : Dyn :=
  let d := watchTest d
  let ws := firingNow d d.ch.expiry
  ws.foldl (fun d w =>
    modWindow { d with ch := { d.ch with expiry := d.ch.expiry.filter (fun x => x.order ≠ w.order) } } w.order
      (fun r => { r with expired := true })) (markAll d 2 ws)

/-- A report to the firmware that an admission target is reached (R153, log 39: DESIGN CHOICE). -/
def admissionReport (d : Dyn) (w : SvcWatch) : Dyn :=
  let id : CmdId := { c := d.sv.ctx, r := 0, dseq := 0 }
  pushRet d { cmdRet id 0 .ok (w.rseq.setWidth 64) with kind := 3, svc := true }

/-- ADMISSION_FIRE: up to 4 entries, each with its record and its report. -/
def admissionFire (_k : Cfg) (d : Dyn) : Dyn :=
  let d := watchTest d
  let ws := firingNow d d.ch.admission
  ws.foldl (fun d w =>
    let d := { d with ch := { d.ch with admission := d.ch.admission.filter (fun x => x.order ≠ w.order) } }
    admissionReport (modWindow d w.order (fun r => { r with admissible := true })) w) (markAll d 1 ws)

/-! ### The timestamp (R167) -/

/-- Readers see the timestamp held while a record of its backward step waits (Table 12.12). -/
def tsHeld (d : Dyn) : Bool := d.fs.waiting.any (fun w => w.record.mech = 0x0E)

/-- TS_BACK: the sampled timestamp is lower than before, compared as in R151 (R172). -/
def tsBack (ts : W64) (k : Cfg) (d : Dyn) : Dyn :=
  if reached ts d.ts || tsHeld d then d
  else
    let d := fault k (count d cTsBack 1) { frec 0x0E .timeout (7 * 4096 + 4) with
      detail := w64 (d.ts.toNat % p32 + ts.toNat % p32 * p32) }
    if tsHeld d then d else { d with ts := ts }

end Sys2Proof.Machine
end

