-- ==== Sys2Proof/Machine/Service.lean ====
section
/-! DEFINITION. The standing service (R162, R163, R305 to R310, R373): SERVICE_START, SERVICE_STOP, SVC_REQ_TAIL, SVC_RES_HEAD,
SERVICE_REQUEST_TAKE, STEP_BOUNDARY, BATCH_TABLE_ACK, STEP_COMPLETION. -/
namespace Sys2Proof.Machine

def modSv (d : Dyn) (f : Service → Service) : Dyn := { d with sv := f d.sv }

/-! ### The service block (Table 10.12) -/

def Service.b (s : Service) (lo n : Nat) : Nat := bits s.block.toNat (8 * lo) (8 * n)
def Service.seedidx (s : Service) : Nat := s.b 0 4
def Service.reqBase (s : Service) : Nat := s.b 8 8
def Service.reqLog2 (s : Service) : Nat := s.b 18 1
def Service.resLog2 (s : Service) : Nat := s.b 19 1
def Service.batchMax (s : Service) : Nat := s.b 20 2
def Service.resBase (s : Service) : Nat := s.b 24 8
def Service.batchTab (s : Service) : Nat := s.b 32 8
def Service.wdigest (s : Service) : Nat := s.b 40 8

/-- R305 and R4 for a service block, its bases 4 KiB aligned. -/
def svcBlockOk (w : BitVec 512) : Bool :=
  let s : Service := { Service.none with block := w }
  s.b 4 4 = 0 && s.b 16 2 = 0 && s.b 22 2 = 0 && s.b 48 16 = 0 && s.reqBase % 4096 = 0 && s.resBase % 4096 = 0
    && 1 ≤ s.batchMax && s.batchMax ≤ 4096 && 4 ≤ s.reqLog2 && s.reqLog2 ≤ 16 && 4 ≤ s.resLog2 && s.resLog2 ≤ 16

/-! ### Request fields (Table 10.13) -/

def qRseq (w : BitVec 512) : Nat := bits w.toNat 0 32
def qReqid (w : BitVec 512) : Nat := bits w.toNat 32 32
def qStream (w : BitVec 512) : Nat := bits w.toNat 64 4
def qAdmiten (w : BitVec 512) : Bool := bit w.toNat 68
def qExpen (w : BitVec 512) : Bool := bit w.toNat 69
def qAdmit (w : BitVec 512) : Nat := bits w.toNat 128 64
def qExpiry (w : BitVec 512) : Nat := bits w.toNat 192 64
def qMaxsteps (w : BitVec 512) : Nat := bits w.toNat 384 32

/-- R306. -/
def svcReqOk (w : BitVec 512) : Bool :=
  bits w.toNat 70 26 = 0 && bits w.toNat 96 32 = 0 && bits w.toNat 416 96 = 0 && qMaxsteps w ≠ 0

/-! ### Result entries (R309) -/

/-- A result without its RESSEQ and PHASE. -/
def resultWord (w : BitVec 512) (st : Status) (steps : W32) (step : W64) (cairn : W256) : BitVec 512 :=
  BitVec.ofNat 512 (qRseq w * 2 ^ 32 + qReqid w * 2 ^ 64 + st.code * 2 ^ 96 + steps.toNat * 2 ^ 128 + step.toNat * 2 ^ 192
    + cairn.toNat * 2 ^ 256)

/-- A request ends without having been admitted. -/
def endUnadmitted (d : Dyn) (w : BitVec 512) (st : Status) : Dyn :=
  modSv d (fun s => { s with results := s.results ++ [resultWord w st 0 d.step 0] })

/-- The write of one result at the next index, with its RESSEQ and PHASE. -/
def postResult (k : Cfg) (d : Dyn) (w : BitVec 512) : Dyn :=
  let s := d.sv
  let full := setBits (w.toNat + s.resSeq.toNat) 111 1 (phaseOf s.resNext s.resLog2)
  let a := (s.resBase + s.resNext.toNat % 2 ^ s.resLog2 * 64) % p64
  let d := modSv d (fun s => { s with resNext := s.resNext + 1, resSeq := s.resSeq + 1 })
  busWrite k d a (leBytes 64 full) (.svcResult s.resNext)

/-- Posts waiting results, in order, while the result ring has room. -/
def flushResults (k : Cfg) : List (BitVec 512) → Dyn → Dyn
  | [], d => modSv d (fun s => { s with results := [] })
  | w :: t, d =>
    if dist32 d.sv.resHead d.sv.resNext < 2 ^ d.sv.resLog2 then flushResults k t (postResult k d w)
    else modSv d (fun s => { s with results := w :: t })

/-! ### The end of the service (R310) -/

/-- Watch entries of a request, freed with it (R153). -/
def dropSvcWatch (d : Dyn) (order : Nat) : Dyn :=
  let keep (x : SvcWatch) : Bool := x.order ≠ order
  { d with ch := { d.ch with expiry := d.ch.expiry.filter keep, admission := d.ch.admission.filter keep } }

/-- A pending request leaves the window with a status. -/
def endPending (d : Dyn) (r : SvcReq) (st : Status) : Dyn :=
  let d := modSv (dropSvcWatch d r.order) (fun s => { s with window := s.window.filter (fun x => x.order ≠ r.order) })
  endUnadmitted d r.w st

/-- The request in a batch slot finishes: a result of the last step, or, when it has run in none, one without a step. -/
def endSlot (d : Dyn) (slot : Nat) (b : BatchSlot) (st : Status) : Dyn :=
  let ran := b.steps ≠ 0 || !b.fresh
  let w := if ran then resultWord b.w st b.steps d.sv.lastStep d.sv.lastCairn else resultWord b.w st 0 d.step 0
  modSv d (fun s => { s with batch := tdel s.batch slot, results := s.results ++ [w] })

/-- Every request of the batch finishes with CANCELLED. -/
def cancelBatch (d : Dyn) : Dyn := d.sv.batch.foldl (fun d e => endSlot d e.1 e.2 .cancelled) d

/-- No step is in flight and the batch is empty. -/
def Service.idle (s : Service) : Bool := !s.inFlight && s.batch.isEmpty

/-- The result and batch-table writes of the service that are out. -/
def svcWritesOut (d : Dyn) : Bool :=
  d.bus.writes.any (fun j => match j.use with
    | .svcResult _ => true
    | .batchTab => true
    | _ => false)

/-- The service has stopped: RUN is 0, and every SERVICE_STOP that waits completes. -/
def svcStopped (d : Dyn) : Dyn :=
  let ids := d.sv.stopCmds
  let d := modCtx d d.sv.ctx (fun x => { x with svc := false })
  let d := modSv d (fun s => { s with run := false, stopping := none, stopCmds := [], writing := false, stepDone := false })
  ids.foldl (fun d id => finish d id cSvcStop .ok d.step.toNat) d

/-- A stopping service whose batch has ended cancels what is pending, and stops once every request has its result. -/
def svcTryEnd (k : Cfg) (d : Dyn) : Dyn :=
  if !d.sv.run || d.sv.stopping.isNone || !d.sv.idle then d
  else
    let d := d.sv.window.foldl (fun d r => endPending d r .cancelled) d
    let d := flushResults k d.sv.results d
    if d.sv.reqHead = d.sv.reqTail && d.sv.results.isEmpty && !svcWritesOut d then svcStopped d else d

/-- A stop is asked for: DRAIN = 0 prevails over DRAIN = 1, and ends a batch with no step in flight at once. -/
def svcStop (k : Cfg) (d : Dyn) (drain : Bool) : Dyn :=
  if !d.sv.run then d
  else
    let drain := drain && d.sv.stopping ≠ some false
    let d := modSv d (fun s => { s with stopping := some drain })
    let d := if drain || d.sv.inFlight then d else modSv (cancelBatch d) (fun s => { s with writing := false })
    svcTryEnd k (flushResults k d.sv.results d)

/-! ### SERVICE_START and SERVICE_STOP -/

/-- Why a SERVICE_START is refused whatever its block holds (R305, R313). -/
def svcRefused (k : Cfg) (d : Dyn) (q : Req) : Option Status :=
  match tget d.gs.graphs (gidOf q.ops) with
  | none => some .badDescriptor
  | some g =>
    if d.sv.run || g.st ≠ .resident then some .badDescriptor
    else if k.det && g.racing then some .determinism else none

/-- The service runs: indices and RESSEQ 0, STEP set when the command says so, with its record (Table 11.6). -/
def svcRun (d : Dyn) (q : Req) (block : BitVec 512) : Dyn :=
  let step := w64 (opn q.ops 32 8)
  let d := if opn q.ops 18 1 = 1 then
      { rpPut d 0x09 false q.id.c q.id.r (step.toNat * 2 ^ 64) [] none with step := step } else d
  let d := { d with sv := { Service.none with run := true, ctx := q.id.c, gid := gidOf q.ops, block := block } }
  finish (modCtx d q.id.c (fun x => { x with svc := true })) q.id cSvcStart .ok d.step.toNat

/-- A refused SERVICE_START; its VALUE is STEP, which it leaves alone. -/
def svcRefuse (d : Dyn) (q : Req) (st : Status) : Dyn :=
  finish (takeReq (dropRead d (.svcBlock q.id)) q) q.id cSvcStart st d.step.toNat

/-- SERVICE_START: the context's next request goes one step on. -/
def serviceStart (c : Nat) (k : Cfg) (d : Dyn) : Dyn :=
  match frontOp d c cSvcStart with
  | none => d
  | some q =>
    match svcRefused k d q with
    | some st => svcRefuse d q st
    | none =>
      if !d.bus.reads.any (fun j => j.use = .svcBlock q.id) then busRead k d (opn q.ops 24 8) 64 (.svcBlock q.id)
      else match readDone d (.svcBlock q.id) with
        | none => d
        | some j =>
          let w := BitVec.ofNat 512 (leNat (j.data.getD []))
          if j.err then svcRefuse d q .eccUncorr
          else if !rpRoom d 1 false then blockReq d q
          else
            let d := rpImg d q.id (digBytes (j.data.getD []))
            if !svcBlockOk w then svcRefuse d q .badDescriptor
            else svcRun (takeReq (dropRead d (.svcBlock q.id)) q) q w

/-- SERVICE_STOP: admission ends at once; with no service running it has stopped already. -/
def serviceStop (c : Nat) (k : Cfg) (d : Dyn) : Dyn :=
  match frontOp d c cSvcStop with
  | none => d
  | some q =>
    let d := takeReq d q
    if !d.sv.run then finish d q.id cSvcStop .ok d.step.toNat
    else svcStop k (modSv d (fun s => { s with stopCmds := s.stopCmds ++ [q.id] })) (bit q.ops.toNat 0)

/-! ### The service's registers (R373) -/

/-- SVC_REQ_TAIL. -/
def svcReqTail (v : W32) (k : Cfg) (d : Dyn) : Dyn :=
  if !d.sv.run then d
  else if 2 ^ d.sv.reqLog2 < dist32 d.sv.reqHead v then
    let w := entryWord 2 .badDescriptor ((freeW d 0).setWidth 32) 7 (bits (freeW d 1).toNat 0 8) d.sv.reqHead (v.setWidth 64)
      (freeW d 2)
    let c := d.sv.ctx
    addPost k (svcStop k (useFree d 3) false) c (BitVec.ofNat 512 w)
  else modSv d (fun s => { s with reqTail := v, reqPend := true })

/-- SVC_RES_HEAD. -/
def svcResHead (v : W32) (k : Cfg) (d : Dyn) : Dyn :=
  if !d.sv.run || dist32 d.sv.resHead d.sv.resTail < dist32 d.sv.resHead v then d
  else
    let d := modSv d (fun s => { s with resHead := v })
    svcTryEnd k (flushResults k d.sv.results d)

/-- The write of a result has been acknowledged: TAIL advances, and the entry counts toward the context's interrupt. -/
def svcResultAck (k : Cfg) (d : Dyn) (idx : W32) : Dyn :=
  let out := d.bus.writes.filterMap (fun j => match j.use with
    | .svcResult i => some i
    | _ => none)
  let tail := (minBy (fun i => dist32 d.sv.resTail i) out).getD d.sv.resNext
  let d := modSv d (fun s => { s with resTail := if idx = s.resTail then tail else s.resTail })
  svcTryEnd k (irqCount d d.sv.ctx true)

/-! ### Taking requests (R307) -/

def windowCap : Nat := 64

/-- A request enters the pending window, with its watch entries. -/
def enterWindow (d : Dyn) (w : BitVec 512) : Dyn :=
  let n := d.sv.order
  let mk (t : Nat) : SvcWatch := { order := n, rseq := w32 (qRseq w), stream := qStream w, target := w64 t, found := none }
  let r : SvcReq := { w := w, order := n, admissible := !qAdmiten w, expired := false }
  let d := modSv d (fun s => { s with order := n + 1, window := s.window ++ [r] })
  let ex := if qExpen w then d.ch.expiry ++ [mk (qExpiry w)] else d.ch.expiry
  let ad := if qAdmiten w then d.ch.admission ++ [mk (qAdmit w)] else d.ch.admission
  { d with ch := { d.ch with expiry := ex, admission := ad } }

/-- The request ring's serve loop is at a snapshot of TAIL: the last one is used up, and TAIL has moved or the doorbell is pending (R284). -/
def Service.snapDue (s : Service) : Bool := s.run && s.reqHead = s.reqSnap && (s.reqTail ≠ s.reqHead || s.reqPend)

/-- The snapshot, with its record (R284, R326). -/
def svcSnap (d : Dyn) : Dyn :=
  if !d.sv.snapDue || !rpRoom d 1 false then d
  else
    let d := rpPut d 0x04 false d.sv.ctx 0 (d.sv.reqTail.toNat + 2 ^ 32) [] none
    modSv d (fun s => { s with reqSnap := s.reqTail, reqPend := false })

/-- SERVICE_REQUEST_TAKE: a pass of the serve loop, and the request at HEAD, as read from the ring. A malformed one is completed at once;
once the batch of a stopping service has ended, so is every request not yet fetched. -/
def serviceRequestTake (w : BitVec 512) (k : Cfg) (d : Dyn) : Dyn :=
  let d := svcSnap d
  let s := d.sv
  if !s.run || s.reqHead = s.reqSnap || windowCap ≤ s.window.length || (s.stopping.isSome && !s.idle) || !rpRoom d 3 false
  then d
  else
    let d := rpPut d 0x07 false s.ctx 0 (qRseq w + s.reqHead.toNat * 2 ^ 32)
      [w256 w.toNat, w256 (w.toNat >>> 256)] none
    let d := modSv d (fun s => { s with reqHead := s.reqHead + 1 })
    let d := if !svcReqOk w then endUnadmitted d w .badDescriptor
      else if s.stopping.isSome then endUnadmitted d w .cancelled else enterWindow d w
    svcTryEnd k (flushResults k d.sv.results d)

/-! ### Step boundaries and steps (R307 to R309) -/

/-- ADMIT as it orders admission. -/
def SvcReq.admitKey (r : SvcReq) : Nat := if qAdmiten r.w then qAdmit r.w else 0

def Service.freeSlots (s : Service) : List Nat := (upFrom 0 s.batchMax).filter (fun i => !(tkeys s.batch).contains i)

/-- A pending request is admitted to a batch slot. -/
def admitTo (d : Dyn) (slot : Nat) (r : SvcReq) : Dyn :=
  modSv (dropSvcWatch d r.order) (fun s => { s with
    window := s.window.filter (fun x => x.order ≠ r.order),
    batch := tput s.batch slot { w := r.w, steps := 0, fresh := true } })

/-- Fills the free slots, lowest first, with admissible requests in ascending ADMIT and then ring order. -/
def fillBatch (d : Dyn) : Dyn :=
  let rs := isort (fun a b => a.admitKey < b.admitKey || (a.admitKey = b.admitKey && a.order ≤ b.order))
    (d.sv.window.filter (·.admissible))
  (d.sv.freeSlots.zip rs).foldl (fun d e => admitTo d e.1 e.2) d

/-- The 32 bytes of a batch slot (R308). -/
def batchSlotBytes (b : Option BatchSlot) : List Byte :=
  match b with
  | none => leBytes 32 0
  | some b => leBytes 32 (qRseq b.w + qReqid b.w * 2 ^ 32 + b.steps.toNat * 2 ^ 64 + (if b.fresh then 2 else 1) * 2 ^ 96
      + bits b.w.toNat 256 128 * 2 ^ 128)

def batchBytes (s : Service) : List Byte := (upFrom 0 s.batchMax).flatMap (fun i => batchSlotBytes (tget s.batch i))

/-- This is a step boundary: a step's return has been processed, or the batch is empty and a pending request admissible. -/
def Service.atBoundary (s : Service) : Bool :=
  s.run && !s.inFlight && !s.writing && (s.stepDone || (s.batch.isEmpty && s.window.any (·.admissible)))

/-- STEP_BOUNDARY. -/
def stepBoundary (k : Cfg) (d : Dyn) : Dyn :=
  if !d.sv.atBoundary || !d.sv.results.isEmpty || !rpRoom d 1 false then d
  else
    let d := modSv d (fun s => { s with stepDone := false })
    let d := (d.sv.window.filter (·.expired)).foldl (fun d r => endPending d r .timeout) d
    let d := if d.sv.stopping.isSome then d else fillBatch d
    let d := flushResults k d.sv.results d
    if d.sv.batch.isEmpty then svcTryEnd k d
    else busWrite k (modSv d (fun s => { s with writing := true })) d.sv.batchTab (batchBytes d.sv) .batchTab

/-- The launch request of a step (R308). -/
def stepReq (s : Service) : Req :=
  { id := { c := s.ctx, r := 0, dseq := 0 }, svc := true, op := cLaunch, held := false,
    ops := BitVec.ofNat 384 (s.gid + s.seedidx * 2 ^ 32 + s.wdigest * 2 ^ 128) }

/-- The batch table is written: the step's launch is posted. A launch table with no room for the request, or a result that a full ring holds back,
holds it until then (R309). -/
def batchWritten (d : Dyn) : Dyn :=
  if !d.sv.run || !d.sv.writing || !d.sv.results.isEmpty || !reqRoom d then d
  else
    let d := modSv d (fun s => { s with writing := false, inFlight := true })
    postReq d (stepReq d.sv)

/-- BATCH_TABLE_ACK: the acknowledgement of the batch table's write. -/
def batchTableAck (k : Cfg) (d : Dyn) : Dyn :=
  let isTab (j : WrJob) : Bool := j.use = .batchTab
  if d.bus.writes.any isTab then
    let d := { d with bus := { d.bus with writes := dropFirst isTab d.bus.writes } }
    svcTryEnd k (batchWritten d)
  else batchWritten d

/-- The unprocessed completion return of the service's step. -/
def stepReturn (d : Dyn) : Option Ret := d.lt.rets.find? (fun r => r.kind = 0 && r.svc && !r.fe)

/-- The outcome of a step for one batch slot (R309). -/
def slotOutcome (st : Status) (dones : List Byte) (d : Dyn) (e : Nat × BatchSlot) : Dyn :=
  if st ≠ .ok then endSlot d e.1 { e.2 with fresh := false } st
  else
    let b : BatchSlot := { e.2 with steps := e.2.steps + 1, fresh := false }
    if dones.getD e.1 0 = 1 || qMaxsteps b.w ≤ b.steps.toNat then endSlot d e.1 b .ok
    else modSv d (fun s => { s with batch := tput s.batch e.1 b })

/-- STEP_COMPLETION: the step's return, with the DONE bytes read from the batch table. -/
def stepCompletion (dones : List Byte) (k : Cfg) (d : Dyn) : Dyn :=
  match stepReturn d with
  | none => d
  | some r =>
    if !d.sv.run || !d.sv.inFlight then d
    else
      let c := w256 (cairn r.prog (w64 d.sv.wdigest) 0 r.stepv d.sv.seedidx k.ftv.toNat r.mode)
      let d := modSv (markRet d r) (fun s => { s with inFlight := false, stepDone := true, lastStep := r.stepv, lastCairn := c })
      let d := d.sv.batch.foldl (slotOutcome r.status dones) d
      let d := if d.sv.stopping = some false then cancelBatch d else d
      svcTryEnd k (flushResults k d.sv.results d)

end Sys2Proof.Machine
end

