-- ==== Sys2Proof/Machine/Mailbox.lean ====
section
/-! DEFINITION. Mailboxes (R213, R293, R303, R310, R326, R383): MBOX_DOORBELL and the firmware's answers OPEN, CLOSE, QUERY,
QUIESCE and UNDEFINED_MESSAGE. -/
namespace Sys2Proof.Machine

def Ctx.msgWord (x : Ctx) (i : Nat) : Nat := (tgetD x.mboxIn i 0).toNat
def Ctx.msg (x : Ctx) : Nat := bits (x.msgWord 0) 0 8

/-- MBOX_DOORBELL. -/
def mboxDoorbell (c : Nat) (_k : Cfg) (d : Dyn) : Dyn :=
  modCtx d c (fun x => if x.mboxBusy then { x with mboxBusyErr := true } else { x with mboxBusy := true, mboxTaken := false })

/-- The 16 words of the inbound mailbox as two 32-byte slots. -/
def mboxSlots (x : Ctx) : List W256 :=
  let half (o : Nat) : W256 := w256 (leNat ((upFrom o 8).flatMap (fun i => leBytes 4 (x.msgWord i))))
  [half 0, half 8]

/-- The firmware takes a message, with its record; none when there is no such message, or no room for the record (R328). -/
def takeMsg (d : Dyn) (c : Nat) (isMsg : Nat → Bool) : Option Dyn :=
  let x := getCtx d c
  if !x.mboxBusy || !isMsg x.msg then none
  else if x.mboxTaken then some d
  else if !rpRoom d 3 false then none
  else some (setCtx (rpPut d 0x05 false c 0 0 (mboxSlots x) none) c { x with mboxTaken := true })

/-- The reply: word 0 with MSG, STATUS and MTAG, and the reply words from word 1 on; it always requests the interrupt. -/
def reply (d : Dyn) (c : Nat) (st : Status) (ws : List Nat) : Dyn :=
  let x := getCtx d c
  let w0 := x.msg + st.code * 2 ^ 8 + bits (x.msgWord 0) 16 16 * 2 ^ 16
  let o := ((upFrom 0 16).zip (w0 :: ws)).foldl (fun t e => tset t e.1 (w32 e.2) 0) x.mboxOut
  let d := setCtx d c { x with mboxOut := o, mboxReply := true, mboxBusy := false, mboxTaken := false }
  out d (.msix (irqVector x))

/-! ### OPEN -/

/-- The page as OPEN and CLOSE leave it: reset values, but for the mailbox and CTX_IRQ (R383). -/
def pageReset (x : Ctx) : Ctx :=
  { Ctx.init with mboxIn := x.mboxIn, mboxOut := x.mboxOut, mboxBusy := x.mboxBusy, mboxBusyErr := x.mboxBusyErr,
                  mboxReply := x.mboxReply, mboxTaken := x.mboxTaken, irq := x.irq }

/-- The context's signal and event bindings end (R213, R293): an operation that waits for an entry finds none. -/
def releaseBindings (k : Cfg) (d : Dyn) (c : Nat) : Dyn :=
  let clear (t : Tab W32) : Tab W32 := t.filter (fun e => e.1 / 65536 ≠ c)
  let cl (l : List (Nat × W32)) : List (Nat × W32) := l.filter (fun e => e.1 / 65536 ≠ c)
  let sg := { d.sg with map := clear d.sg.map, emap := clear d.sg.emap, cache := cl d.sg.cache, ecache := cl d.sg.ecache }
  let ws := d.sg.mapWaits.filter (fun w => w.ctx = c)
  let d := releaseSigs { d with sg := { sg with mapWaits := d.sg.mapWaits.filter (fun w => w.ctx ≠ c) } } c
  let ofCtx (u : RdUse) : Bool := match u with
    | .mapLine _ line => line / 4096 = c
    | _ => false
  let d := { d with bus := { d.bus with reads := d.bus.reads.filter (fun j => !ofCtx j.use) } }
  ws.foldl (fun d w => sigAct k d w 0) d

def mapBytes : Nat := 0x40000

/-- OPEN writes 0 to every entry of the context's two maps in memory. -/
def clearMaps (k : Cfg) (d : Dyn) (c : Nat) : Dyn :=
  let d := releaseBindings k d c
  let z : List Byte := List.replicate mapBytes 0
  let d := busWriteOn .memory d ((k.sigMapBase.toNat + mapBytes * c) % p64) z .map
  busWriteOn .memory d ((k.evtMapBase.toNat + mapBytes * c) % p64) z .map

/-- OPEN. -/
def openMsg (c : Nat) (k : Cfg) (d : Dyn) : Dyn :=
  match takeMsg d c (fun m => m = 1) with
  | none => d
  | some d =>
    let x := getCtx d c
    let rev := bits (x.msgWord 1) 0 8
    if k.health = .flagged then reply d c .cancelled []
    else if x.isOpen || !(rev = 1 || rev = 2) then reply d c .badDescriptor []
    else
      let d := clearMaps k d c
      let d := setCtx (forgetIdx d c) c { pageReset x with isOpen := true, rev := rev, irq := 0 }
      let d := { d with fe := { d.fe with opened := true } }
      reply d c .ok [rev + b2n (k.priv c) * 2 ^ 8]

/-! ### CLOSE and QUIESCE -/

/-- Every ring stops as under STOP_REQ. -/
def stopRings (d : Dyn) (c : Nat) : Dyn := (upFrom 0 ringCount).foldl (fun d r => modRing d c r (ringStop d.fc)) d

/-- A cancellation of the context's launches is posted, or waits for a free entry, while one of them runs that has not failed (R296). -/
def cancelCtx (d : Dyn) (c : Nat) : Dyn :=
  let runs := (cancelNamed d c true 0 0).any (fun s => (tget d.ls.slots s).any (fun l => l.failed.isNone))
  if !runs || (d.lt.reqs ++ d.fe.cancels).any (fun q => q.op = cCancel && q.id.c = c) then d
  else { d with fe := { d.fe with cancels := d.fe.cancels ++ [cancelReq c true 0 0] } }

def ringsStill (d : Dyn) (c : Nat) : Bool :=
  (upFrom 0 ringCount).all (fun r => let g := getRing d c r; g.st = .stopped || g.st = .disabled)

/-- What still waits for the context's completion ring goes with the context: entries of the front end, and notifications. -/
def dropWaiting303 (d : Dyn) (c : Nat) : Dyn :=
  let rets := mapIf (fun r => r.kind = 1 && r.id.c = c) (fun r => { r with fe := true }) d.lt.rets
  let posts := d.fe.posts.filter (fun p => p.1 ≠ c)
  { d with lt := { d.lt with rets := rets }, fe := { d.fe with posts := posts } }

/-- CLOSE: goes as far as it can; the reply follows once nothing of the context is in flight. -/
def closeMsg (c : Nat) (k : Cfg) (d : Dyn) : Dyn :=
  match takeMsg d c (fun m => m = 2) with
  | none => d
  | some d =>
    let d := cancelCtx (stopRings d c) c
    let d := if d.sv.run && d.sv.ctx = c then svcStop k d false else d
    if !ringsStill d c || ctxInflight d c ≠ 0 || (d.sv.run && d.sv.ctx = c) then d
    else
      let d := dropWaiting303 (releaseBindings k (forgetIdx d c) c) c
      reply (setCtx d c (pageReset (getCtx d c))) c .ok []

/-- QUIESCE: the rings stop; the reply follows once nothing of the context is in flight. -/
def quiesceMsg (c : Nat) (_k : Cfg) (d : Dyn) : Dyn :=
  match takeMsg d c (fun m => m = 4) with
  | none => d
  | some d =>
    let d := stopRings d c
    if !ringsStill d c || ctxInflight d c ≠ 0 then d else reply d c .ok [0]

/-! ### QUERY and undefined messages -/

def queryMsg (c : Nat) (k : Cfg) (d : Dyn) : Dyn :=
  match takeMsg d c (fun m => m = 3) with
  | none => d
  | some d => reply d c .ok [k.fwver.toNat, k.ftv.toNat, 3]

def undefinedMsg (c : Nat) (_k : Cfg) (d : Dyn) : Dyn :=
  match takeMsg d c (fun m => m = 0 || 5 ≤ m) with
  | none => d
  | some d => reply d c .badDescriptor []

end Sys2Proof.Machine
end

