-- ==== Sys2Proof/Machine/Faults.lean ====
section
/-! DEFINITION. Serving fault records, history and signatures (R331 to R334, R363 to R365), the scrub (R335 to R338), faults of
Denut's own logic (R341, R344, R345): FAULT_SERVE, FS_FREE, SCRUB_READ, DUP_COMPARE_MISMATCH, LOCKSTEP_MISMATCH. -/
namespace Sys2Proof.Machine

/-! ### Waiting records (R333) -/

/-- Records that wait at their sources enter, in order, as far as entries are free; what waited behind them goes on. -/
def enterWaiting (k : Cfg) (d : Dyn) : Dyn :=
  d.fs.waiting.foldl (fun d w =>
    match faultSlot d w.record.mech with
    | some n => recordIn k d n w
    | none => { d with fs := { d.fs with waiting := d.fs.waiting ++ [w] } }) { d with fs := { d.fs with waiting := [] } }

/-! ### History and classification (R363, R364) -/

def UnitHist.none : UnitHist := { stamps := [], total := 0, failStamps := [], lastFailed := false, twice := false }

def getHist (d : Dyn) (unit : Nat) : UnitHist := tgetD d.fs.hist unit .none

def setHist (d : Dyn) (unit : Nat) (h : UnitHist) : Dyn := { d with fs := { d.fs with hist := tset d.fs.hist unit h .none } }

/-- Stamps of the last 30 days. -/
def recent (now : Nat) (stamps : List Nat) : Nat := (stamps.filter (fun t => now < t + 2592000)).length

/-- classify of R364: PERMANENT. -/
def UnitHist.permanent (h : UnitHist) (now : Nat) : Bool := 3 ≤ recent now h.stamps || h.twice

/-- A charged event of a unit; `survey` for a survey failure. -/
def chargeUnit (now : Nat) (survey : Bool) (d : Dyn) (unit : Nat) : Dyn :=
  let h := getHist d unit
  setHist d unit { h with stamps := h.stamps ++ [now], total := h.total + 1,
                          failStamps := if survey then h.failStamps ++ [now] else h.failStamps }

/-- The unit that holds an address that an engine reported (R331). -/
def holdingUnit (k : Cfg) (a : W64) : Nat :=
  match Config.siteAt a with
  | some i => i.toNat
  | none => if k.portOf a.toNat = .memory then 8 * 4096 + 1 else 8 * 4096

/-- UNIT in the signature. -/
def FRec.signUnit (k : Cfg) (r : FRec) : Nat := if r.mech = 0x0C then holdingUnit k r.detail else r.unit

/-- The second unit of a shadow mismatch or of an engine-reported error (key 20). -/
def FRec.peer (r : FRec) : Option Nat :=
  if r.mech = 0x08 then some (unitOf (bits r.detail.toNat 0 17)) else if r.mech = 0x0C then some r.unit else none

/-- The units that a record charges. -/
def FRec.charged (k : Cfg) (r : FRec) : List Nat :=
  if r.mech = 0x0C then [r.signUnit k]
  else if r.mech = 0x08 then (r.unit :: r.peer.toList).eraseDups
  else if r.charge || r.mech = 0x0D then [r.unit] else []

/-! ### Signatures (Table 12.10): CBOR in core deterministic encoding -/

def beBytes (n v : Nat) : List Byte := (leBytes n v).reverse

/-- Major type and argument in the shortest form. -/
def cborHead (major n : Nat) : List Byte :=
  let ib (x : Nat) : Byte := BitVec.ofNat 8 (major * 32 + x)
  if n < 24 then [ib n]
  else if n < 256 then ib 24 :: beBytes 1 n
  else if n < 65536 then ib 25 :: beBytes 2 n
  else if n < p32 then ib 26 :: beBytes 4 n
  else ib 27 :: beBytes 8 n

def cborUint (key v : Nat) : List Byte := cborHead 0 key ++ cborHead 0 v

def cborBytes (key : Nat) (bs : List Byte) : List Byte := cborHead 0 key ++ cborHead 2 bs.length ++ bs

def cborOpt (key : Nat) (o : Option Nat) : List Byte :=
  match o with
  | some v => cborUint key v
  | none => []

/-- The signature of a record, its unit already charged. -/
def signature (k : Cfg) (d : Dyn) (r : FRec) : List Byte :=
  let now := k.now.toNat
  let u := r.signUnit k
  let h := getHist d u
  let opt := [r.eng.isSome, r.ctx.isSome, r.launch.isSome, r.node.isSome, r.peer.isSome]
  cborHead 5 (16 + (opt.filter id).length) ++ cborUint 0 1 ++ cborBytes 1 k.boot.serial ++ cborUint 2 k.fwver.toNat
    ++ cborUint 3 k.ftv.toNat ++ cborHead 0 4 ++ cborHead 6 1 ++ cborHead 0 now ++ cborUint 5 r.ts.toNat
    ++ cborUint 6 r.fseq.toNat ++ cborUint 7 r.status.code ++ cborUint 8 r.mech ++ cborUint 9 r.plane ++ cborUint 10 u
    ++ cborOpt 11 r.eng ++ cborOpt 12 r.ctx ++ cborOpt 13 r.launch ++ cborOpt 14 r.node
    ++ cborBytes 15 (leBytes 8 r.detail.toNat) ++ cborUint 16 (b2n (h.permanent now))
    ++ cborHead 0 17 ++ cborHead 4 3 ++ cborHead 0 (recent now h.stamps) ++ cborHead 0 (recent now h.failStamps)
    ++ cborHead 0 h.total ++ cborHead 0 18 ++ cborHead 7 (if k.det then 21 else 20) ++ cborUint 19 k.shfrac
    ++ cborOpt 20 r.peer

/-! ### Health, hedges and the order of a drain (R354 to R358) -/

/-- The health state changes: a STATE record, and a change for the controller to read. -/
def setHealth (b : Block) (h : Health) : Block :=
  let d := traceState b.cfg b.d 0 h.code b.cfg.health.code
  { cfg := { b.cfg with health := h }, d := { d with mn := { d.mn with healthUnread := true } } }

/-- A drain is asked for while the chip is in SERVICE. -/
def askDrain (b : Block) (survey : Option Bool) (cause : Option (Status × Nat)) (units : List Nat) : Block :=
  let o := b.cfg.drain.getD { survey := none, cause := none, units := [], told := false, since := 0 }
  let n : Drain := { o with survey := survey.orElse (fun _ => o.survey), cause := o.cause.orElse (fun _ => cause),
                            units := (o.units ++ units).eraseDups }
  { b with cfg := { b.cfg with drain := some n } }

/-- What a permanent classification does: it flags in the boot phase that has no service yet; in SERVICE it asks for a drain; in
a drain under way it is what the chip will be flagged for (R355, R358). -/
def permanentFound (b : Block) (st : Status) (n : Nat) (units : List Nat) : Block :=
  match b.cfg.health with
  | .flagged => b
  | _ => askDrain b none (some (st, n)) units

/-- A FAULT entry of a status and a record: nothing states its other fields (log 33: DESIGN CHOICE). -/
def faultEntryPost (k : Cfg) (d : Dyn) (c : Nat) (st : Status) (n : Nat) : Dyn :=
  let w := entryWord 3 st ((freeW d 0).setWidth 32) (bits (freeW d 1).toNat 0 3) (bits (freeW d 2).toNat 0 8)
    ((freeW d 3).setWidth 32) (w64 n) (freeW d 4)
  addPost k (useFree d 5) c (BitVec.ofNat 512 w)

/-- A context that gets FAULT entries (Table 10.11). -/
def faultCtx (d : Dyn) (c : Nat) : Bool := (getCtx d c).isOpen && (getCtx d c).rev = 2

/-! ### FAULT_SERVE and FS_FREE -/

/-- The oldest record not yet served, by FSEQ. -/
def nextRecord (d : Dyn) : Option (Nat × FEntry) :=
  minBy (fun e => dist32 d.fs.fseq e.2.record.fseq) (d.fs.recs.filter (fun e => !e.2.served))

/-- FAULT_SERVE: the next record is charged, its signature exported and its FAULT entry posted; a unit classified permanent
causes a drain. -/
def faultServe (b : Block) : Block :=
  match nextRecord b.d with
  | none => b
  | some (n, e) =>
    let k := b.cfg
    let r := e.record
    let units := r.charged k
    let d := units.foldl (chargeUnit k.now.toNat (r.mech = 0x0D)) b.d
    let tells := r.ctx.any (faultCtx d)
    let recs := tput d.fs.recs n { e with served := true, posted := !tells }
    let d := { d with fs := { d.fs with recs := recs, sigs := d.fs.sigs ++ [(n, signature k d r)] } }
    let d := if tells then faultEntryPost k d (optNat r.ctx) r.status n else d
    let bad := units.filter (fun u => (getHist d u).permanent k.now.toNat)
    let b := { b with d := d }
    if bad.isEmpty then b else permanentFound b r.status n bad

/-- Everything R334 asks has been done for a record; a context that is no longer there needs no entry. -/
def FEntry.finished (d : Dyn) (e : FEntry) : Bool :=
  e.served && e.acked && (e.posted || !e.record.ctx.any (faultCtx d))

/-- FS_FREE: frees an entry whose record is done with, and waiting records enter. -/
def fsFree (n : Nat) (k : Cfg) (d : Dyn) : Dyn :=
  match tget d.fs.recs n with
  | none => d
  | some e => if e.finished d then enterWaiting k { d with fs := { d.fs with recs := tdel d.fs.recs n } } else d

/-! ### The scrub (R336 to R338) -/

/-- A corrected word: counted, and recorded when the visit before corrected it too. -/
def scrubCorrected (k : Cfg) (d : Dyn) (store unit word symbol : Nat) (key : Nat × Nat) : Dyn :=
  let again := d.fs.corrected.contains key
  let d := count d (cEccCe store) 1
  let d := { d with fs := { d.fs with corrected := if again then d.fs.corrected else key :: d.fs.corrected } }
  if !again then d
  else fault k d { frec 0x02 .eccCorr unit with detail := w64 (word + symbol * 2 ^ 56) }

/-- The launch whose rows hold a row of the counter banks. -/
def rowHolder (d : Dyn) (row : Nat) : Option Nat :=
  (d.ls.slots.find? (fun e => (upFrom (e.2.base / 64) (rowsOf e.2.nodes)).any (fun r => r % storeRows = row))).map (·.1)

/-- The first edge word of a 128-bit word of a slice (R78, R335). -/
def sliceEdge (slice word : Nat) : Nat := 8 * (64 * (word / 2) + slice) + 4 * (word % 2)

/-- Graphs with an edge in the four edge words from `e`. -/
def edgeGraphs (d : Dyn) (e : Nat) : List Nat :=
  (d.gs.graphs.filter (fun g => g.2.hasRuns && e < g.2.edgeBase + g.2.nEdges && g.2.edgeBase < e + 4)).map (·.1)

/-- A word that cannot be corrected (Table 12.4). -/
def scrubLost (d : Dyn) (edge : Bool) (unit word : Nat) : Dyn :=
  if edge then
    let gs := edgeGraphs d (sliceEdge unit word)
    let graphs := d.gs.graphs.map (fun g => if gs.contains g.1 then (g.1, { g.2 with damaged := true }) else g)
    let d := { d with gs := { d.gs with graphs := graphs } }
    (d.ls.slots.filter (fun l => l.2.inFlight && gs.contains l.2.graph)).foldl (fun d l => failLaunch d l.1 .eccUncorr) d
  else
    match rowHolder d word with
    | some s => failLaunch d s .eccUncorr
    | none => d

/-- The unit code of a bank or a slice. -/
def scrubUnit (edge : Bool) (unit : Nat) : Nat := (if edge then 3 else 2) * 4096 + unit

/-- The word that the scrub of a bank or a slice reads next (R336). -/
def scrubNext (d : Dyn) (u : Nat) : Nat := tgetD d.fs.scrub u 0

/-- SCRUB_READ: a bank or a slice scrubs its next word, of 16,384 in a full pass; the command names it and what the check finds, and with another
word the row does not happen (log 5: DESIGN CHOICE). A fallow bank is not scrubbed (R408), nor one whose record waits (R333, R336). -/
def scrubRead (edge : Bool) (unit word : Nat) (res : EccResult) (k : Cfg) (d : Dyn) : Dyn :=
  let u := scrubUnit edge unit
  let store := b2n edge
  let key := (u, word)
  if 64 ≤ unit || word ≠ scrubNext d u || (!edge && d.pw.cbFallow) || unitWaits d 0x02 u then d
  else
    let d := { d with fs := { d.fs with scrub := tset d.fs.scrub u ((word + 1) % 16384) 0 } }
    match res with
    | .clean => { d with fs := { d.fs with corrected := d.fs.corrected.filter (· ≠ key) } }
    | .corrected symbol => scrubCorrected k d store u word (symbol % 256) key
    | .uncorrectable =>
      let d := { d with fs := { d.fs with corrected := d.fs.corrected.filter (· ≠ key) } }
      let d := count d (cEccUe store) 1
      let d := fault k d { frec 0x02 .eccUncorr u with detail := w64 (word + 0xFF * 2 ^ 56), charge := true }
      settleAll (scrubLost d edge unit word)

/-! ### Denut's own logic -/

/-- The part's touch mask names a launch: masks are kept for the counter banks (R87); other parts' launches are the operands. -/
def touches (unit : Nat) (m : W64) : Bool := unit / 4096 = 2 && bit m.toNat (unit % 4096)

/-- DUP_COMPARE_MISMATCH: the copies of a part disagree on an output that belonged to the launches of `slots`. -/
def dupCompareMismatch (unit group : Nat) (slots : List Nat) (k : Cfg) (d : Dyn) : Dyn :=
  let r := { frec 0x03 .conservation unit with detail := w64 (group % 65536) }
  if sourceHolds d r then d
  else
    settleAll (conservationFault k d r (chargedTo d (fun s l => slots.contains s || touches unit l.touch)
      (fun e => touches unit e.banks || (slots.contains e.slot && (tget d.ls.slots e.slot).all (fun l => l.id = e.id)))))

/-- The DCP halts, every launch in flight is abandoned, and the fault summary flags the chip (R345). -/
def haltDcp (b : Block) : Block :=
  let d := (launchesInFlight b.d).foldl (fun d e => failLaunch d e.1 .conservation) b.d
  setHealth { cfg := { b.cfg with dcpHalted := true }, d := settleAll d } .flagged

/-- LOCKSTEP_MISMATCH: its record, and the halt. -/
def lockstepMismatch (pc : W64) (b : Block) : Block :=
  haltDcp (onD b (fun k d => fault k d { frec 0x13 .conservation (6 * 4096) with detail := pc }))

end Sys2Proof.Machine
end

