-- ==== Sys2Proof/Machine/Health.lean ====
section
/-! DEFINITION. Draining, hedging, flagging and the survey (R354 to R362, R389), and the management port's orders, time and
signatures (R398, R447): DRAIN_ORDER, DRAIN_WAIT_EXPIRY, DRAINED, SURVEY_START, SURVEY_END, FS_HEALTH_WRITE, HEDGE_WRITE,
MGT_DRAIN, MGT_QUICK_SURVEY, MGT_FULL_SURVEY, MGT_TIME_WRITE, MGT_SIG_DATA_READ, MGT_SIG_ACK, MGT_STATUS_READ. -/
namespace Sys2Proof.Machine

/-! ### Hedges (R357) -/

/-- A bit of a hedge list, ascending. -/
def putBit (l : List Nat) (i : Nat) (on : Bool) : List Nat :=
  let rest := l.filter (· ≠ i)
  if on then insertBy (fun a b => a ≤ b) i rest else rest

/-- The leaf of a HEDGE_EDGE bit. -/
def edgeLeaf (i : Nat) : Nat := mkLeaf (i / 256) (144 + i / 16 % 16) (i % 16)

/-- A bit of HEDGE_SITE or HEDGE_EDGE; bits of absent units ignore writes. -/
def hedgeBit (k : Cfg) (d : Dyn) (edge : Bool) (i : Nat) (on : Bool) : Dyn :=
  let fs := d.fs
  if edge then
    if k.present (edgeLeaf i) && i < 4096 then { d with fs := { fs with hedgeEdge := putBit fs.hedgeEdge i on } } else d
  else if k.sitePresent i && i < 4096 then { d with fs := { fs with hedgeSite := putBit fs.hedgeSite i on } } else d

/-- Hedges a unit: a site, or every populated slot of an edge stub. Other units have no hedge. -/
def hedgeUnit (k : Cfg) (d : Dyn) (unit : Nat) : Dyn :=
  let i := unit % 4096
  if unit / 4096 = 0 then hedgeBit k d false i true
  else if unit / 4096 = 1 then
    (upFrom 0 16).foldl (fun d s => hedgeBit k d true (edgeHedgeBit (16 * i + s)) true) d
  else d

/-- HEDGE_WRITE. -/
def hedgeWrite (edge : Bool) (i : Nat) (set : Bool) (k : Cfg) (d : Dyn) : Dyn :=
  if k.health = .draining || k.health = .survey then closeHedged (hedgeBit k d edge i set) else d

/-! ### Draining (R354 to R356) -/

/-- The firmware puts the chip into DRAINING: the service stops, and the units that caused the drain are hedged. -/
def enterDraining (b : Block) : Block :=
  let b := setHealth b .draining
  let o := b.cfg.drain.getD { survey := none, cause := none, units := [], told := false, since := 0 }
  let d := svcStop b.cfg b.d false
  { cfg := { b.cfg with drain := some { o with since := d.ts } }, d := closeHedged (o.units.foldl (hedgeUnit b.cfg) d) }

/-- DRAIN_ORDER: the firmware orders the drain that has been asked for. -/
def drainOrder (b : Block) : Block :=
  if b.cfg.health = .service && b.cfg.drain.isSome then enterDraining b else b

/-- Every open context is told, once, of the classification that caused the drain. -/
def drainTell (b : Block) : Block :=
  match b.cfg.drain with
  | some x =>
    match x.cause, x.told with
    | some (st, n), false =>
      let d := (tkeys b.d.fe.ctxs).foldl (fun d c => if faultCtx d c then faultEntryPost b.cfg d c st n else d) b.d
      { cfg := { b.cfg with drain := some { x with told := true } }, d := d }
    | _, _ => b
  | none => b

/-- DRAIN_WAIT_EXPIRY: DRAIN_WAIT microseconds after the drain began, what is still in flight is cancelled; 0 is no limit. The timestamp is compared
as in R151. -/
def drainWaitExpiry (b : Block) : Block :=
  let since := (b.cfg.drain.map (·.since)).getD 0
  if b.cfg.health ≠ .draining || b.cfg.drainWait = 0 || !reached b.d.ts (since + w64 (b.cfg.drainWait.toNat * 1000)) then b
  else
    let d := (launchesInFlight b.d).foldl (fun d e => failLaunch d e.1 .cancelled) b.d
    drainTell { b with d := settleAll d }

/-- Every port holds only packets whose nodes have ended. -/
def portsTerminal (d : Dyn) : Bool :=
  d.en.all (fun e => e.2.pkts.all (fun p =>
    match taskAt d p.task with
    | none => true
    | some t => t.ended))

/-- Some unit is classified permanent. -/
def somePermanent (b : Block) : Bool := b.d.fs.hist.any (fun e => e.2.permanent b.cfg.now.toNat)

/-- A drained chip with a unit classified permanent is flagged by its firmware (R358). -/
def flagPermanent (b : Block) : Block := if b.cfg.fwRuns && somePermanent b then setHealth b .flagged else b

/-- DRAINED: the fault summary's own transition; the firmware flags the chip at once when that is what it was drained for (R354, R358). -/
def drained (b : Block) : Block :=
  if b.cfg.health = .draining && noLaunch b.d && portsTerminal b.d then flagPermanent (setHealth (drainTell b) .drained) else b

/-! ### The survey (R359 to R362) -/

/-- A survey starts: its results are set to 0. `again` are the units that its second pass tests once more. -/
def startSurvey (b : Block) (full : Bool) (pass : Nat) (again : List Nat) : Block :=
  let s := { b.cfg.survey with full := full, pass := pass }
  let drain := b.cfg.drain.map (fun x => { x with survey := none })
  { cfg := { b.cfg with survey := s, drain := drain },
    d := { b.d with fs := { b.d.fs with passed := [], failed := [], again := again } } }

def surveyRefused (b : Block) : Block := { b with cfg := { b.cfg with survey := { b.cfg.survey with refused := true } } }

/-- A survey is asked for: it drains the chip first, starts at once, or is refused (R359, R404). -/
def surveyStart (full : Bool) (b : Block) : Block :=
  if b.cfg.boot.surveySize = 0 then surveyRefused b
  else match b.cfg.health with
    | .service => askDrain b (some full) none []
    | .drained => setHealth (startSurvey b full 1 []) .survey
    | _ => surveyRefused b

/-- A part that the command reports as failed: its record (MECH 0x0D) against its unit. -/
def surveyFail (k : Cfg) (d : Dyn) (f : Nat × Byte × W64) : Dyn :=
  unitFailed (fault k d { frec 0x0D ((Status.ofCode f.2.1.toNat).getD .digestMismatch) f.1 with plane := 1, detail := f.2.2 }) f.1

/-- What the survey leaves in the histories, once for each unit: a unit that failed it, and whether it failed the one before too; a unit that
passed it (R364). -/
def surveyHistory (d : Dyn) : Dyn :=
  let d := d.fs.failed.foldl (fun d u => let h := getHist d u
                                         setHist d u { h with lastFailed := true, twice := h.twice || h.lastFailed }) d
  d.fs.passed.foldl (fun d u => setHist d u { getHist d u with lastFailed := false }) d

/-- For the second survey every unit that did not fail is hedged. -/
def hedgeOthers (k : Cfg) (d : Dyn) (failed : List Nat) : Dyn :=
  let units := ((k.allLeaves.map unitOf).eraseDups).filter (fun u => !failed.contains u)
  closeHedged (units.foldl (hedgeUnit k) d)

/-- The release to SERVICE: every hedge is lifted, and the drain is over. -/
def toService (b : Block) : Block :=
  let b := setHealth b .service
  { cfg := { b.cfg with drain := none }, d := { b.d with fs := { b.d.fs with hedgeSite := [], hedgeEdge := [] } } }

/-- No survey runs any longer: PASS is 0, and the chip is DRAINED. -/
def surveyOver (b : Block) : Block :=
  setHealth { b with cfg := { b.cfg with survey := { b.cfg.survey with pass := 0 } } } .drained

/-- SURVEY_END. The engines have been judged packet by packet (R361); the command gives what the other parts of Table 12.8 that were tested have
come to, unit by unit (log 102: DESIGN CHOICE). A first survey with failures is followed by a second full one of the failed units with every other
unit hedged; after the second the chip is flagged or released (R362). It waits while a record of the survey waits (Table 12.12). -/
def surveyEnd (failed : List (Nat × Byte × W64)) (passed : List Nat) (b : Block) : Block :=
  if b.cfg.health ≠ .survey || mechWaits b.d 0x0D then b
  else
    let second := b.cfg.survey.pass = 2
    let tested (u : Nat) : Bool := !second || b.d.fs.again.contains u
    let d := (failed.filter (fun f => tested f.1)).foldl (surveyFail b.cfg) b.d
    let b : Block := { b with d := surveyHistory ((passed.filter tested).foldl unitPassed d) }
    let bad := b.d.fs.failed
    if !second && !bad.isEmpty then
      let b := startSurvey b true 2 bad
      { b with d := hedgeOthers b.cfg b.d bad }
    else
      let b := flagPermanent (surveyOver b)
      if second && b.cfg.health ≠ .flagged then toService b else b

/-! ### FS_HEALTH (R389) -/

/-- FS_HEALTH_WRITE: the firmware's transitions of Table 12.7; any other value is ignored. A chip with a unit classified permanent does not go back to
SERVICE (R364). -/
def fsHealthWrite (v : W32) (b : Block) : Block :=
  match b.cfg.health, Health.ofCode (bits v.toNat 0 3) with
  | .service, some .draining => enterDraining b
  | .service, some .flagged => if b.cfg.phase == .p5 then setHealth b .flagged else b
  | .drained, some .survey => setHealth (startSurvey b ((b.cfg.drain.bind (·.survey)).getD false) 1 []) .survey
  | .drained, some .flagged => setHealth b .flagged
  | .drained, some .service => if somePermanent b then b else toService b
  | .survey, some .drained => surveyOver b
  | _, _ => b

/-! ### The management port (R398, R447) -/

/-- The management port works: out of reset, and not frozen (R423; log 41: DEDUCED). -/
def Cfg.mgtRuns (k : Cfg) : Bool := !k.inReset && !k.frozen

/-- An access at the management port. -/
def runMgt (f : Block → Block) (s : State) : Res := runBlock (fun b => if b.cfg.mgtRuns then f b else b) s

/-- MGT_DRAIN: a drain asked for in SERVICE. -/
def mgtDrain (b : Block) : Block :=
  if b.cfg.phase == .booted && b.cfg.health = .service then askDrain b none none [] else b

/-- MGT_QUICK_SURVEY and MGT_FULL_SURVEY. -/
def mgtSurvey (full : Bool) (b : Block) : Block := if b.cfg.phase == .booted then surveyStart full b else b

/-- MGT_TIME_WRITE: both halves of TIME are applied together. -/
def mgtTimeWrite (lo hi : W32) (b : Block) : Block := { b with cfg := { b.cfg with now := hi ++ lo } }

/-- MGT_SIG_DATA_READ: the next 4 bytes of the oldest unacknowledged signature; bytes past its end read 0. -/
def mgtSigDataRead (b : Block) : Block :=
  let d := b.d
  match d.fs.sigs with
  | [] => { b with d := out d (.mgtRead 0) }
  | s :: _ =>
    let v := leAt s.2 d.fs.sigPos 4
    { b with d := out { d with fs := { d.fs with sigPos := d.fs.sigPos + 4 } } (.mgtRead (w32 v)) }

/-- MGT_SIG_ACK: the signature is stored; Denut moves to the next one. -/
def mgtSigAck (b : Block) : Block :=
  let d := b.d
  match d.fs.sigs with
  | [] => b
  | s :: t =>
    let recs := tmod d.fs.recs s.1 (fun e => if e.served then { e with acked := true } else e)
    { b with d := { d with fs := { d.fs with sigs := t, sigPos := 0, recs := recs } } }

/-- MGT_BOOT_STAT (Table 16.11). -/
def Cfg.bootStatWord (k : Cfg) : Nat := k.bootStat + b2n k.bootDone * 2 ^ 8 + b2n k.rx.isSome * 2 ^ 9

/-- MGT_STATUS_READ: MGT_HEALTH or MGT_BOOT_STAT; the read acknowledges its change. -/
def mgtStatusRead (health : Bool) (b : Block) : Block :=
  let mn := b.d.mn
  if health then { b with d := out { b.d with mn := { mn with healthUnread := false } } (.mgtRead (w32 b.cfg.health.code)) }
  else { b with d := out { b.d with mn := { mn with statUnread := false } } (.mgtRead (w32 b.cfg.bootStatWord)) }

end Sys2Proof.Machine
end

