-- ==== Sys2Proof/Machine/Power.lean ====
section
/-! DEFINITION. Power (R21, R405 to R412, R449): PWR_REQ, DOZE_ENTRY, DOZE_WAKE_SOURCE, MGT_WAKE, PWR_GATE_ACK,
COUNTER_BANK_FALLOW, MU_BANK_FALLOW, MU_BANK_WAKE, FALLOW_ACCESS. -/
namespace Sys2Proof.Machine

/-! ### DOZE (R405, R406) -/

/-- The data plane reports itself idle. -/
def dataIdle (k : Cfg) (d : Dyn) : Bool :=
  noLaunch d && !d.sv.inFlight && d.nb.queue.all (fun q => q.2.isEmpty) && d.lt.reqs.isEmpty && d.fe.cancels.isEmpty && d.nb.cq.isEmpty
    && d.cb.intake.isEmpty && d.sf.intake.isEmpty && d.rt.routes.isEmpty && d.bus.writes.isEmpty && d.rp.stage.isEmpty
    && (!k.traceSpill || d.tr.buf.isEmpty)

/-- An enabled ring that keeps the firmware from asking for DOZE: its STATE as reported is neither IDLE nor STOPPED (Table 12.7), or its doorbell is
pending. -/
def Ring.stirring (k : Cfg) (g : Ring) : Bool :=
  g.en && (!(ringState k g = .idle || ringState k g = .stopped) || g.pendingDb)

/-- The firmware's own conditions. -/
def fwIdle (k : Cfg) (d : Dyn) : Bool :=
  d.fe.ctxs.all (fun c => !c.2.mboxBusy && c.2.rings.all (fun r => !r.2.stirring k))
    && (!d.sv.run || (d.sv.reqHead = d.sv.reqTail && !d.sv.reqPend)) && d.fs.recs.all (fun e => e.2.finished d) && d.fs.waiting.isEmpty
    && k.health ≠ .survey

/-- The MU banks that a scoreboard entry, issued or held, or a valid circular region covers (R410). -/
def coveredBanks (d : Dyn) : List Nat :=
  let held := (d.dp.sbRoot ++ d.dp.sbReg.flatMap (·.2)).map (·.range.toNat)
  let regions := (d.sg.cregs.filter (fun c => c.2.valid)).map (fun c => cregRange c.2.entry.toNat)
  ((held ++ regions).flatMap (fun r => (rangeBanks r).map (muKey (rSite r)))).eraseDups

/-- What the data plane reports to the power controller: since when it is idle, since when no launch is in flight, and since when each MU bank
that was covered no longer is (R405, R408, R410). -/
def powerReport (k : Cfg) (d : Dyn) : Dyn :=
  let since (holds : Bool) (t : Option W64) : Option W64 := if holds then some (t.getD d.ts) else none
  let now := coveredBanks d
  let gone := d.pw.muCovered.filter (fun i => !now.contains i)
  { d with pw := { d.pw with
    idleFrom := since (dataIdle k d) d.pw.idleFrom, launchFrom := since (noLaunch d) d.pw.launchFrom,
    muCovered := now, muFrom := gone.foldl (fun t i => tput t i d.ts) d.pw.muFrom } }

/-- PWR_REQ: a 1 in bit 0 requests DOZE; a 0 has no effect (R21, Table 13.21). -/
def pwrReq (v : W32) (b : Block) : Block := { b with cfg := { b.cfg with dozeReq := b.cfg.dozeReq || bit v.toNat 0 } }

/-- A time of `us` microseconds has passed since a timestamp (1 GHz, R164); with none, nothing has begun. -/
def passed (d : Dyn) (since : Option W64) (us : Nat) : Bool := since.any (fun t => us * 1000 ≤ (d.ts - t).toNat)

/-- DOZE_ENTRY: the data plane has reported idle for DOZE_CTL.IDLE; the clocks are gated, with the record of the last clocked cycle. -/
def dozeEntry (b : Block) : Block :=
  let k := b.cfg
  if !k.dozeEn || !k.dozeReq || k.freezeWait || !dataIdle k b.d || !fwIdle k b.d || !b.d.held.isEmpty
      || !passed b.d b.d.pw.idleFrom k.dozeIdle.toNat
      || b.d.ch.expiry.any (fun w => w.found.isSome) || b.d.ch.admission.any (fun w => w.found.isSome) then b
  else { cfg := { k with doze := .dozing }, d := gateReq (traceState k b.d 1 1 0) .doze true }

/-- A wake source arrives: the islands are asked to be restored. -/
def wake (b : Block) : Block :=
  if b.cfg.doze = .dozing then { cfg := { b.cfg with doze := .waking }, d := gateReq b.d .doze false } else b

/-- A request of the management controller: in DOZE it is a wake source and is held until the wake is complete (R406). -/
def orElseWake (order : Option Bool) (b : Block) (f : Block → Block) : Block :=
  if b.cfg.doze ≠ .awake then wake { b with d := { b.d with held := b.d.held ++ [.order order] } } else f b

/-- Out of reset, and in DOZE. -/
def Cfg.asleep (k : Cfg) : Bool := !k.inReset && !k.frozen && k.doze ≠ .awake

/-- DOZE_WAKE_SOURCE: outside DOZE there is nothing to abandon but the firmware's request. -/
def dozeWakeSource (b : Block) : Block :=
  if b.cfg.asleep then wake b else { b with cfg := { b.cfg with dozeReq := false } }

/-! ### Acknowledgements of the host chip (R449) -/

/-- The counter banks are powered: every word reads 0, and the launches that waited are instantiated (R408). -/
def counterBanksWake (k : Cfg) (d : Dyn) : Dyn :=
  let d := traceState k d 3 0 64
  let d := { d with pw := { d.pw with cbFallow := false, cbWaking := false }, nb := { d.nb with nodes := [] } }
  let waiting := (d.ls.slots.filter (fun e => e.2.phase = .wake)).map (·.1)
  waiting.foldl (fun d s => settle (instantiate k d s) s) d

/-- PWR_GATE_ACK. -/
def pwrGateAck (g : Gate) (k : Cfg) (d : Dyn) : Dyn :=
  if gateAcked d g then d
  else
    let d := { d with pw := { d.pw with gates := d.pw.gates.filter (fun x => x.1 ≠ g) } }
    if g = .counterBanks && d.pw.cbWaking then counterBanksWake k d else d

/-! ### Fallow banks (R408 to R412) -/

/-- COUNTER_BANK_FALLOW. -/
def counterBankFallow (k : Cfg) (d : Dyn) : Dyn :=
  if k.boot.cbIdle = 0 || d.pw.cbFallow || !noLaunch d || !d.nb.queue.all (fun q => q.2.isEmpty)
      || !passed d d.pw.launchFrom k.boot.cbIdle then d
  else
    let d := traceState k d 3 64 0
    gateReq { d with pw := { d.pw with cbFallow := true }, nb := { d.nb with nodes := [] } } .counterBanks true

/-- Since when a bank is covered by nothing and has no write in flight, by the reports (R410). -/
def muSince (d : Dyn) (site bank : Nat) : Option W64 :=
  if (coveredBanks d).contains (muKey site bank) then none else some (tgetD d.pw.muFrom (muKey site bank) d.pw.upTs)

/-- The stub of an MU reports a bank's writes accepted and not completed (R21, R410): the bank counts as covered while there are any. -/
def muReport (site bank writes : Nat) (d : Dyn) : Dyn :=
  let i := muKey site bank
  let from' := if writes = 0 && tgetD d.pw.muWrites i 0 ≠ 0 then tput d.pw.muFrom i d.ts else d.pw.muFrom
  { d with pw := { d.pw with muWrites := tset d.pw.muWrites i writes 0, muFrom := from' } }

/-- MU_BANK_FALLOW, with the stub's count of writes in flight at the bank. -/
def muBankFallow (site bank writes : Nat) (k : Cfg) (d : Dyn) : Dyn :=
  let d := muReport site bank writes d
  if 8 ≤ bank || !bit k.boot.muFallow.toNat bank || !k.sitePresent site || !k.siteIsMu site || writes ≠ 0
    || d.pw.muFallow.contains (muKey site bank) || !passed d (muSince d site bank) k.boot.muIdle then d
  else gateReq { d with pw := { d.pw with muFallow := putBit d.pw.muFallow (muKey site bank) true } } (.mu site bank) true

/-- MU_BANK_WAKE: a waking bank whose restore is acknowledged is powered. -/
def muBankWake (site bank : Nat) (_k : Cfg) (d : Dyn) : Dyn :=
  let i := muKey site bank
  if !d.pw.muWaking.contains i || !gateAcked d (.mu site bank) then d
  else { d with pw := { d.pw with muFallow := d.pw.muFallow.filter (· ≠ i), muWaking := d.pw.muWaking.filter (· ≠ i) } }

/-- FALLOW_ACCESS: an access is refused and the bank begins to wake. The task that made it fails: that of a packet of the leaf, or the STAT of a node
whose row write it is, the oldest one out (R260, R412). -/
def fallowAccess (site bank l : Nat) (task : FallowTask) (_k : Cfg) (d : Dyn) : Dyn :=
  if !d.pw.muFallow.contains (muKey site bank) then d
  else
    let d := wakeBank d site bank
    match task with
    | .packet ptag => modEng d l (fun e => modPkt e ptag (fun p => { p with fallow := true }))
    | .stat g =>
      let row (w : WrJob) : Bool := match w.use with
        | .statRow _ x => x = g
        | _ => false
      match d.bus.writes.find? row, getStat d g with
      | some w, some s =>
        statFail (showReads { d with bus := { d.bus with writes := dropFirst (fun x => x = w) d.bus.writes } }) s .bankFallow
      | _, _ => d

end Sys2Proof.Machine
end

