-- ==== Sys2Proof/Machine/Regs.lean ====
section
/-! DEFINITION. The host register window (R3, R5 to R8, R366 to R385): what a read returns and clears, what a write does, and the
one gate that every host access passes (R367, R368, R400, R441). -/
namespace Sys2Proof.Machine

/-! ### Reading 32-bit registers -/

/-- DNT_CONFIG (Table 13.3). -/
def dntConfig (k : Cfg) : Nat :=
  let bytes := k.boot.slots.map (fun e => e.2.toNat)
  let wp2 := bytes.any (fun b => bit b 7 && bit b 6)
  let dma := k.allLeaves.any (fun l => k.classOf l = 5)
  (k.nReg - 1) + k.nSite * 2 ^ 4 + k.nEdge * 2 ^ 12 + b2n dma * 2 ^ 20 + b2n wp2 * 2 ^ 21

/-- DNT_HEALTH (Table 13.5). -/
def dntHealth (k : Cfg) (d : Dyn) : Nat := k.health.code + (d.fs.hedgeSite.length + d.fs.hedgeEdge.length) * 2 ^ 16

/-- BANK_HOT (R376): the bank with the highest tally, the lower index on a tie. -/
def bankHot (d : Dyn) : Nat :=
  match minBy (fun e => p64 - e.2) d.bankTally with
  | none => 0
  | some e => e.1 + 2 ^ 31

def stageStat (k : Cfg) (d : Dyn) : Nat := stageSlots k + d.rt.stages.length * 2 ^ 16

def surveyStat (k : Cfg) (d : Dyn) : Nat :=
  b2n k.survey.refused + k.survey.pass * 2 ^ 2 + b2n k.survey.full * 2 ^ 4 + d.fs.passed.length % 4096 * 2 ^ 8
    + d.fs.failed.length % 4096 * 2 ^ 20

def svcStat (d : Dyn) : Nat :=
  b2n d.sv.run + b2n d.sv.stopping.isSome * 2 + d.sv.ctx * 2 ^ 8 + d.sv.batch.length * 2 ^ 16

def replayStat (d : Dyn) : Nat :=
  b2n d.rp.dropW + b2n d.rp.headErr * 2 + b2n d.rp.recording * 4 + b2n d.rp.full * 8 + b2n d.rp.cfgErr * 16

def pwrStat (k : Cfg) (d : Dyn) : Nat := b2n (k.doze ≠ .awake) + (if d.pw.cbFallow then 64 else 0) * 2 ^ 8

/-- A 32-bit register of the global page; reserved offsets read 0. -/
def global32 (k : Cfg) (d : Dyn) (off : Nat) : Nat :=
  match off with
  | 0x0000 => 0x444E5403
  | 0x0004 => 0x00000100
  | 0x0008 => dntConfig k
  | 0x000C => k.boot.chipId
  | 0x0010 => k.fwver.toNat
  | 0x0014 => k.ftv.toNat
  | 0x0018 => k.modeWord
  | 0x001C => dntHealth k d
  | 0x0030 => d.fs.fseq.toNat
  | 0x0034 => d.fs.recs.length
  | 0x0100 => k.tokStall.toNat
  | 0x0104 => k.hangLimit.toNat
  | 0x0110 => b2n d.lk.pendKey.isSome
  | 0x0130 => k.stageSlot.toNat
  | 0x0134 => stageStat k d
  | 0x0138 => b2n k.cfgIgn + b2n k.mapIgn * 2
  | 0x0210 => bankHot d
  | 0x0800 => k.drainWait.toNat
  | 0x0804 => b2n k.surveyMode * 2 ^ 8
  | 0x0808 => surveyStat k d
  | 0x0810 => svcStat d
  | 0x0814 => d.sv.reqTail.toNat
  | 0x0818 => d.sv.reqHead.toNat
  | 0x081C => d.sv.resHead.toNat
  | 0x0820 => d.sv.resTail.toNat
  | 0x0824 => d.sv.resSeq.toNat
  | 0x0908 => b2n k.replayEn + k.replayLog2.toNat * 2 ^ 8
  | 0x090C => replayStat d
  | 0x0910 => d.rp.head.toNat
  | 0x0914 => d.rp.tail.toNat
  | 0x0918 => d.rp.lseq.toNat
  | 0x0A00 => b2n k.traceEn + b2n k.traceSpill * 2
  | 0x0A10 => k.spillLog2.toNat
  | 0x0A14 => d.tr.spillHead.toNat
  | 0x0A18 => d.tr.spillTail.toNat
  | 0x0A28 => b2n k.pcsEn + k.pcsLog2.toNat * 2 ^ 8
  | 0x0C80 => d.ch.preref.toNat
  | 0x0D00 => k.dozeIdle.toNat + b2n k.dozeEn * 2 ^ 31
  | 0x0D04 => pwrStat k d
  | _ => 0

/-- CTX_STAT (Table 13.17). -/
def ctxStat (k : Cfg) (d : Dyn) (c : Nat) : Nat :=
  let x := getCtx d c
  b2n x.isOpen + b2n (k.priv c) * 2 + x.rev * 4 + b2n x.svc * 16 + b2n x.cplIgn * 256

def mboxStat (x : Ctx) : Nat := b2n x.mboxReply + b2n x.mboxBusyErr * 2 + b2n x.mboxBusy * 4

/-- CTX_RING_STAT (Table 13.18). -/
def ringStat (k : Cfg) (g : Ring) : Nat :=
  let st := ringState k g
  st.code + b2n g.pendingDb * 2 ^ 3 + b2n g.stopReq * 2 ^ 4 + b2n (st = .stopped) * 2 ^ 5 + b2n g.cfgIgn * 2 ^ 6
    + g.err.toNat * 2 ^ 8

/-- A 32-bit register of a ring's block. -/
def ring32 (k : Cfg) (g : Ring) (off : Nat) : Nat :=
  match off with
  | 0x08 => g.log2.toNat + b2n g.gen * 2 ^ 8 + b2n g.en * 2 ^ 31
  | 0x0C => g.dseq.toNat
  | 0x10 => g.head.toNat
  | 0x14 => g.tail.toNat
  | 0x18 => ringStat k g
  | _ => 0

/-- A 32-bit register of a context page. -/
def ctx32 (k : Cfg) (d : Dyn) (c off : Nat) : Nat :=
  let x := getCtx d c
  match off with
  | 0x000 => ctxStat k d c
  | 0x008 => x.cseq.toNat
  | 0x00C => ctxInflight d c
  | 0x018 => x.cplLog2.toNat + b2n x.cplEn * 2 ^ 31
  | 0x020 => x.cplHead.toNat
  | 0x024 => x.cplTail.toNat
  | 0x028 => x.irq.toNat
  | 0x038 => b2n x.cancelMiss
  | 0x044 => mboxStat x
  | _ =>
    if 0x080 ≤ off && off < 0x0C0 then x.msgWord ((off - 0x080) / 4)
    else if 0x0C0 ≤ off && off < 0x100 then (tgetD x.mboxOut ((off - 0x0C0) / 4) 0).toNat
    else if 0x100 ≤ off && off < 0x280 then ring32 k (x.ring ((off - 0x100) / 0x40)) (off % 0x40)
    else 0

/-! ### 64-bit registers -/

/-- The offset of a counter of Tables 13.9 to 13.11 (BANK_HOT is none: it is read only). -/
def isCounter (k : Cfg) (off : Nat) : Bool :=
  off % 8 = 0 && ((0x200 ≤ off && off ≤ 0x278 && off ≠ 0x210) || (0x300 ≤ off && off < 0x380)
    || (0x400 ≤ off && off < 0x600 && off < 0x400 + 0x20 * k.nReg && off % 0x20 ≠ 0x18))

/-- The page offset of an address in the context pages. -/
def inPages (off : Nat) : Bool := 0x10000 ≤ off && off < 0x50000
def pageOf (off : Nat) : Nat := (off - 0x10000) / 0x1000
def inPage (off : Nat) : Nat := off % 0x1000

def isRingBase (o : Nat) : Bool := 0x100 ≤ o && o < 0x280 && o % 0x40 = 0

/-- An offset that holds a 64-bit register. -/
def is64 (k : Cfg) (off : Nat) : Bool :=
  if inPages off then inPage off = 0x010 || inPage off = 0x030 || isRingBase (inPage off)
  else [0x20, 0x28, 0x108, 0x118, 0x120, 0x128, 0x140, 0x148, 0x150, 0x900, 0xA08, 0xA20].contains off || isCounter k off
    || (off % 8 = 0 && ((0xB00 ≤ off && off < 0xB80) || (0xC00 ≤ off && off < 0xC80)))

/-- The value of a 64-bit register. -/
def reg64 (k : Cfg) (d : Dyn) (off : Nat) : Nat :=
  if inPages off then
    let x := getCtx d (pageOf off)
    let o := inPage off
    if o = 0x010 then x.cplBase.toNat else if isRingBase o then (x.ring ((o - 0x100) / 0x40)).base.toNat else 0
  else match off with
    | 0x020 => d.ts.toNat
    | 0x028 => d.step.toNat
    | 0x108 => (d.lk.pendKey.getD d.lk.key).toNat
    | 0x118 => k.gazBase.toNat
    | 0x120 => k.stageBase.toNat
    | 0x128 => k.stageSize.toNat
    | 0x140 => k.rmsCtx.toNat
    | 0x148 => k.sigMapBase.toNat
    | 0x150 => k.evtMapBase.toNat
    | 0x900 => k.replayBase.toNat
    | 0xA08 => k.spillBase.toNat
    | _ =>
      if 0xB00 ≤ off && off < 0xB80 then (chain d ((off - 0xB00) / 8)).toNat
      else if isCounter k off || off = 0xA20 then (tgetD d.cnt off 0).toNat
      else 0

def reg32 (k : Cfg) (d : Dyn) (off : Nat) : Nat :=
  if inPages off then ctx32 k d (pageOf off) (inPage off) else global32 k d off

/-! ### Reads (R6, R7, R375, R376) -/

/-- A sample of a counter clears it; a sample of BANK_SKEW restarts the tallies of BANK_HOT. -/
def sampled (k : Cfg) (d : Dyn) (off : Nat) : Dyn :=
  if isCounter k off || off = 0xA20 then
    let d := { d with cnt := tdel d.cnt off }
    if off = cBankSkew then { d with bankTally := [] } else d
  else d

/-- A naturally aligned 32-bit or 64-bit access inside the window (R6). -/
def aligned (off size : Nat) : Bool := (size = 4 || size = 8) && off % size = 0 && off + size ≤ 0x80000

def dropLatch (d : Dyn) (rid off : Nat) : Dyn := { d with latch := d.latch.filter (fun e => e.1 ≠ (rid, off)) }

/-- The value of an aligned read, and what the read changes. -/
def readValue (k : Cfg) (d : Dyn) (off size rid : Nat) : Nat × Dyn :=
  if size = 8 then
    if is64 k off then (reg64 k d off, sampled k d off) else (reg32 k d off + reg32 k d (off + 4) * 2 ^ 32, d)
  else if is64 k off then
    let v := reg64 k d off
    let d := sampled k (dropLatch d rid off) off
    (v % p32, { d with latch := ((rid, off), w32 (v / p32)) :: d.latch })
  else if off % 8 = 4 && is64 k (off - 4) then
    match d.latch.find? (fun e => e.1 = (rid, off - 4)) with
    | some e => (e.2.toNat, dropLatch d rid (off - 4))
    | none => (reg64 k d (off - 4) / p32, d)
  else (reg32 k d off, d)

/-- Answers a read. -/
def answerRead (k : Cfg) (d : Dyn) (off size rid : Nat) : Dyn :=
  if !aligned off size then out d (.hostRead rid 0)
  else
    let x := readValue k d off size rid
    out x.2 (.hostRead rid (w64 x.1))

/-! ### Writes of the data plane's configuration (R371, R374) -/

def setCfg (b : Block) (f : Cfg → Cfg) : Block := { b with cfg := f b.cfg }

/-- A ROUTE runs, or an entry is FETCHING or STAGED. -/
def routesBusy (d : Dyn) : Bool :=
  !d.rt.routes.isEmpty || d.rt.gcache.any (fun e => 2 ≤ gTier e.2.entry.toNat) || !d.rt.stages.isEmpty

/-- ROUTE_CONFIG_WRITE: GAZ_BASE or a STAGE register. -/
def routeConfigWrite (off : Nat) (v : W64) (b : Block) : Block :=
  if routesBusy b.d then setCfg b (fun k => { k with cfgIgn := true })
  else match off with
    | 0x118 => { cfg := { b.cfg with gazBase := v }, d := gazSkip { b.d with rt := { b.d.rt with gcache := [] } } (fun _ => true) }
    | 0x120 => setCfg b (fun k => { k with stageBase := v })
    | 0x128 => setCfg b (fun k => { k with stageSize := v })
    | _ => setCfg b (fun k => { k with stageSlot := v.setWidth 32 })

/-- MAP_BASE_WRITE: SIG_MAP_BASE or EVT_MAP_BASE. -/
def mapBaseWrite (evt : Bool) (v : W64) (b : Block) : Block :=
  if b.d.fe.ctxs.any (fun c => c.2.isOpen) then setCfg b (fun k => { k with mapIgn := true })
  else
    let k := b.cfg
    let d := { b.d with sg := { b.d.sg with cache := [], ecache := [] } }
    { cfg := if evt then { k with evtMapBase := v } else { k with sigMapBase := v }, d := d }

/-! ### Replay, trace, sampling, power (R379, R421, Tables 13.12, 13.14, 13.15) -/

/-- REPLAY_CFG_WRITE: REPLAY_BASE or REPLAY_CFG. -/
def replayCfgWrite (base : Bool) (v : W64) (b : Block) : Block :=
  let k := b.cfg
  let d := b.d
  let en := bit v.toNat 0
  let log2 := bits v.toNat 8 5
  if k.det || d.rp.recording || (!base && en && (log2 < 10 || 24 < log2)) then
    { b with d := { d with rp := { d.rp with cfgErr := true } } }
  else if base then { b with cfg := { k with replayBase := v } }
  else
    let d := if en && !k.replayEn then { d with rp := { d.rp with head := 0, tail := 0, full := false } } else d
    { cfg := { k with replayEn := en, replayLog2 := BitVec.ofNat 5 log2 }, d := d }

/-- The ring has no room for the oldest staged record (R328). -/
def ringLacks (k : Cfg) (rp : Replay) : Bool :=
  match rp.stage with
  | [] => false
  | r :: _ => 2 ^ k.replayLog2.toNat < dist32 rp.head rp.tail + r.slots.length

/-- REPLAY_HEAD_WRITE. -/
def replayHeadWrite (v : W32) (b : Block) : Block :=
  let rp := b.d.rp
  let ok := dist32 rp.head v ≤ dist32 rp.head rp.tail
  { b with d := { b.d with rp := if ok then { rp with head := v, full := rp.full && ringLacks b.cfg { rp with head := v } } else { rp with headErr := true } } }

/-- TRACE_SPILL_HEAD_WRITE: bits [4:0] are ignored, and so is a write that would pass TAIL. -/
def traceSpillHeadWrite (v : W32) (b : Block) : Block :=
  let tr := b.d.tr
  let v := v &&& ~~~(31 : W32)
  if dist32 tr.spillHead tr.spillTail < dist32 tr.spillHead v then b
  else { b with d := { b.d with tr := { tr with spillHead := v } } }

def traceCtlWrite (v : Nat) (b : Block) : Block :=
  let k := b.cfg
  let can := 12 ≤ k.spillLog2.toNat
  let spill := if can then bit v 1 else k.traceSpill
  let d := if spill && !k.traceSpill then
      { b.d with tr := { b.d.tr with spillHead := 0, spillTail := 0, spillOut := 0 } } else b.d
  { cfg := { k with traceEn := bit v 0, traceSpill := spill }, d := d }

def pcsCtlWrite (v : Nat) (k : Cfg) : Cfg :=
  { k with pcsEn := bit v 0, pcsLog2 := BitVec.ofNat 5 (max 8 (min 24 (bits v 8 5))) }

/-- DOZE_CTL; a write that clears EN wakes Denut (R406). -/
def dozeCtlWrite (v : Nat) (b : Block) : Block :=
  let b := setCfg b (fun k => { k with dozeEn := bit v 31, dozeIdle := BitVec.ofNat 20 (bits v 0 20) })
  if bit v 31 then b else wake b

/-- SURVEY_CTL. -/
def surveyCtlWrite (v : Nat) (b : Block) : Block :=
  let b := setCfg b (fun k => { k with surveyMode := bit v 8 })
  if bit v 0 then surveyStart (bit v 8) b else b

/-! ### Writes of 32-bit registers -/

/-- A 32-bit register of the global page. -/
def writeGlobal32 (b : Block) (off v : Nat) : Block :=
  let x : W32 := w32 v
  match off with
  | 0x0100 => setCfg b (fun k => { k with tokStall := BitVec.ofNat 16 v })
  | 0x0104 => setCfg b (fun k => { k with hangLimit := BitVec.ofNat 8 (max 2 (v % 256)) })
  | 0x0130 => routeConfigWrite 0x130 (w64 v) b
  | 0x0138 => setCfg b (fun k => { k with cfgIgn := k.cfgIgn && !bit v 0, mapIgn := k.mapIgn && !bit v 1 })
  | 0x0800 => setCfg b (fun k => { k with drainWait := x })
  | 0x0804 => surveyCtlWrite v b
  | 0x0808 => setCfg b (fun k => { k with survey := { k.survey with refused := k.survey.refused && !bit v 0 } })
  | 0x0814 => onD b (svcReqTail x)
  | 0x081C => onD b (svcResHead x)
  | 0x0908 => replayCfgWrite false (w64 v) b
  | 0x090C =>
    let rp := b.d.rp
    let rp := { rp with dropW := rp.dropW && !bit v 0, headErr := rp.headErr && !bit v 1, cfgErr := rp.cfgErr && !bit v 4 }
    { b with d := { b.d with rp := rp } }
  | 0x0910 => replayHeadWrite x b
  | 0x0A00 => traceCtlWrite v b
  | 0x0A10 => if b.cfg.traceSpill then b else setCfg b (fun k => { k with spillLog2 := BitVec.ofNat 5 (v % 32) })
  | 0x0A14 => traceSpillHeadWrite x b
  | 0x0A28 => setCfg b (pcsCtlWrite v)
  | 0x0C80 => onD b (fun _ d => { d with ch := { d.ch with preref := d.ch.preref &&& ~~~(BitVec.ofNat 16 v) } })
  | 0x0D00 => dozeCtlWrite v b
  | _ => b

/-- CTX_IRQ; its reserved bits read 0. -/
def irqWrite (c v : Nat) (d : Dyn) : Dyn :=
  irqCheck (modCtx d c (fun x => { x with irq := w32 (v &&& 0xFF7F37FF) })) c

/-- A register of a ring's block. -/
def writeRing32 (c r off v : Nat) (k : Cfg) (d : Dyn) : Dyn :=
  match off with
  | 0x08 => ringCfgWrite c r (w32 v) k d
  | 0x0C => ringDseqWrite c r (w32 v) k d
  | 0x10 => ringHeadWrite c r (w32 v) k d
  | 0x14 => ringDoorbell c r (w32 v) k d
  | 0x18 => ringStatWrite c r (w32 v) k d
  | _ => d

/-- A 32-bit register of a context page; a closed context's page takes only its mailbox (R383). -/
def writeCtx32 (c off v : Nat) (k : Cfg) (d : Dyn) : Dyn :=
  let x := getCtx d c
  if 0x080 ≤ off && off < 0x0C0 then setCtx d c { x with mboxIn := tset x.mboxIn ((off - 0x080) / 4) (w32 v) 0 }
  else if off = 0x040 then (if bit v 0 then mboxDoorbell c k d else d)
  else if !x.isOpen then d
  else if 0x100 ≤ off && off < 0x280 then writeRing32 c ((off - 0x100) / 0x40) (off % 0x40) v k d
  else match off with
    | 0x000 => if bit v 8 then setCtx d c { x with cplIgn := false } else d
    | 0x018 => cplRingConfig c false (w64 v) k d
    | 0x020 => cplHeadWrite c (w32 v) k d
    | 0x028 => irqWrite c v d
    | 0x038 => if bit v 0 then setCtx d c { x with cancelMiss := false } else d
    | 0x044 => setCtx d c { x with mboxReply := x.mboxReply && !bit v 0, mboxBusyErr := x.mboxBusyErr && !bit v 1 }
    | _ => d

def write32 (b : Block) (off v : Nat) : Block :=
  if inPages off then onD b (writeCtx32 (pageOf off) (inPage off) v) else writeGlobal32 b off v

/-! ### Writes of 64-bit registers -/

def write64 (b : Block) (off : Nat) (v : W64) : Block :=
  if inPages off then
    let c := pageOf off
    let o := inPage off
    if o = 0x010 then onD b (cplRingConfig c true v)
    else if o = 0x030 then onD b (ctxCancel c v)
    else onD b (ringBaseWrite c ((o - 0x100) / 0x40) v)
  else match off with
    | 0x028 => onD b (stepWrite v)
    | 0x108 => onD b (linkKeyWrite v)
    | 0x118 => routeConfigWrite 0x118 v b
    | 0x120 => routeConfigWrite 0x120 v b
    | 0x128 => routeConfigWrite 0x128 v b
    | 0x140 => setCfg b (fun k => { k with rmsCtx := v })
    | 0x148 => mapBaseWrite false v b
    | 0x150 => mapBaseWrite true v b
    | 0x900 => replayCfgWrite true v b
    | 0xA08 => if b.cfg.traceSpill then b else setCfg b (fun k => { k with spillBase := v })
    | _ => if 0xC00 ≤ off && off < 0xC80 then onD b (chainPreset ((off - 0xC00) / 8) v) else b

/-- Registers whose write is an action on a whole 64-bit operand: they take 64-bit writes only (log 42: DEDUCED). -/
def whole64 (off : Nat) : Bool := if inPages off then inPage off = 0x030 else 0xC00 ≤ off && off < 0xC80

/-- Doorbells take 32-bit writes only (R283, R305). -/
def isDoorbell (off : Nat) : Bool :=
  if inPages off then 0x100 ≤ inPage off && inPage off < 0x280 && inPage off % 0x40 = 0x14 else off = 0x814

/-- An aligned write: of a 64-bit register whole or half by half, of one 32-bit register, or of two that lie side by side. -/
def applyWrite (b : Block) (off size : Nat) (v : W64) : Block :=
  let lo := v.toNat % p32
  if size = 8 then
    if is64 b.cfg off then write64 b off v
    else
      let b := if isDoorbell off then b else write32 b off lo
      if isDoorbell (off + 4) then b else write32 b (off + 4) (v.toNat / p32)
  else if is64 b.cfg off then
    if whole64 off then b else write64 b off (w64 (setBits (reg64 b.cfg b.d off) 0 32 lo))
  else if off % 8 = 4 && is64 b.cfg (off - 4) then
    if whole64 (off - 4) then b else write64 b (off - 4) (w64 (setBits (reg64 b.cfg b.d (off - 4)) 32 32 lo))
  else write32 b off lo

/-! ### The gate -/

/-- An access that a dozing Denut serves without waking (R368). -/
def exempt (off : Nat) : Bool := off < 0x14 || (0xB00 ≤ off && off < 0xE00)

/-- A record of MECH 0x12 waits: the port takes no further access (Table 12.12). -/
def portBlocked (d : Dyn) : Bool := d.fs.waiting.any (fun w => w.record.mech = 0x12)

/-- A CTX_CANCEL that must wait for its replay record (R328). -/
def waitsReplay (d : Dyn) (a : HostAccess) : Bool :=
  match a with
  | .write off size _ => size = 8 && inPages off && inPage off = 0x030 && (getCtx d (pageOf off)).isOpen && !rpRoom d 1 false
  | .read _ _ _ => false
  | .order _ => false

/-- The access takes effect. -/
def access (b : Block) (a : HostAccess) : Block :=
  match a with
  | .write off size v => if aligned off size then applyWrite b off size v else b
  | .read off size rid => onD b (fun k d => answerRead k d off size rid)
  | .order none => mgtDrain b
  | .order (some full) => mgtSurvey full b

/-- Registers that answer before boot is complete (R400). -/
def bootRead (b : Block) (a : HostAccess) : Block :=
  match a with
  | .write _ _ _ => b
  | .order _ => b
  | .read off size rid =>
    if aligned off size && off + size ≤ 0x10 then access b a else { b with d := out b.d (.hostRead rid 0) }

/-- What an access does after the sequencers it may set going: routes and STATs that have ended, queues that close, blocked
READs that now have an answer, cancellations whose turn has come, returns that have been freed, the test of the watches, what the data plane reports to the
power controller. -/
def tidy (b : Block) : Block :=
  if b.cfg.serving then
    { b with d := powerReport b.cfg (watchTest (serveAllBlocked b.cfg (closeDead (reapStats (reapRoutes b.cfg (reapRets (settleCancels b.d))))))) }
  else b

/-- Held accesses are served in arrival order, as far as nothing holds them any longer; before boot is complete they are answered by R400. -/
def serveHost : Nat → Block → Block
  | 0, b => b
  | n + 1, b =>
    match b.d.held with
    | [] => b
    | a :: t =>
      let served : Block := { b with d := { b.d with held := t } }
      if !b.cfg.clocked || portBlocked b.d || waitsReplay b.d a then b
      else serveHost n (if b.cfg.phase ≠ .booted then bootRead served a else tidy (access served a))

def serveHeldHost (b : Block) : Block := serveHost b.d.held.length b

/-- A host access arrives: not accepted in reset, held while frozen, answered by R400 before boot is complete, held with a wake
in DOZE, else served in its order. -/
def hostAccess (a : HostAccess) (b : Block) : Block :=
  let off := match a with
    | .write o _ _ => o
    | .read o _ _ => o
    | .order _ => 0x50000
  let hold (b : Block) : Block := { b with d := { b.d with held := b.d.held ++ [a] } }
  if b.cfg.inReset then b
  else if b.cfg.frozen then hold b
  else if b.cfg.phase ≠ .booted then bootRead b a
  else if b.cfg.doze ≠ .awake then (if exempt off && b.d.held.isEmpty then access b a else wake (hold b))
  else serveHeldHost (hold b)

/-- A host write and a host read, as commands. -/
def hostWrite (off size : Nat) (v : W64) (s : State) : Res := runBlock (hostAccess (.write off size v)) s

def hostRead (off size rid : Nat) (s : State) : Res := runBlock (hostAccess (.read off size rid)) s

/-- The window offset of a context's register; none for a context or a ring that does not exist. -/
def ctxOff (c o : Nat) : Nat := if c < 64 then 0x10000 + 0x1000 * c + o else 0x50000

def ringOff (c r o : Nat) : Nat := if r < 6 then ctxOff c (0x100 + 0x40 * r + o) else 0x50000

end Sys2Proof.Machine
end

