-- ==== Sys2Proof/Machine/Boot.lean ====
section
/-! DEFINITION. Boot, resets and freeze (R391 to R404, R423, R424, R436 to R438, R447, R448): MGT_BOOT_START, MGT_BOOT_DATA,
BOOT_BLOCK_TIMEOUT, BOOT_INIT_DONE, POST, FW_IMAGE_READ, FW_VERIFY_RESULT, FW_START_TIMEOUT, BOOT_COMPLETE, POR, SYS_RESET,
DNT_RESET, RESET_RELEASE, FREEZE, FREEZE_RELEASE, WAKE_COMPLETE. -/
namespace Sys2Proof.Machine

/-! ### The boot configuration block (Tables 14.2 and 14.3) -/

def bbNreg (b : List Byte) : Nat := leAt b 16 1 % 16 + 1
def bbSlotOff (b : List Byte) : Nat := leAt b 144 4
def bbDisOff (b : List Byte) : Nat := leAt b 148 4
def bbLinkOff (b : List Byte) : Nat := leAt b 152 4
def bbHistOff (b : List Byte) : Nat := leAt b 156 4
def bbHistCount (b : List Byte) : Nat := leAt b 160 4

/-- The header and the sections as (offset, length). -/
def bbSections (b : List Byte) : List (Nat × Nat) :=
  [(0, 256), (bbSlotOff b, 2560 * bbNreg b), (bbDisOff b, 20 * bbNreg b), (bbLinkOff b, 128), (bbHistOff b, 16 * bbHistCount b)]

/-- The block with its CRC field 0. -/
def bbNoCrc (b : List Byte) : List Byte := b.take 12 ++ leBytes 4 0 ++ b.drop 16

/-- No two of a list of spans overlap. -/
def pairsApart : List (Nat × Nat) → Bool
  | [] => true
  | s :: t => t.all (fun u => apart s.1 s.2 u.1 u.2) && pairsApart t

/-- What R397 answers with BLOCK_FORMAT. -/
def bbFormatOk (b : List Byte) : Bool :=
  256 ≤ b.length && leAt b 0 4 = 0x42434E44 && leAt b 4 2 = 3 && leAt b 8 4 = b.length && leAt b 12 4 = crc32 (bbNoCrc b)
    && (bbSections b).all (fun s => s.1 + s.2 ≤ b.length) && pairsApart (bbSections b)

/-- The slots that Sparax 2304 has built (R25, R26, Tables 1.4 and 1.5). -/
def sparaxBuilt (region stub slot : Nat) : Bool :=
  if stub < 144 then slot < (if sparaxMu region stub then 2 else 4)
  else stub = 144 && (slot < 4 || (slot = 4 && [0, 2, 3, 7, 11, 15, 13, 12, 4].contains region))

/-- The generation built at a slot; none where it is built absent. -/
def Build.gen (x : Build) (region stub slot : Nat) : Option Gen :=
  match x.slots with
  | .sparax => if sparaxBuilt region stub slot then some .wp3 else none
  | .list t => tget t (2560 * region + 16 * stub + slot)

/-- One byte of the slot table (Table 14.3, R397, R438). -/
def slotByteOk (x : Build) (nsite nedge i v : Nat) : Bool :=
  let region := i / 2560
  let stub := i % 2560 / 16
  let slot := i % 16
  v = 0 || (bit v 7 && bits v 4 2 = 0 && bits v 0 4 < 9 && (stub < nsite || (144 ≤ stub && stub < 144 + nedge))
    && x.gen region stub slot = some (if bit v 6 then .wp2 else .wp3))

/-- The populated slots, by 2560 × region + 16 × stub + slot. -/
def bbSlots (b : List Byte) : Tab Byte :=
  ((upFrom 0 (2560 * bbNreg b)).zip (b.drop (bbSlotOff b))).filter (fun e => e.2 ≠ 0)

/-- The word of a link table entry. -/
def bbLink (b : List Byte) (p : Nat) : Nat := leAt b (bbLinkOff b + 4 * p) 4

/-- The valid entries of the link table: port and endpoint. -/
def bbLinks (b : List Byte) : Tab Nat :=
  ((upFrom 0 32).filter (fun p => bit (bbLink b p) 31)).map (fun p => (p, bits (bbLink b p) 0 17))

/-- Leaves of populated LINK-class slots. -/
def bbLinkSlots (b : List Byte) : List Nat :=
  ((bbSlots b).filter (fun e => bits e.2.toNat 0 4 = 6)).map (fun e => mkLeaf (e.1 / 2560) (e.1 % 2560 / 16) (e.1 % 16))

def bbHist (b : List Byte) : List (List Byte) := (chunks 16 (bbHistCount b) (b.drop (bbHistOff b))).take (bbHistCount b)

/-- Reserved fields of the header are 0 (R4). -/
def bbReservedOk (b : List Byte) : Bool :=
  leAt b 6 2 = 0 && leAt b 16 1 < 16 && leAt b 19 1 < 2 && leAt b 20 2 < 1024 && leAt b 22 2 = 0 && leAt b 120 8 = 0
    && leAt b 137 1 = 0 && leAt b 164 92 = 0

/-- A unit code that Table 12.3 gives. -/
def unitCodeOk (u : Nat) : Bool :=
  let i := u % 4096
  match u / 4096 with
  | 0 => i % 256 < 144
  | 1 => 144 ≤ i % 256 && i % 256 < 160
  | 2 => i < 64
  | 3 => i < 64
  | 4 => i < 16
  | 5 => i < 12
  | 6 => i < 3
  | 7 => i < 5
  | 8 => i < 2 || (16 ≤ i && i < 32)
  | _ => false

/-- What R397 and R438 answer with BLOCK_CONTENT. -/
def bbContentOk (x : Build) (b : List Byte) : Bool :=
  let nsite := leAt b 17 1
  let nedge := leAt b 18 1
  let links := (bbLinks b).map (·.2)
  let descSize := leAt b 88 8
  bbReservedOk b && 1 ≤ nsite && nsite ≤ 144 && nedge ≤ 16
    && bbNreg b ≤ x.nRegMax && nsite ≤ x.nSiteMax && nedge ≤ x.nEdgeMax
    && leAt b 80 8 % 4096 = 0 && descSize % 4096 = 0 && (descSize = 0 || 4194304 ≤ descSize) && leAt b 96 8 % 4096 = 0
    && bbHistCount b ≤ 65536
    && ((upFrom 0 (2560 * bbNreg b)).zip (b.drop (bbSlotOff b))).all (fun e => slotByteOk x nsite nedge e.1 e.2.toNat)
    && (upFrom 0 32).all (fun p => bits (bbLink b p) 17 14 = 0)
    && (bbLinks b).all (fun e => e.1 < x.linkMax && (bbLinkSlots b).contains e.2)
    && links.eraseDups.length = links.length && (bbLinkSlots b).all links.contains
    && (bbHist b).all (fun h => leAt h 3 1 < 2 && unitCodeOk (leAt h 0 2))

def bbHistEntry (h : List Byte) : HistEntry :=
  { unit := leAt h 0 2, charged := leAt h 2 1, surveyFailed := leAt h 3 1 = 1, ages := [leAt h 4 4, leAt h 8 4, leAt h 12 4] }

/-- The configuration that an accepted block gives (R396). -/
def bbParse (b : List Byte) : BootCfg :=
  { nReg := bbNreg b, nSite := leAt b 17 1, nEdge := leAt b 18 1, chipId := leAt b 20 2, flagged := bit (leAt b 19 1) 0,
    serial := (b.drop 24).take 16, priv := w64 (leAt b 40 8), entropy := (b.drop 48).take 32, descBase := w64 (leAt b 80 8),
    descSize := w64 (leAt b 88 8), surveyBase := w64 (leAt b 96 8), surveySize := w64 (leAt b 104 8),
    fwAddr := w64 (leAt b 112 8), time := w64 (leAt b 128 8), muFallow := BitVec.ofNat 8 (leAt b 136 1),
    muIdle := leAt b 138 2, cbIdle := leAt b 140 4, slots := bbSlots b,
    disabled := (upFrom 0 (160 * bbNreg b)).filter (fun i => bit (leAt b (bbDisOff b + i / 8) 1) (i % 8)),
    links := bbLinks b, hist := (bbHist b).map bbHistEntry }

/-! ### Boot phases (Table 14.4) -/

/-- A failed boot stops in its phase with its status (R403). -/
def bootFail (b : Block) (st : Nat) : Block :=
  { cfg := { b.cfg with phase := .failed, bootStat := st, bootDone := true, rx := none, dcpRun := false },
    d := dropRead { b.d with mn := { b.d.mn with statUnread := true } } .fwImage }

/-- Phase 1 ends with a block: it is refused, or kept and taken; a block that carries the flag makes the chip FLAGGED (R396,
Table 13.5). -/
def takeBlock (b : Block) (blk : List Byte) : Block :=
  if !bbFormatOk blk then bootFail b 1
  else if !bbContentOk b.cfg.build blk then bootFail b 2
  else
    let x := bbParse blk
    { b with cfg := { b.cfg with kept := some blk, boot := x, now := x.time, rx := none, phase := .p2,
                                 health := if x.flagged then .flagged else b.cfg.health } }

/-- The boot sequencer runs: out of reset and not frozen. -/
def Cfg.booting (k : Cfg) (p : BootPhase) : Bool := k.mgtRuns && k.phase == p

/-- MGT_BOOT_START. -/
def mgtBootStart (b : Block) : Block := if b.cfg.booting .p1 then { b with cfg := { b.cfg with rx := some [] } } else b

/-- MGT_BOOT_DATA: the next word; with LENGTH bytes received, phase 1 goes on. -/
def mgtBootData (w : W32) (b : Block) : Block :=
  match b.cfg.rx with
  | none => b
  | some bs =>
    if !b.cfg.booting .p1 then b
    else
      let bs := bs ++ leBytes 4 w.toNat
      let len := leAt bs 8 4
      if bs.length < 12 || bs.length < len then { b with cfg := { b.cfg with rx := some bs } } else takeBlock b (bs.take len)

/-- BOOT_BLOCK_TIMEOUT: no START within 1 ms; the kept block is taken, and without one boot ends. -/
def bootBlockTimeout (b : Block) : Block :=
  if !b.cfg.booting .p1 || b.cfg.rx.isSome then b
  else match b.cfg.kept with
    | some blk => takeBlock b blk
    | none => bootFail b 1

/-- BOOT_INIT_DONE. -/
def bootInitDone (b : Block) : Block := if b.cfg.booting .p2 then { b with cfg := { b.cfg with phase := .p3 } } else b

/-- The signature of a failed self-test: charged against the unit; the spec states neither its STATUS nor its MECH, nor a record
for it (R401; log 16: DESIGN CHOICE). -/
def postSignature (k : Cfg) (d : Dyn) (unit : Nat) : Dyn :=
  let f (i n : Nat) : Nat := bits (freeW d i).toNat 0 n
  let r : FRec := { frec (f 0 8) ((Status.ofCode (f 1 8)).getD .conservation) unit with
    fseq := w32 (f 2 32), plane := 2, charge := true, detail := freeW d 3, ts := d.ts }
  let d := chargeUnit k.now.toNat false (useFree d 4) unit
  { d with fs := { d.fs with sigs := d.fs.sigs ++ [(1024, signature k d r)] } }

/-- POST. -/
def post (ok : Bool) (unit : Nat) (b : Block) : Block :=
  if !b.cfg.booting .p3 then b
  else if ok then
    let b : Block := { b with cfg := { b.cfg with phase := .p4, fwImage := [] } }
    { b with d := busReadOn .memory b.d b.cfg.boot.fwAddr.toNat 64 .fwImage }
  else bootFail { b with d := postSignature b.cfg b.d unit } 3

/-! ### The firmware image (Table 14.6) -/

def imgCap : Nat := 4194304

/-- The header and the sections of an image. -/
def imageFormOk (i : List Byte) : Bool :=
  let len := leAt i 8 4
  let codeOff := leAt i 32 4
  let codeLen := leAt i 36 4
  let tabOff := leAt i 40 4
  64 ≤ i.length && leAt i 0 4 = 0x57464E44 && leAt i 4 2 = 3 && leAt i 6 2 = 0 && len = i.length && len ≤ imgCap
    && leAt i 12 4 ≠ 0 && leAt i 18 6 = 0 && 1 ≤ codeLen && codeLen ≤ 524288 && leAt i 24 8 < codeLen
    && codeOff + codeLen ≤ len && leAt i 44 4 = 43456 && tabOff + 43456 ≤ len && leAt i 48 16 = 0

/-- The length that an image's first 64 bytes give is one that the trace buffer holds (R448, Table 14.6). -/
def imageLenOk (i : List Byte) : Bool := 64 ≤ leAt i 8 4 && leAt i 8 4 ≤ imgCap

/-- FW_IMAGE_READ: the image is in the trace buffer and goes to the security block, or boot ends. The command gives the bytes that the reads at FW_ADDR
have returned (log 96: DESIGN CHOICE). -/
def fwImageRead (bytes : List Byte) (err : Bool) (b : Block) : Block :=
  if !b.cfg.booting .p4 then b
  else if err then bootFail b 4
  else if !imageFormOk bytes then bootFail b 5
  else { cfg := { b.cfg with phase := .p4Verify, fwImage := bytes }, d := out (dropRead b.d .fwImage) (.secReq bytes) }

/-- MEMORY_READ_RESPONSE in phase 4: after the header's 64 bytes the rest is read; the last bytes make the image whole. -/
def fwResponse (port : Port) (tag : Nat) (data : List Byte) (err : Bool) (b : Block) : Block :=
  match b.d.bus.reads.find? (fun j => j.port = port && j.tag = tag && j.use = .fwImage) with
  | none => b
  | some j =>
    let i := b.cfg.fwImage ++ data
    if !b.cfg.booting .p4 || (!err && data.length ≠ j.len) then b
    else if !err && i.length = 64 && imageLenOk i && 64 < leAt i 8 4 then
      { cfg := { b.cfg with fwImage := i },
        d := busReadOn .memory (dropRead b.d .fwImage) (b.cfg.boot.fwAddr.toNat + 64) (leAt i 8 4 - 64) .fwImage }
    else fwImageRead i err b

/-- One row of Table 9.5: RED, PRE, PSC, LO, the exponent of the segment width, SYM, MULX, and each tail that can be reached. -/
structure VendorRow where
  red : Nat
  pre : Nat
  psc : Nat
  lo : Nat
  wexp : Int
  sym : Nat
  mulx : Bool
  ltail : Option (Nat × Nat)
  rtail : Option (Nat × Nat)

/-- Table 9.5. The FP32 constants are the nearest to 1, log2 e, ln 2, −0.25, −24 and −16. -/
def vendorRow (z : Nat) : VendorRow :=
  let one := 0x3F800000
  let plain (red : Nat) (lo : Nat) (wexp : Int) : VendorRow :=
    { red := red, pre := one, psc := one, lo := lo, wexp := wexp, sym := 0, mulx := false, ltail := none, rtail := none }
  let const0 := some (0, 0)
  let const1 := some (0, one)
  let exp := some (2, 0)
  match z with
  | 0 => { plain 1 0 (-8) with pre := 0x3FB8AA3B }
  | 1 => plain 1 0 (-8)
  | 2 => { plain 2 0xBE800000 (-8) with psc := 0x3F317218 }
  | 3 => plain 2 0xBE800000 (-8)
  | 4 => plain 3 0 (-8)
  | 5 => plain 4 0 (-6)
  | 6 => plain 5 0 (-6)
  | 7 => { plain 0 0xC1C00000 (-2) with ltail := exp, rtail := const1 }
  | 8 => { plain 0 0 (-4) with sym := 1, rtail := const1 }
  | 9 => { plain 0 0 (-5) with sym := 1, rtail := const1 }
  | 10 => { plain 0 0xC1800000 (-3) with mulx := true, ltail := const0, rtail := const1 }
  | 11 => { plain 0 0xC1800000 (-3) with mulx := true, ltail := const0, rtail := const1 }
  | 12 => { plain 0 0xC1C00000 (-2) with mulx := true, ltail := exp, rtail := const1 }
  | _ => { plain 0 0xC1C00000 (-2) with ltail := exp, rtail := some (1, 0) }

/-- The header of a vendor slot: the fields that Table 9.5 states, the others as the image has them (R267; log 111: DEDUCED). -/
def vendorHeader (z h : Nat) : Nat :=
  let v := vendorRow z
  let tail (lo cLo : Nat) (x : Option (Nat × Nat)) (h : Nat) : Nat := match x with
    | none => h
    | some (m, c) => if m = 0 then setBits (setBits h lo 3 m) cLo 32 c else setBits h lo 3 m
  let h := setBits (setBits (setBits h 0 32 v.lo) 32 32 v.pre) 64 32 v.psc
  let h := setBits (setBits (setBits (setBits h 160 8 (ofSigned 8 v.wexp)) 168 4 v.red) 172 2 v.sym) 174 1 (b2n v.mulx)
  tail 179 128 v.rtail (tail 176 96 v.ltail h)

/-- The vendor tables of an image in both banks of slots 0 to 13, with the headers of Table 9.5 (R267, R274). -/
def vendorSlots (i : List Byte) : Tab FnSlot :=
  (upFrom 0 14).map (fun z =>
    let t := FnTab.ofBytes ((i.drop (leAt i 40 4 + 3104 * z)).take 3104)
    let t := { t with hdr := w256 (vendorHeader z t.hdr.toNat) }
    (z, { a := some t, b := some t, cur := false }))

/-- FW_VERIFY_RESULT: the code goes to the DCP's SRAM, the tables to the SFU, and the DCP starts; or boot ends. -/
def fwVerifyResult (ok : Bool) (b : Block) : Block :=
  if !b.cfg.booting .p4Verify then b
  else if !ok then bootFail { b with cfg := { b.cfg with fwImage := [] } } 6
  else
    let i := b.cfg.fwImage
    let code := (i.drop (leAt i 32 4)).take (leAt i 36 4)
    { cfg := { b.cfg with phase := .p5, fwImage := code, dcpRun := true, dcpEntry := w64 (leAt i 24 8) },
      d := { b.d with sf := { b.d.sf with slots := vendorSlots i }, tr := { b.d.tr with buf := [] },
                      ram := (upFrom 0 code.length).zip code } }

/-- FW_START_TIMEOUT. -/
def fwStartTimeout (b : Block) : Block := if b.cfg.booting .p5 then bootFail b 7 else b

/-- History of a unit as the block gives it (Table 14.3): the events older than the three stamped ones count with the oldest
stamp (log 43: DEDUCED). -/
def histOf (time : Nat) (h : HistEntry) : UnitHist :=
  let ages := h.ages.filter (· ≠ 0xFFFFFFFF)
  let old := List.replicate (h.charged - ages.length) (listMax ages)
  { stamps := (ages ++ old).map (fun a => time - a), total := h.charged,
    failStamps := if h.surveyFailed then [time] else [], lastFailed := h.surveyFailed, twice := false }

def bootHist (x : BootCfg) : Tab UnitHist :=
  x.hist.foldl (fun t h => tset t h.unit (histOf x.time.toNat h) .none) []

/-- BOOT_COMPLETE: the firmware has classified the history, and writes FE_FTV and then FE_FWVER; the key generator is seeded and
gives LINK_KEY (R398). Later, until a context has been opened, a write only changes what the two registers report. -/
def bootComplete (ftv : W16) (fwver : W32) (b : Block) : Block :=
  let k := b.cfg
  if fwver = 0 || k.inReset || k.frozen then b
  else if k.phase == .booted then
    (if k.fwRuns && !b.d.fe.opened then { b with cfg := { k with ftv := ftv, fwver := fwver } } else b)
  else if k.phase ≠ .p5 then b
  else
    let d := { b.d with fs := { b.d.fs with hist := bootHist k.boot }, gs := { b.d.gs with keys := 0 },
                        lk := { b.d.lk with key := Config.keyGen k.boot.entropy 0 },
                        mn := { b.d.mn with statUnread := true }, pw := { b.d.pw with upTs := b.d.ts } }
    let d := powerReport k d
    let k := { k with phase := .booted, bootStat := 0, bootDone := true, ftv := ftv, fwver := fwver }
    let b : Block := { cfg := k, d := d }
    if k.health ≠ .flagged && (k.boot.flagged || somePermanent b) then setHealth b .flagged else b

/-! ### Resets (R391 to R394, R436, R437) -/

/-- Held accesses of a freeze that a reset ends: reads return 0, writes are discarded (R368). -/
def dropHeld (d : Dyn) : Dyn :=
  d.held.foldl (fun d a =>
    match a with
    | .read _ _ rid => out d (.hostRead rid 0)
    | .write _ _ _ => d
    | .order _ => d) { d with held := [] }

/-- Records kept across a reset are processed anew by the new firmware. -/
def keepRecs (t : Tab FEntry) : Tab FEntry :=
  t.map (fun e => (e.1, { e.2 with served := false, posted := false, acked := false }))

/-- The FLAGGED bit set in a kept block, its CRC made right again (R392). -/
def flagBlock (b : List Byte) : List Byte :=
  let b := b.take 19 ++ [(b.getD 19 0) ||| 1] ++ b.drop 20
  b.take 12 ++ leBytes 4 (crc32 (bbNoCrc b)) ++ b.drop 16

/-- The running side after a reset; STEP, FSEQ and the fault records are kept unless `all` (Table 14.1). -/
def resetDyn (d : Dyn) (all : Bool) : Dyn :=
  let d := dropHeld d
  let r := { Dyn.reset with outs := d.outs, ts := d.ts, free := d.free }
  if all then r else { r with step := d.step, fs := { r.fs with recs := keepRecs d.fs.recs, fseq := d.fs.fseq } }

/-- POR. -/
def por (b : Block) : Block :=
  let k := b.cfg
  { cfg := { Cfg.reset k.build with porAsserted := true, sysAsserted := k.sysAsserted, dntAsserted := k.dntAsserted },
    d := resetDyn b.d true }

/-- SYS_RST_N or DNT_RST_N asserted. -/
def softReset (sys : Bool) (b : Block) : Block :=
  let k := b.cfg
  let kept := if k.health = .flagged then k.kept.map flagBlock else k.kept
  { cfg := { Cfg.reset k.build with porAsserted := k.porAsserted, sysAsserted := k.sysAsserted || sys,
                                    dntAsserted := k.dntAsserted || !sys, kept := kept },
    d := resetDyn b.d false }

/-- RESET_RELEASE: once the last input is released, boot begins with phase 1. -/
def resetRelease (por sys dnt : Bool) (b : Block) : Block :=
  let k := b.cfg
  { b with cfg := { k with porAsserted := k.porAsserted && !por, sysAsserted := k.sysAsserted && !sys,
                           dntAsserted := k.dntAsserted && !dnt } }

/-! ### Freeze and the end of a wake (R406, R407, R423, R424) -/

/-- FREEZE: in DOZE the wake runs first. -/
def freeze (b : Block) : Block :=
  let k := b.cfg
  if k.inReset || k.frozen then b
  else if k.doze = .awake then { b with cfg := { k with frozen := true } }
  else wake { b with cfg := { k with freezeWait := true } }

/-- The sampled timestamp after the freeze: the input has run on, by a length that no rule gives, and the check interval restarts (R424; log 3:
DESIGN CHOICE). -/
def tsResume (d : Dyn) : Dyn :=
  let d := if tsHeld d then d else { useFree d 1 with ts := d.ts + freeW d 0 }
  { d with nb := { d.nb with intervalFrom := d.ts } }

/-- FREEZE_RELEASE: the clocks restart from the cut, and held accesses are applied. -/
def freezeRelease (b : Block) : Block :=
  let k := b.cfg
  if k.frozen then serveHeldHost { cfg := { k with frozen := false }, d := tsResume b.d }
  else { b with cfg := { k with freezeWait := false } }

/-- WAKE_COMPLETE, once the host chip has acknowledged the restore: the clocks run, and held accesses are applied. -/
def wakeComplete (b : Block) : Block :=
  let k := b.cfg
  if k.inReset || k.frozen || k.doze ≠ .waking || !gateAcked b.d .doze then b
  else
    let k := { k with doze := .awake, dozeReq := false }
    let b := serveHeldHost (tidy { cfg := k, d := traceState k b.d 2 0 1 })
    if b.cfg.freezeWait then { b with cfg := { b.cfg with freezeWait := false, frozen := true } } else b

end Sys2Proof.Machine
end

