-- ==== Sys2Proof/Machine/Observe.lean ====
section
/-! DEFINITION. Trace, sampling, the replay log's drain, inspection and the serial port (R325, R328, R388, R390, R413 to R422,
R429): TR_POST, SAMPLING_TICK, LOSS_RECORD, TRACE_SPILL_WRITE, REPLAY_DRAIN, INSPECT, MON_TX, MON_RX_READ, UART_RX_CHAR,
UART_TX_CHAR. -/
namespace Sys2Proof.Machine

/-! ### Trace (R416 to R422) -/

/-- TR_POST: TYPE below 0x80 becomes 0x80, and the sink writes TS and PLANE itself (R419). -/
def trPost (w : W256) (k : Cfg) (d : Dyn) : Dyn :=
  let d := { d with tr := { d.tr with staged := w } }
  trace k d (max 0x80 (bits w.toNat 64 8)) 1 (bits w.toNat 80 176)

/-- The tap of an engine, with the reserved stall codes sampled as 0b101 (Table 5.11); a sample the command does not give is a free value (log 16:
DESIGN CHOICE). -/
def tapOf (taps : List (Nat × W64 × BitVec 3)) (d : Dyn) (l : Nat) : W64 × Nat × Dyn :=
  match taps.find? (fun t => t.1 = l) with
  | some t => (t.2.1, if 6 ≤ t.2.2.toNat then 5 else t.2.2.toNat, d)
  | none => (freeW d 0, min 5 (bits (freeW d 1).toNat 0 3), useFree d 2)

/-- One PC_SAMPLE record (R417, Table 15.2). -/
def pcSample (k : Cfg) (taps : List (Nat × W64 × BitVec 3)) (d : Dyn) (l : Nat) : Dyn :=
  let e := getEng d l
  let t := tapOf taps d l
  let held := e.holdsTaken
  let who := if held then e.lastRead.getD (0, 0) else (0, 0)
  trace k t.2.2 0x02 0 (bits (d.fc.toNat >>> k.pcsLog2.toNat) 0 32 + l * 2 ^ 32 + t.2.1 * 2 ^ 49 + b2n held * 2 ^ 52
    + who.2 * 2 ^ 64 + who.1 * 2 ^ 84 + t.1.toNat * 2 ^ 112)

/-- SAMPLING_TICK: in a cycle in which FC is a multiple of 2^LOG2INT, samples of the engines when PCS_CTL.EN is 1, and of every
launch in flight that was not taken in this very cycle (R415 to R417, R420). -/
def samplingTick (taps : List (Nat × W64 × BitVec 3)) (k : Cfg) (d : Dyn) : Dyn :=
  if !atTick k d then d
  else
    let d := if k.pcsEn then (k.allLeaves.filter k.taskEngine).foldl (pcSample k taps) d else d
    ((launchesInFlight d).filter (fun e => !(tget d.ls.counts e.1).any (fun c => c.fc = d.fc))).foldl
      (fun d e => launchSample k d e.1 false) d

/-- LOSS_RECORD. -/
def lossRecord (k : Cfg) (d : Dyn) : Dyn := traceLoss k d

/-- The spill write that is out has been acknowledged: TAIL advances. -/
def spillAck (d : Dyn) (n : Nat) : Dyn :=
  let tr := d.tr
  if tr.spillOut < n then d
  else { d with tr := { tr with spillOut := tr.spillOut - n, spillTail := tr.spillTail + w32 n } }

def isSpill (j : WrJob) : Bool :=
  match j.use with
  | .spill _ => true
  | _ => false

/-- Presents the write of the oldest record, unless the spill ring is full (R421). -/
def spillNext (k : Cfg) (d : Dyn) : Dyn :=
  let tr := d.tr
  let used := dist32 tr.spillHead tr.spillTail + tr.spillOut
  match tr.buf with
  | [] => d
  | w :: t =>
    if !k.traceSpill || 2 ^ k.spillLog2.toNat < used + 32 then d
    else
      let a := (k.spillBase.toNat + (tr.spillTail.toNat + tr.spillOut) % 2 ^ k.spillLog2.toNat) % p64
      let d := { d with tr := { tr with buf := t, spillOut := tr.spillOut + 32 } }
      traceLoss k (busWrite k d a (leBytes 32 w.toNat) (.spill 32))

/-- TRACE_SPILL_WRITE: the oldest spill write that is out is acknowledged, and the next record is written. -/
def traceSpillWrite (k : Cfg) (d : Dyn) : Dyn :=
  match d.bus.writes.find? isSpill with
  | some j =>
    let d := { d with bus := { d.bus with writes := dropFirst isSpill d.bus.writes } }
    spillNext k (showReads (spillAck d j.data.length))
  | none => spillNext k d

/-! ### The replay log's drain (R325, R328) -/

def isReplay (j : WrJob) : Bool :=
  match j.use with
  | .replay _ => true
  | _ => false

/-- A write of the record in hand has been acknowledged; with its last one TAIL passes the record. -/
def replayAck (d : Dyn) (n : Nat) : Dyn :=
  if d.bus.writes.any isReplay then d else { d with rp := { d.rp with tail := d.rp.tail + w32 n } }

/-- Presents the writes of the oldest staged record, one per slot, once its IMGDIG is known; a full ring stops the drain. -/
def replayNext (k : Cfg) (d : Dyn) : Dyn :=
  match d.rp.stage with
  | [] => d
  | r :: t =>
    if r.img.isSome || d.bus.writes.any isReplay || !k.replayEn then d
    else if ringLacks k d.rp then
      { d with rp := { d.rp with full := true } }
    else
      let n := r.slots.length
      let d1 := { d with rp := { d.rp with stage := t, full := false } }
      let slot (i : Nat) : Nat := (k.replayBase.toNat + 32 * ((d.rp.tail.toNat + i) % 2 ^ k.replayLog2.toNat)) % p64
      (r.slots.zip (upFrom 0 n)).foldl (fun d w => busWrite k d (slot w.2) (leBytes 32 w.1.toNat) (.replay n)) d1

/-- REPLAY_DRAIN: the writes of the record that is out are acknowledged, and the next record is written. -/
def replayDrain (k : Cfg) (d : Dyn) : Dyn :=
  match d.bus.writes.find? isReplay with
  | some j =>
    let n := match j.use with
      | .replay n => n
      | _ => 0
    let d := { d with bus := { d.bus with writes := d.bus.writes.filter (fun x => !isReplay x) } }
    replayNext k (showReads (replayAck d n))
  | none => replayNext k d

/-! ### Inspection (R390, Table 13.23) -/

/-- A return of KIND 2. -/
def inspectRet (q : Req) (st : Status) (part : Nat) (last : Bool) (data : Nat) : Ret :=
  { cmdRet q.id cInspect st 0 with kind := 2, part := part, last := last, data := w256 data }

/-- The value of a counter, unsampled: those of Tables 13.9 to 13.11 and 13.10, and BANK_HOT. -/
def counterValue (k : Cfg) (d : Dyn) (off : Nat) : Option Nat :=
  if off = 0x210 then some (bankHot d)
  else if isCounter k off then some (tgetD d.cnt off 0).toNat else none

/-- Nodes of a launch in each state of Table 2.3. -/
def nodeCounts (d : Dyn) (slot : Nat) : List Nat :=
  let states := match tget d.ls.slots slot with
    | some l => if l.inFlight then l.indices.map (fun g => (getNode d g).st.code) else []
    | none => []
  (upFrom 0 10).map (fun s => (states.filter (· = s)).length)

/-- Part 0 of a launch slot. What a slot that has been freed keeps of its last graph, epoch and base is free (log 16: DESIGN CHOICE). -/
def slotPart0 (d : Dyn) (slot : Nat) : Nat :=
  let c := tget d.ls.counts slot
  let who := match c with
    | some c => c.id.c + c.id.r * 2 ^ 6 + b2n c.svc * 2 ^ 10 + c.id.dseq.toNat * 2 ^ 16 + c.issues * 2 ^ 96
        + c.naks * 2 ^ 128 + c.busy * 2 ^ 160
    | none => 0
  let what := match tget d.ls.slots slot with
    | some l => b2n l.inFlight * 2 ^ 9 + l.graph * 2 ^ 48 + l.epoch * 2 ^ 64 + l.base * 2 ^ 72
    | none => if c.isSome then bits (freeW d 0).toNat 0 12 * 2 ^ 48 + bits (freeW d 0).toNat 12 28 * 2 ^ 64 else 0
  who + what

/-- The entry of a parcel (Table 4.1). A depth of 16, which DEPTH cannot hold, reads as 0 (log 98: DESIGN CHOICE). -/
def parcelEntry (k : Cfg) (d : Dyn) (p : Nat) : Nat :=
  let n := (parcelMembers k d p).length
  if p ≤ k.nReg then 1 + n * 2 ^ 32 + (if p = 0 then 2 else 1) * 2 ^ 48
  else match tget d.dp.parcels p with
    | some x => 1 + x.first * 2 ^ 16 + n * 2 ^ 32 + x.depth % 16 * 2 ^ 48
    | none => 0

/-- The parts of an object; none for an object that the table does not have. -/
def inspectParts (k : Cfg) (d : Dyn) (obj idx : Nat) : Option (List Nat) :=
  match obj with
  | 0 => (counterValue k d idx).map (fun v => [v])
  | 1 => if idx = 0 then some [k.modeWord + d.step.toNat * 2 ^ 64] else none
  | 2 =>
    if idx < 1024 then
      some [slotPart0 d idx, ((nodeCounts d idx).zip (upFrom 0 10)).foldl (fun s x => s + x.1 * 2 ^ (20 * x.2)) 0]
    else none
  | 3 =>
    if idx < 65536 then
      let ms := parcelMembers k d idx
      some (parcelEntry k d idx :: (chunks 8 ms.length ms).map (fun c => c.foldr (fun m s => m + s * p32) 0))
    else none
  | _ => none

/-- INSPECT. -/
def inspect (k : Cfg) (d : Dyn) : Dyn :=
  match frontOp d 0 cInspect with
  | none => d
  | some q =>
    let parts := inspectParts k d (opn q.ops 16 1) (opn q.ops 20 4)
    let d := useFree (takeReq d q) 1
    match parts with
    | none => pushRet d (inspectRet q .badDescriptor 0 true 0)
    | some ps => (ps.zip (upFrom 0 ps.length)).foldl (fun d x =>
        pushRet d (inspectRet q .ok x.2 (x.2 + 1 = ps.length) x.1)) d

/-! ### The monitor channel and the serial port (R388, R429) -/

def monCap : Nat := 64

/-- MON_TX: ignored while TXFULL is 1. -/
def monTx (ch : Byte) (_k : Cfg) (d : Dyn) : Dyn :=
  if monCap ≤ d.mn.tx.length then d else { d with mn := { d.mn with tx := d.mn.tx ++ [ch] } }

/-- MON_RX_READ: VALID and the character, which is removed. -/
def monRxRead (_k : Cfg) (d : Dyn) : Dyn :=
  match d.mn.rx with
  | [] => out d (.dcpRead 0)
  | c :: t => out { d with mn := { d.mn with rx := t } } (.dcpRead (w32 (c.toNat + 2 ^ 8)))

/-- UART_RX_CHAR, also in DOZE and while frozen. -/
def uartRxChar (ch : Byte) (b : Block) : Block :=
  let mn := b.d.mn
  if b.cfg.inReset then b
  else if monCap ≤ mn.rx.length then { b with d := { b.d with mn := { mn with rxOver := true } } }
  else { b with d := { b.d with mn := { mn with rx := mn.rx ++ [ch] } } }

/-- UART_TX_CHAR: one character has left; a rate set by BAUD applies from the end of the prompt that follows (R431). -/
def uartTxChar (b : Block) : Block :=
  match b.d.mn.tx with
  | [] => b
  | c :: t =>
    if b.cfg.inReset then b
    else
      let k := b.cfg
      let k := if c = 0x3E then { k with baud := k.baudNext.getD k.baud, baudNext := none } else k
      { cfg := k, d := out { b.d with mn := { b.d.mn with tx := t } } (.uartTx c) }

end Sys2Proof.Machine
end

