-- ==== Sys2Proof/Machine/Monitor.lean ====
section
/-! DEFINITION. The monitor's commands (R430 to R432, Table 15.8). An answer is its lines of key and value pairs and the status it ends
with (log 15: DESIGN CHOICE); the characters themselves go through MON_TX and UART_TX_CHAR. -/
namespace Sys2Proof.Machine

/-- A line of an answer. -/
abbrev MonLine := List (String × Nat)

/-- The monitor answers a line. -/
def monAnswer (d : Dyn) (st : Status) (ls : List MonLine) : Dyn :=
  { d with mn := { d.mn with answer := ls, result := some st } }

/-- R430: a line that is too long, or whose command or operand is not recognised. -/
def monBad (d : Dyn) : Dyn := monAnswer d .badDescriptor []

def monOk (d : Dyn) (ls : List MonLine) : Dyn := monAnswer d .ok ls

def monBadLine (_k : Cfg) (d : Dyn) : Dyn := monBad d

/-- The command words of Table 15.8. -/
def monWords : List String :=
  ["help", "id", "health", "fault", "hedge", "ctx", "launch", "count", "parcel", "fallow", "trace", "pcs", "drain", "survey quick",
   "survey full", "baud"]

def monHelp (_k : Cfg) (d : Dyn) : Dyn := monOk d (monWords.map (fun w => [(w, 1)]))

def monId (k : Cfg) (d : Dyn) : Dyn :=
  monOk d [[("DNT_ID", global32 k d 0x0), ("DNT_VER", global32 k d 0x4), ("DNT_CONFIG", dntConfig k),
    ("CHIP_ID", k.boot.chipId), ("DNT_FWVER", k.fwver.toNat), ("SFU_FTV", k.ftv.toNat)],
    [("SERIAL", leNat k.boot.serial)]]

def monHealth (k : Cfg) (d : Dyn) : Dyn :=
  monOk d [[("DNT_HEALTH", dntHealth k d), ("DNT_MODE", k.modeWord), ("FAULT_OCC", d.fs.recs.length),
    ("FSEQ_NEXT", d.fs.fseq.toNat)], [("PWR_STAT", pwrStat k d), ("STEP", d.step.toNat), ("SVC_STAT", svcStat d)]]

/-- A fault record decoded by Table 12.1. -/
def recLines (n : Nat) (r : FRec) : List MonLine :=
  [[("ENTRY", n), ("FSEQ", r.fseq.toNat), ("STATUS", r.status.code), ("MECH", r.mech), ("PLANE", r.plane), ("CTX", optNat r.ctx),
    ("FLAGS", r.flags)],
   [("UNIT", r.unit), ("LAUNCH", optNat r.launch), ("NODE", optNat r.node), ("SLOT", optNat r.eng), ("DETAIL", r.detail.toNat)],
   [("TS", r.ts.toNat)]]

/-- fault [n]: the record of an entry, or every occupied one from the oldest. -/
def monFault (n : Option Nat) (_k : Cfg) (d : Dyn) : Dyn :=
  match n with
  | some i =>
    if 1024 ≤ i then monBad d
    else monOk d (((tget d.fs.recs i).map (fun e => recLines i e.record)).getD [])
  | none =>
    let rs := isort (fun a b => (a.2.record.fseq - d.fs.fseq).toNat ≤ (b.2.record.fseq - d.fs.fseq).toNat) d.fs.recs
    monOk d (rs.flatMap (fun e => recLines e.1 e.2.record))

/-- The unit codes of the hedged units: sites, and edge stubs with a hedged slot. -/
def hedgedUnits (d : Dyn) : List Nat :=
  d.fs.hedgeSite ++ (d.fs.hedgeEdge.map (fun i => unitOf (edgeLeaf i))).eraseDups

def monHedge (_k : Cfg) (d : Dyn) : Dyn := monOk d ((hedgedUnits d).map (fun u => [("UNIT", u)]))

def monCtx (c : Nat) (k : Cfg) (d : Dyn) : Dyn :=
  if 64 ≤ c then monBad d
  else
    let x := getCtx d c
    let rings := (upFrom 0 ringCount).filter (fun r => (x.ring r).en)
    monOk d ([("CTX_STAT", ctxStat k d c), ("CTX_CSEQ", x.cseq.toNat), ("CTX_INFLIGHT", ctxInflight d c),
        ("CPL_HEAD", x.cplHead.toNat), ("CPL_TAIL", x.cplTail.toNat)]
      :: rings.map (fun r =>
        let g := x.ring r
        [("RING", r), ("HEAD", g.head.toNat), ("TAIL", g.tail.toNat), ("DSEQ", g.dseq.toNat), ("STATE", (ringState k g).code)]))

/-- launch s. -/
def monLaunch (s : Nat) (_k : Cfg) (d : Dyn) : Dyn :=
  if 1024 ≤ s then monBad d
  else
    let p := slotPart0 d s
    let d' := useFree d 1
    monOk d' [[("CTX", bits p 0 6), ("RING", bits p 6 3), ("DSEQ", bits p 16 32), ("GRAPH", bits p 48 12), ("EPOCH", bits p 64 8)],
      ((nodeCounts d s).zip (upFrom 0 10)).map (fun x => ("NODES", x.1 + x.2 * 2 ^ 20)),
      [("ISSUES", bits p 96 32), ("NAKS", bits p 128 32), ("BUSY", bits p 160 48)]]

/-- count name: a counter of Tables 13.9 to 13.11, by its offset, without clearing it. -/
def monCount (off : Nat) (k : Cfg) (d : Dyn) : Dyn :=
  match counterValue k d off with
  | some v => monOk d [[("COUNT", v)]]
  | none => monBad d

def monParcel (p : Nat) (k : Cfg) (d : Dyn) : Dyn :=
  if 65536 ≤ p then monBad d
  else monOk d ([("ENTRY", parcelEntry k d p)] :: (parcelMembers k d p).map (fun m => [("REF", m)]))

/-- Fallow banks of an MU, a bit each (Table 13.21). -/
def muFallowByte (d : Dyn) (site : Nat) : Nat :=
  listSum (((upFrom 0 8).filter (fun b => d.pw.muFallow.contains (muKey site b))).map (2 ^ ·))

/-- The site units that hold an MU, ascending. -/
def Cfg.muSites (k : Cfg) : List Nat :=
  (upFrom 0 (256 * k.nReg)).filter (fun s => k.sitePresent s && k.siteIsMu s)

def monFallow (k : Cfg) (d : Dyn) : Dyn :=
  monOk d ([("PWR_FALLOW", if d.pw.cbFallow then max64 else 0)]
    :: k.muSites.map (fun s => [("SITE", s), ("BANKS", muFallowByte d s)]))

/-- A trace record decoded by Table 15.2; the body of a firmware record is its own. -/
def traceLine (w : W256) : MonLine :=
  let f (byte n : Nat) : Nat := bits w.toNat (8 * byte) n
  let head : MonLine := [("TS", f 0 64), ("TYPE", f 8 8), ("PLANE", f 9 2)]
  match f 8 8 with
  | 0x01 => head ++ [("COUNT", f 10 64), ("FIRST_TS", f 18 64)]
  | 0x02 => head ++ [("TICK", f 10 32), ("LEAF", f 14 17), ("STALL", bits w.toNat 129 3), ("HELD", bits w.toNat 132 1),
      ("NODE", f 18 20), ("LAUNCH", bits w.toNat 164 10), ("PC", f 24 64)]
  | 0x03 => head ++ [("DSEQ", f 10 32), ("SLOT", f 14 10), ("CTX", bits w.toNat 122 6), ("RING", f 16 3),
      ("END", bits w.toNat 134 1), ("SVC", bits w.toNat 135 1), ("ISSUES", f 18 32), ("NAKS", f 22 32), ("BUSY", f 26 48)]
  | 0x04 => head ++ [("FSEQ", f 10 32), ("STATUS", f 14 8), ("MECH", f 15 8), ("UNIT", f 16 16), ("FLAGS", f 18 8),
      ("PLANE_CTX", f 19 8), ("LAUNCH", f 20 16), ("NODE", f 22 24), ("SLOT", f 25 8)]
  | 0x05 => head ++ [("KIND", f 10 8), ("NEW", f 12 32), ("OLD", f 16 32)]
  | _ => head ++ [("BODY", f 10 176)]

/-- trace n: the newest n records, 1 to 64, the newest first. -/
def monTrace (n : Nat) (_k : Cfg) (d : Dyn) : Dyn :=
  if n = 0 || 64 < n then monBad d else monOk d ((d.tr.buf.reverse.take n).map traceLine)

/-- pcs leaf: the newest PC_SAMPLE record of the leaf in the buffer, or none=1 (R432). -/
def monPcs (l : Nat) (_k : Cfg) (d : Dyn) : Dyn :=
  if 65536 ≤ l then monBad d
  else match d.tr.buf.reverse.find? (fun w => bits w.toNat 64 8 = 0x02 && bits w.toNat 112 17 = l) with
    | none => monOk d [[("none", 1)]]
    | some w =>
      let keep := ["TICK", "PC", "STALL", "NODE", "LAUNCH"]
      monOk d [(traceLine w).filter (fun p => keep.contains p.1)]

/-- A request of the monitor that the current health state refuses. -/
def monRefused (b : Block) : Block :=
  let b := surveyRefused b
  { b with d := monAnswer b.d .cancelled [] }

/-- drain: as the controller's order. -/
def monDrain (b : Block) : Block :=
  if b.cfg.health ≠ .service then monRefused b
  else
    let b := mgtDrain b
    { b with d := monOk b.d [] }

/-- survey quick and survey full: as the controller's orders. -/
def monSurvey (full : Bool) (b : Block) : Block :=
  if b.cfg.boot.surveySize = 0 || !(b.cfg.health = .service || b.cfg.health = .drained) then monRefused b
  else
    let b := mgtSurvey full b
    { b with d := monOk b.d [] }

/-- The rates of Table 15.7. -/
def baudRates : List Nat := [115200, 230400, 460800, 921600, 1000000, 2000000, 3000000]

/-- Management cycles per bit (R429). -/
def baudDivisor (rate : Nat) : Nat := (200000000 + rate / 2) / rate

/-- baud rate. -/
def monBaud (rate : Nat) (b : Block) : Block :=
  if baudRates.contains rate then { cfg := { b.cfg with baudNext := some rate }, d := monOk b.d [] }
  else { b with d := monBad b.d }

end Sys2Proof.Machine
end

