-- ==== Sys2Proof/Machine/ReadOut.lean ====
section
/-! DEFINITION. Read-out while frozen (R425 to R428, Tables 15.5 and 15.6): READ_OUT. Where in its store an entry lies that the rules do
not place (a list's entry, a cache's, an accumulator) is the model's choice (log 44: DESIGN CHOICE). -/
namespace Sys2Proof.Machine

/-- The check symbols that come with an entry: those of its 128-bit word; those of a word whose other entries the spec does not
name, or of storage of an unstated kind, which are free; none, for flip-flops (R426). -/
inductive RoKind where
  | sram
  | grouped
  | flop
  deriving DecidableEq, Repr

/-- An assigned entry: its data and its kind. -/
abbrev RoEntry := Option (Nat × RoKind)

/-- A half, or another 16-byte part, of a wide entry. -/
def part16 (v i : Nat) : Nat := bits v (128 * i) 128

/-! ### SRAM stores 0x00 to 0x06 -/

/-- The node word in a row of a bank. -/
def roNode (d : Dyn) (bank row : Nat) : Nat :=
  match rowOwner d (64 * row) with
  | none => 0
  | some s =>
    match (upFrom (64 * row) 64).find? (fun g => nodeBank d s g = bank) with
    | some g => (getNode d g).word
    | none => 0

/-- The descriptor at an offset of the descriptor store. -/
def descAt (d : Dyn) (off : Nat) : Option Desc :=
  (tvals d.gs.graphs).findSome? (fun g =>
    if g.hasRuns && g.descBase ≤ off && off < g.descBase + 128 * g.nNodes then g.descs[(off - g.descBase) / 128]?
    else g.patches.findSome? (fun p => if p.base ≤ off then (p.copies[(off - p.base) / 128]?).map (·.2) else none))

def Desc.all (x : Desc) : Nat := x.w0.toNat + x.w1.toNat * 2 ^ 256 + x.w2.toNat * 2 ^ 512 + x.w3.toNat * 2 ^ 768

/-- A word of a line of the descriptor cache; what a line in no graph's run holds is free. -/
def roDcache (d : Dyn) (line w : Nat) : Nat :=
  match (tgetD d.gs.dcache (line / 16) []).find? (fun x => x.1 = line % 16 && x.2.2) with
  | none => 0
  | some x =>
    match descAt d (128 * x.2.1) with
    | some y => part16 y.all w
    | none => (freeW d 0).toNat + (freeW d 1).toNat * p64

/-- A gazetteer entry in its way. -/
def roGaz (d : Dyn) (e : Nat) : Nat :=
  match (d.rt.gcache.filter (fun x => x.1 % 4096 = e / 4))[e % 4]? with
  | some x => setBits x.2.entry.toNat 16 16 x.2.use
  | none => 0

/-- The trace buffer: its records from the oldest, or before they begin the firmware image (R448). -/
def roTrace (k : Cfg) (d : Dyn) (e : Nat) : Nat :=
  if k.phase == .p4Verify then leAt k.fwImage (32 * e) 32 else (d.tr.buf.getD e 0).toNat

/-- A byte of the local SRAM; one that no load and no commanded write has set holds what the firmware left there: free. -/
def ramByte (d : Dyn) (a : Nat) : Nat := (tgetD d.ram a (BitVec.ofNat 8 (Config.freeWord (d.free + a)).toNat)).toNat

/-- 16 bytes of the DCP's local SRAM: once it has run, its load and what the firmware left there. -/
def roDcpRam (k : Cfg) (d : Dyn) (i : Nat) : Nat :=
  if k.dcpRun then listSum ((upFrom 0 16).map (fun j => ramByte d (16 * i + j) * 2 ^ (8 * j))) else 0

/-! ### The other tables -/

def REntry.ro (e : REntry) : Nat := e.g + e.level * 2 ^ 20 + b2n e.void * 2 ^ 24 + 2 ^ 25

def SbEntry.ro (e : SbEntry) : Nat := e.range.toNat + e.g * 2 ^ 64 + b2n e.task.isNone * 2 ^ 84 + 2 ^ 85

/-- Ready lists. -/
def roReady (k : Cfg) (d : Dyn) (i : Nat) : RoEntry :=
  if i < 65536 then some (((d.dp.root[i]?).map REntry.ro).getD 0, .grouped)
  else
    let r := (i - 65536) / 8192
    if r < k.nReg then some ((((tgetD d.dp.regs r [])[(i - 65536) % 8192]?).map REntry.ro).getD 0, .grouped) else none

/-- Scoreboards. -/
def roSb (k : Cfg) (d : Dyn) (i : Nat) : RoEntry :=
  if i < 1024 then some (((d.dp.sbRoot[i]?).map SbEntry.ro).getD 0, .grouped)
  else
    let r := (i - 1024) / 512
    if r < k.nReg then some ((((tgetD d.dp.sbReg r [])[(i - 1024) % 512]?).map SbEntry.ro).getD 0, .grouped) else none

def roSlot (d : Dyn) (s : Nat) : Nat :=
  match tget d.ls.slots s with
  | none => 0
  | some l => l.base + l.graph * 2 ^ 20 + l.epoch * 2 ^ 32 + l.id.c * 2 ^ 40 + l.id.r * 2 ^ 46 + l.id.dseq.toNat * 2 ^ 49
      + b2n l.inFlight * 2 ^ 81 + (d.nb.cq.filter (fun e => e.slot = s)).length * 2 ^ 82

def roCounts (d : Dyn) (s : Nat) : Nat :=
  match tget d.ls.counts s with
  | none => 0
  | some c => c.issues + c.naks * 2 ^ 32 + c.busy * 2 ^ 64

/-- The parcel table and the member store. -/
def roParcel (k : Cfg) (d : Dyn) (i : Nat) : RoEntry :=
  if i < 65536 then some (parcelEntry k d i, .grouped)
  else if i < 131072 then
    let w := i - 65536
    some (((tvals d.dp.parcels).findSome? (fun p => if p.first ≤ w then p.members[w - p.first]? else none)).getD 0, .grouped)
  else none

/-- Combining queues and accumulators. -/
def roComb (d : Dyn) (i : Nat) : RoEntry :=
  if i < 2048 then some (part16 (qEntry d (i / 2)) (i % 2), .sram)
  else if i < 2048 + 3 * 8192 then
    let n := i - 2048
    some (((d.cb.tags[n / 3]?).map (fun t => part16 t.xp (n % 3))).getD 0, .sram)
  else none

/-- Signal counters and circular regions. -/
def roSignal (k : Cfg) (d : Dyn) (i : Nat) : RoEntry :=
  if i < 8192 then
    let x := getSig d i
    some (x.raised.toNat + x.taken.toNat * 2 ^ 32 + optNat x.owner * 2 ^ 64, .grouped)
  else if i < 8192 + 512 * k.nReg then
    let x := getCr d ((i - 8192) / 2)
    some (if i % 2 = 0 then x.entry.toNat else x.v.toNat + x.p.toNat * 2 ^ 32 + x.c.toNat * 2 ^ 64, .sram)
  else none

/-- The bytes of a table image (R268). -/
def FnTab.bytes (t : FnTab) : List Byte :=
  leBytes 32 t.hdr.toNat ++ t.segs.flatMap (fun s => leBytes 4 s.1.toNat ++ leBytes 4 s.2.1.toNat ++ leBytes 4 s.2.2.toNat)

/-- Routing layers and the banks of the SFU. -/
def roLayer (d : Dyn) (i : Nat) : RoEntry :=
  if i < 2048 then some (part16 (tgetD d.rt.layers (i / 2) 0).toNat (i % 2), .sram)
  else
    let n := i - 2048
    if n / 512 < 16 && n % 256 < 194 then
      let t := (tget d.sf.slots (n / 512)).bind (fun x => if n % 512 < 256 then x.a else x.b)
      some (((t.map (fun t => leAt t.bytes (16 * (n % 256)) 16))).getD 0, .sram)
    else none

/-- An entry of the fault summary. -/
def roFault (d : Dyn) (n : Nat) : Nat := ((tget d.fs.recs n).map (fun e => e.record.word.toNat)).getD 0

/-! ### Stub blocks (Table 15.6) -/

/-- Receive queue q of a stub: word k of entry e. -/
def roQueueWord (x : RQueue) (e k : Nat) : Nat :=
  match x.toks[e]? with
  | none => 0
  | some t => if k = 0 then t.hdr.toNat + t.src.toNat * p64 else part16 t.payload.toNat (k - 1)

def roQueue (x : RQueue) : Nat :=
  b2n x.isOpen + b2n x.sel * 2 + x.group.toNat * 2 ^ 2 + x.toks.length * 2 ^ 13 + x.g * 2 ^ 17 + x.slot * 2 ^ 37 + x.epoch * 2 ^ 47
    + leafSlot x.leaf * 2 ^ 55

/-- Word w of an operation slot. The send FC of an operation that has sent nothing is free. -/
def roOp (d : Dyn) (o : OpSlot) (w : Nat) : Nat :=
  let sent := o.tgts.any (fun t => t.st == .sent || t.st == .fin)
  match w with
  | 0 => (if o.code = 0 then o.hdr else o.arg).toNat + (if sent then o.fc else freeW d 0).toNat * p64
  | 1 => part16 o.payload.toNat 0
  | 2 => part16 o.payload.toNat 1
  | _ => o.code + 2 ^ 4 + b2n sent * 2 ^ 5 + b2n (o.tgts.any (fun t => t.st == .held || t.st == .keyHeld)) * 2 ^ 6
      + b2n (o.tgts.any (fun t => t.st == .sent)) * 2 ^ 7 + o.ptag * 2 ^ 8

def LogEntry.ro (e : LogEntry) : Nat :=
  e.fc.toNat + e.src * 2 ^ 64 + e.schip * 2 ^ 81 + e.qidx * 2 ^ 91 + e.status * 2 ^ 94 + e.tag * 2 ^ 102

/-- Entry i of a decision log: its newest entry lies before LOGPTR. -/
def roLog (d : Dyn) (key i : Nat) : Nat :=
  let l := tgetD d.tk.log key []
  let back := (tgetD d.tk.logPtr key 0 + logCap key - 1 - i) % logCap key
  ((l.reverse[back]?).map LogEntry.ro).getD 0

/-- The stage in which a point's word stands. -/
def stageOf (p : Pt) : List Pkt → Nat
  | [] => 0
  | x :: t =>
    match p with
    | .past => 0
    | .at tag w => if x.noticed && x.ptag = tag then w else x.words.length + stageOf p t

/-- PTAGs of the packets of a port with some property, a bit each. -/
def ptagBits (l : List Pkt) (f : Pkt → Bool) : Nat :=
  listSum ((l.filter (fun p => p.noticed && f p)).map (fun p => 2 ^ p.ptag))

/-- Word 9 of a port: its points, and what each PTAG stands for. -/
def roPortState (e : Engine) : Nat :=
  let sp := e.sp.getD .past
  let valids := listSum ((e.pkts.filter (·.noticed)).map (fun p => p.valid * 2 ^ (6 * p.ptag)))
  stageOf e.rp e.pkts % 8 + b2n (e.rp == .past) * 2 ^ 3 + stageOf sp e.pkts % 8 * 2 ^ 4 + b2n e.sp.isSome * 2 ^ 7
    + ptagBits e.pkts (fun _ => true) * 2 ^ 8 + ptagBits e.pkts (·.taken) * 2 ^ 12 + ptagBits e.pkts (·.noticed) * 2 ^ 16
    + valids * 2 ^ 20

/-- A work port: its stages with the words that are whole, the low half of its assembly register (log 101: DEDUCED), its state. -/
def roPort (e : Engine) (o : Nat) : RoEntry :=
  if o < 8 then some (part16 (((e.pkts.flatMap (fun p => p.words.take (p.beats / 4))).getD (o / 2) 0).toNat) (o % 2), .grouped)
  else if o = 8 then some (bits e.asm.toNat 0 128, .grouped)
  else if o = 9 then some (roPortState e, .grouped)
  else none

/-- The port number of the link endpoint in a stub. -/
def stubPort (k : Cfg) (s : Nat) : Option Nat := (k.boot.links.find? (fun e => e.2 / 16 = s)).map (·.1)

def roStub (k : Cfg) (d : Dyn) (s o : Nat) : RoEntry :=
  if !k.stubExists (16 * s) then none
  else if o < 192 then some (roQueueWord (getQ d (qKey (16 * s) (o / 24))) (o % 24 / 3) (o % 3), .sram)
  else if o < 200 then some (roQueue (getQ d (qKey (16 * s) (o - 192))), .grouped)
  else if o = 200 then some (tgetD d.tk.logPtr (stubLog s) 0, .grouped)
  else if o = 201 || o = 202 then
    (stubPort k s).map (fun p =>
      let x := getLink d p
      (if o = 201 then x.tokSent.toNat + x.tokRcvd.toNat * p64 else x.ackSent.toNat + x.ackRcvd.toNat * p64, .grouped))
  else if 256 ≤ o && o < 768 then
    let n := o - 256
    some (((getOp d (16 * s + n / 32) (n % 32 / 4)).map (fun x => roOp d x (n % 4))).getD 0, .grouped)
  else if 768 ≤ o && o < 1024 then some (roLog d (stubLog s) (o - 768), .grouped)
  else if 1024 ≤ o && o < 1280 then roPort (getEng d (16 * s + (o - 1024) / 16)) (o % 16)
  else none

/-- Endpoint logs: groups 0 to 2, and 3 + p for the link endpoint of port p. -/
def roEndLog (k : Cfg) (d : Dyn) (i : Nat) : RoEntry :=
  let has (g : Nat) : Bool := g < 3 || (tget k.boot.links (g - 3)).isSome
  if 0x100000 ≤ i then
    let g := i - 0x100000
    if has g then some (tgetD d.tk.logPtr (rootLog g) 0, .grouped) else none
  else if has (i / 4096) then some (roLog d (rootLog (i / 4096)) (i % 4096), .grouped) else none

/-! ### Register windows -/

/-- Four bytes of the host window, as a host would read them, without clearing. -/
def windowWord (k : Cfg) (d : Dyn) (off : Nat) : Nat :=
  if is64 k off then reg64 k d off % p32
  else if off % 8 = 4 && is64 k (off - 4) then reg64 k d (off - 4) / p32
  else reg32 k d off

def window16 (k : Cfg) (d : Dyn) (off : Nat) : Nat :=
  windowWord k d off + windowWord k d (off + 4) * 2 ^ 32 + windowWord k d (off + 8) * 2 ^ 64 + windowWord k d (off + 12) * 2 ^ 96

/-- A return of the launch table (Table 13.22). -/
def Ret.word (r : Ret) : Nat :=
  let head := r.id.c + r.id.dseq.toNat * 2 ^ 32 + r.kind * 2 ^ 64 + r.status.code * 2 ^ 72 + (r.id.r + b2n r.svc * 128) * 2 ^ 80
    + r.op * 2 ^ 88
  if r.kind = 2 then head + r.part * 2 ^ 104 + b2n r.last * 2 ^ 120 + r.data.toNat * 2 ^ 128
  else head + r.mode.toNat * 2 ^ 96 + r.value.toNat * 2 ^ 128 + r.note.toNat * 2 ^ 192 + r.prog.toNat * 2 ^ 256
    + r.stepv.toNat * 2 ^ 320

/-- Bits of a list of bit numbers that lie in the 128 from `lo` on. -/
def bitsOfList (l : List Nat) (lo : Nat) : Nat :=
  listSum ((l.filter (fun i => lo ≤ i && i < lo + 128)).map (fun i => 2 ^ (i - lo)))

/-- The front-end registers (Table 13.21). -/
def feRegs (k : Cfg) (d : Dyn) : Nat :=
  let pend := listSum ((d.fe.ctxs.filter (fun c => c.2.mboxBusy)).map (fun c => 2 ^ c.1))
  k.fwver.toNat + k.ftv.toNat * 2 ^ 32 + pend * 2 ^ 64 + d.fe.entry.toNat * 2 ^ 512

def ltRegs (d : Dyn) : Nat :=
  d.lt.staged.toNat + (reqCap - reqsPosted d) * 2 ^ (8 * 0x44) + ((d.lt.rets.find? (fun r => !r.popped)).map Ret.word).getD 0 * 2 ^ (8 * 0x80)
    + (d.lt.rets.filter (fun r => !r.popped)).length * 2 ^ (8 * 0xC4)

/-- The entry of the oldest occupied record. -/
def oldestRec (d : Dyn) : Nat :=
  ((minBy (fun e => (e.2.record.fseq - d.fs.fseq).toNat) d.fs.recs).map (·.1)).getD 0

def monStatWord (d : Dyn) : Nat := b2n (monCap ≤ d.mn.tx.length) + b2n d.mn.rxOver * 2

def monRxWord (d : Dyn) : Nat :=
  match d.mn.rx with
  | [] => 0
  | c :: _ => c.toNat + 256

/-- 16 bytes of the fault summary's range. -/
def fsRegs (k : Cfg) (d : Dyn) (o : Nat) : Nat :=
  if o < 0x8000 then part16 (roFault d (o / 32)) (o / 16 % 2)
  else if o = 0x8000 then oldestRec d + k.health.code * 2 ^ 64 + d.fs.recs.length * 2 ^ 96
  else if o = 0x8010 then d.fs.fseq.toNat
  else if 0x9000 ≤ o && o < 0x9200 then bitsOfList d.fs.hedgeSite (8 * (o - 0x9000))
  else if 0x9200 ≤ o && o < 0x9400 then bitsOfList d.fs.hedgeEdge (8 * (o - 0x9200))
  else if o = 0xA000 then monRxWord d * 2 ^ 32 + monStatWord d * 2 ^ 64
  else 0

/-- The trace sink's input and read window. -/
def trRegs (d : Dyn) : Nat :=
  d.tr.staged.toNat + d.tr.rdIdx * 2 ^ 512 + ((d.tr.buf.reverse[d.tr.rdIdx]?).map BitVec.toNat).getD 0 * 2 ^ 768

/-- The power controller: PWR_STATE, PWR_FALLOW, then a byte per site u = 144 × region + stub. -/
def pwrRegs (k : Cfg) (d : Dyn) (o : Nat) : Nat :=
  if o = 0 then pwrStat k d * 2 ^ 32 + (if d.pw.cbFallow then max64 else 0) * 2 ^ 64
  else if o < 0x100 then 0
  else listSum ((upFrom 0 16).map (fun i =>
    let u := o - 0x100 + i
    muFallowByte d (256 * (u / 144) + u % 144) * 2 ^ (8 * i)))

/-- 16 bytes of the DCP-side control space (Table 13.20); the core-local registers are the processor's own, and free. -/
def dcp16 (k : Cfg) (d : Dyn) (a : Nat) : RoEntry :=
  let o := a % 0x1000000
  if 0x02000000 ≤ a && a < 0x02010000 then some ((freeW d 0).toNat + (freeW d 1).toNat * p64, .flop)
  else if 0x10000000 ≤ a && a < 0x10050000 then some (if o < 0x10000 then 0 else window16 k d o, .flop)
  else if 0x10050000 ≤ a && a < 0x10051000 then some (bits (feRegs k d) (8 * (o - 0x50000)) 128, .flop)
  else if 0x20000000 ≤ a && a < 0x20001000 then some (bits (ltRegs d) (8 * o) 128, .flop)
  else if 0x21000000 ≤ a && a < 0x21010000 then some (fsRegs k d o, .flop)
  else if 0x22000000 ≤ a && a < 0x22000100 then some (bits (trRegs d) (8 * o) 128, .flop)
  else if 0x23000000 ≤ a && a < 0x23001000 then some (pwrRegs k d o, .flop)
  else if 0x24000000 ≤ a && a < 0x24010000 then some (leAt (k.kept.getD []) o 16, .flop)
  else none

/-! ### READ_OUT -/

/-- The entry at an index of a store (Table 15.5). -/
def roEntry (k : Cfg) (d : Dyn) (store i : Nat) : RoEntry :=
  let upTo (n : Nat) (v : Nat) (kind : RoKind) : RoEntry := if i < n then some (v, kind) else none
  match store with
  | 0x00 => if i < 1048576 then some (roNode d (i / 16384) (i % 16384), .sram) else none
  | 0x01 => upTo 1048576 (listSum ((upFrom 0 4).map (fun j => (tgetD d.gs.edge (4 * i + j) 0).toNat * 2 ^ (32 * j)))) .sram
  | 0x02 => if i < 524288 then some (roDcache d (i / 8) (i % 8), .sram) else none
  | 0x03 => if i < 262144 then some (part16 (roTrace k d (i / 2)) (i % 2), .sram) else none
  | 0x04 => upTo 131072 ((eventValue d (2 * i)).toNat + (eventValue d (2 * i + 1)).toNat * p64) .sram
  | 0x05 => if i < 32768 then some (part16 (roGaz d (i / 2)) (i % 2), .sram) else none
  | 0x06 => upTo 32768 (roDcpRam k d i) .sram
  | 0x10 => roReady k d i
  | 0x11 => roSb k d i
  | 0x12 => upTo 1024 (roSlot d i) .grouped
  | 0x13 => upTo 1024 (roCounts d i) .grouped
  | 0x14 => roParcel k d i
  | 0x15 => roComb d i
  | 0x16 => roSignal k d i
  | 0x17 => roLayer d i
  | 0x18 => upTo 2048 (part16 (roFault d (i / 2)) (i % 2)) .grouped
  | 0x20 => roStub k d (i / 2048) (i % 2048)
  | 0x21 => roEndLog k d i
  | 0x3F => upTo 1 (d.fc.toNat + d.ts.toNat * p64) .flop
  | 0x40 => if i < 32768 then some (window16 k d (16 * i), .flop) else none
  | 0x41 => dcp16 k d (16 * i)
  | _ => none

/-- The response for an entry: DATA, CHECK and RSTAT. Raw data of an uncorrectable word is free, and so are the stored symbols
beside any error. -/
def roAnswer (d : Dyn) (v : Nat) (kind : RoKind) (res : EccResult) : PortOut :=
  let f2 := bits (freeW d 2).toNat 0 24
  let good := if kind == .sram then rsCheck v else f2
  let ro (data check stat : Nat) : PortOut := .readOut (BitVec.ofNat 128 data) (BitVec.ofNat 24 check) stat
  if kind == .flop then ro v 0 0
  else match res with
    | .clean => ro v good 0
    | .corrected _ => ro v f2 1
    | .uncorrectable => ro ((freeW d 3).toNat + (freeW d 4).toNat * p64) f2 2

/-- READ_OUT: refused unless frozen, and for a STORE or INDEX that is not assigned; it writes nothing (R426). -/
def readOut (store index : Nat) (res : EccResult) (b : Block) : Block :=
  if b.cfg.inReset then b
  else
    let refused : PortOut := .readOut 0 0 3
    if !b.cfg.frozen then { b with d := out b.d refused }
    else match roEntry b.cfg b.d store index with
      | none => { b with d := out b.d refused }
      | some e => { b with d := out (useFree b.d 5) (roAnswer b.d e.1 e.2 res) }

end Sys2Proof.Machine
end

