-- ==== Sys2Proof/Machine/Dcp.lean ====
section
/-! DEFINITION. The DCP-side control space (R386 to R389, Tables 13.20 and 13.21): REGISTER_WRITE and REGISTER_READ of the DCP. An access to an
address that the tables do not assign raises the access fault and does nothing else. -/
namespace Sys2Proof.Machine

/-! ### Assigned addresses -/

/-- An offset of a context page that Table 13.16 assigns. -/
def pageAssigned (o : Nat) : Bool :=
  o < 0x004 || (0x008 ≤ o && o < 0x01C) || (0x020 ≤ o && o < 0x02C) || (0x030 ≤ o && o < 0x03C) || (0x040 ≤ o && o < 0x048)
    || (0x080 ≤ o && o < 0x100) || (0x100 ≤ o && o < 0x280 && (o % 0x40) < 0x1C)

/-- An offset from the base of its range that Table 13.21 assigns. -/
def feAssigned (o : Nat) : Bool := o < 0x014 || (0x040 ≤ o && o < 0x080)
def ltAssigned (o : Nat) : Bool := o < 0x048 || (0x080 ≤ o && o < 0x0C8)
def fsAssigned (o : Nat) : Bool := o < 0x8014 || (0x9000 ≤ o && o < 0x9400) || (0xA000 ≤ o && o < 0xA00C)
def trAssigned (o : Nat) : Bool := o < 0x24 || (0x40 ≤ o && o < 0x44) || (0x60 ≤ o && o < 0x80)
def pwrAssigned (o : Nat) : Bool := o < 0x10 || (0x100 ≤ o && o < 0x100 + 144 * 16)

def sramBytes : Nat := 0x80000
def sysBase : Nat := 0x100000000

/-- A byte address that Table 13.20 gives something to (R386). -/
def dcpAssigned (a : Nat) : Bool :=
  let o := a % 0x1000000
  if a < sramBytes then true
  else if 0x02000000 ≤ a && a < 0x02010000 then true
  else if 0x10010000 ≤ a && a < 0x10050000 then pageAssigned (a % 0x1000)
  else if 0x10050000 ≤ a && a < 0x10051000 then feAssigned (o - 0x50000)
  else if 0x20000000 ≤ a && a < 0x20001000 then ltAssigned o
  else if 0x21000000 ≤ a && a < 0x21010000 then fsAssigned o
  else if 0x22000000 ≤ a && a < 0x22000100 then trAssigned o
  else if 0x23000000 ≤ a && a < 0x23001000 then pwrAssigned o
  else if 0x24000000 ≤ a && a < 0x24010000 then true
  else sysBase ≤ a && a < sysBase + 0xFFFF00000000

/-- A naturally aligned access of 1, 2, 4 or 8 bytes, all of them assigned (log 95: DESIGN CHOICE). -/
def dcpReaches (a n : Nat) : Bool := [1, 2, 4, 8].contains n && a % n = 0 && (upFrom a n).all dcpAssigned

/-! ### Reads -/

/-- The value of `n` bytes at an address of the control space; a read of the monitor's receive register removes its character. -/
def dcpValue (k : Cfg) (d : Dyn) (a n : Nat) : Nat :=
  if a < sramBytes then listSum ((upFrom 0 n).map (fun i => ramByte d (a + i) * 2 ^ (8 * i)))
  else match dcp16 k d (a / 16 * 16) with
    | some v => bits v.1 (8 * (a % 16)) (8 * n)
    | none => 0

/-- REGISTER_READ of the DCP. A system address is read through the memory port (Table 13.20); its data is the answer when it comes. -/
def dcpReadReg (a n : Nat) (b : Block) : Block :=
  let d := b.d
  if !dcpReaches a n then { b with d := out d .dcpFault }
  else if sysBase ≤ a then { b with d := busReadOn .memory d (a - sysBase) n .dcp }
  else
    let v := w64 (dcpValue b.cfg d a n)
    let d := if a = 0x2100A004 then { d with mn := { d.mn with rx := d.mn.rx.tail } } else d
    { b with d := out (useFree d sramBytes) (.dcpData v) }

/-! ### Writes -/

/-- The bits [lo + n - 1 : lo] of a staging register take a value. -/
def stage (w lo n v : Nat) : Nat := setBits w lo n v

/-- CTX_STAT written by the firmware: OPEN and REV, while it answers OPEN or CLOSE (R383, R387). -/
def fwCtxStat (c v : Nat) (d : Dyn) : Dyn :=
  let x := getCtx d c
  let opens := bit v 0
  if !x.mboxTaken || !(x.msg = 1 || x.msg = 2) then d
  else
    let y := if opens = x.isOpen then x else pageReset x
    let d := setCtx d c { y with isOpen := opens, rev := bits v 2 2, irq := if opens && !x.isOpen then 0 else x.irq }
    { d with fe := { d.fe with opened := d.fe.opened || opens } }

/-- A 32-bit firmware write to a context page: CTX_MBOX_OUT, CTX_MBOX_STAT.REPLY, and CTX_STAT; every other one is ignored (R387). -/
def fwPageWrite (c o v : Nat) (d : Dyn) : Dyn :=
  let x := getCtx d c
  if 0x0C0 ≤ o && o < 0x100 then setCtx d c { x with mboxOut := tset x.mboxOut ((o - 0x0C0) / 4) (w32 v) 0 }
  else if o = 0x044 && bit v 0 then
    out (setCtx d c { x with mboxReply := true, mboxBusy := false, mboxTaken := false }) (.msix (irqVector x))
  else if o = 0x000 then fwCtxStat c v d
  else d

/-- A 32-bit write of a front-end register. FE_FWVER completes boot in phase 5; both versions are writable until the first context opens. -/
def feWrite (o v : Nat) (b : Block) : Block :=
  let k := b.cfg
  if o = 0 then
    if k.phase == .p5 then bootComplete k.ftv (w32 v) b
    else if b.d.fe.opened then b else { b with cfg := { k with fwver := w32 v } }
  else if o = 4 then (if b.d.fe.opened then b else { b with cfg := { k with ftv := BitVec.ofNat 16 v } })
  else if o = 0x10 then (if k.serving && v < 64 then onD b (fePost v b.d.fe.entry) else b)
  else if 0x40 ≤ o then
    { b with d := { b.d with fe := { b.d.fe with entry := BitVec.ofNat 512 (stage b.d.fe.entry.toNat (8 * (o - 0x40)) 32 v) } } }
  else b

/-- A 32-bit write of the launch table's port. -/
def ltWrite (o v : Nat) (b : Block) : Block :=
  if o < 0x40 then { b with d := { b.d with lt := { b.d.lt with staged := BitVec.ofNat 512 (stage b.d.lt.staged.toNat (8 * o) 32 v) } } }
  else if !b.cfg.serving || !bit v 0 then b
  else if o = 0x40 then onD b (ltReqPost b.d.lt.staged)
  else if o = 0xC0 then onD b ltRetPop
  else b

/-- A 32-bit write of the fault summary's range: FS_FREE, FS_HEALTH, the hedges and MON_TX. -/
def fsWrite (o v : Nat) (b : Block) : Block :=
  if o = 0x8004 then onD b (fsFree v)
  else if o = 0x8008 then fsHealthWrite (w32 v) b
  else if 0x9000 ≤ o && o < 0x9400 then
    if !b.cfg.serving then b
    else (upFrom 0 32).foldl (fun b i => onD b (hedgeWrite (0x9200 ≤ o) (8 * (o % 0x200) + i) (bit v i))) b
  else if o = 0xA000 then onD b (monTx (BitVec.ofNat 8 v))
  else b

/-- A 32-bit write of the trace sink's window. -/
def trWrite (o v : Nat) (b : Block) : Block :=
  let tr := b.d.tr
  if o < 0x20 then { b with d := { b.d with tr := { tr with staged := w256 (stage tr.staged.toNat (8 * o) 32 v) } } }
  else if o = 0x20 then (if bit v 0 then onD b (trPost tr.staged) else b)
  else if o = 0x40 then { b with d := { b.d with tr := { tr with rdIdx := v % 2 ^ 17 } } }
  else b

/-- A 32-bit write at an assigned address; read-only registers ignore it, and so do the core's own registers, of which the spec gives no
layout (log 95: DESIGN CHOICE). -/
def dcpWrite32 (a v : Nat) (b : Block) : Block :=
  let o := a % 0x1000000
  if a < 0x10010000 then b
  else if a < 0x10050000 then onD b (fun _ d => fwPageWrite (pageOf o) (inPage o) v d)
  else if a < 0x10051000 then feWrite (o - 0x50000) v b
  else if a < 0x21000000 then ltWrite o v b
  else if a < 0x22000000 then fsWrite o v b
  else if a < 0x23000000 then trWrite o v b
  else if a < 0x24000000 then (if o = 0 then pwrReq (w32 v) b else b)
  else b

/-- REGISTER_WRITE of the DCP: bytes of the local SRAM, a system address through the memory port, or registers, which take 4 bytes at a time. -/
def dcpWriteReg (a n : Nat) (v : W64) (b : Block) : Block :=
  if !dcpReaches a n then { b with d := out b.d .dcpFault }
  else if sysBase ≤ a then { b with d := busWriteOn .memory b.d (a - sysBase) (leBytes n v.toNat) .dcp }
  else if a < sramBytes then
    { b with d := { b.d with ram := ((upFrom a n).zip (leBytes n v.toNat)).foldl (fun t x => tput t x.1 x.2) b.d.ram } }
  else if n = 4 then dcpWrite32 a (v.toNat % p32) b
  else if n = 8 then dcpWrite32 (a + 4) (v.toNat / p32) (dcpWrite32 a (v.toNat % p32) b)
  else b

/-- The data of a DCP read of memory has come. -/
def dcpReturned (d : Dyn) (j : RdJob) : Dyn :=
  let d := { d with bus := { d.bus with reads := d.bus.reads.filter (fun x => !(x.port = j.port && x.tag = j.tag)) } }
  out d (if j.err then .dcpFault else .dcpData (w64 (leNat (j.data.getD []))))

end Sys2Proof.Machine
end

