-- ==== Sys2Proof/Machine/Responses.lean ====
section
/-! DEFINITION. What comes back at the memory and host bridge ports (R338, R440 to R442, R456; log 8: DESIGN CHOICE): MEMORY_READ_RESPONSE, WRITE_ACK,
TILE_BLOCK_ACK. -/
namespace Sys2Proof.Machine

/-! ### Reads -/

/-- The context, launch slot and node that a read was made for. -/
def RdUse.owner (d : Dyn) (u : RdUse) : Option Nat × Option Nat × Option Nat :=
  let ofGraph (g : Nat) : Option Nat :=
    (tget d.gs.graphs g).bind (fun x => ((x.load.map (·.id.c)).or (x.patch.map (·.id.c))))
  let ofSlot (s : Nat) : Option Nat := (tget d.ls.slots s).map (·.id.c)
  match u with
  | .graphHdr g => (ofGraph g, none, none)
  | .graphBody g => (ofGraph g, none, none)
  | .patchHdr g => (ofGraph g, none, none)
  | .patchBody g => (ofGraph g, none, none)
  | .table id => (some id.c, none, none)
  | .svcBlock id => (some id.c, none, none)
  | .ringFetch c _ => (some c, none, none)
  | .chainBases s => (ofSlot s, some s, none)
  | .statBlock s g => (ofSlot s, some s, some g)
  | .descFill _ => (none, none, none)
  | .dcp => (none, none, none)
  | .fwImage => (none, none, none)
  | .mapLine _ line => (some (line / 4096), none, none)
  | .gazLine _ _ _ => (none, none, none)

/-- The record of an error response: against the port; its DETAIL is free, since the port is no store with a word index
(R338, Table 12.4; log 8: DESIGN CHOICE). -/
def responseRec (d : Dyn) (j : RdJob) : FRec :=
  let o := j.use.owner d
  { frec 0x01 .eccUncorr (8 * 4096 + (if j.port = .memory then 1 else 0)) with
    ctx := o.1, launch := o.2.1, node := o.2.2, detail := freeW d 0 }

/-- What takes the data of a read at once; every other use keeps it until its own row. -/
def readReturned (k : Cfg) (d : Dyn) (j : RdJob) : Dyn :=
  match j.use with
  | .chainBases slot => basesRead k d slot j
  | .descFill off => dcFilled k d off j.err
  | .dcp => dcpReturned d j
  | .mapLine evt line => mapReturned k d evt line j
  | .gazLine n lo hi => gazReturned k d j n lo hi
  | .graphHdr gid => imageLines k d gid false j
  | .graphBody gid => imageLines k d gid false j
  | .patchHdr gid => imageLines k d gid true j
  | .patchBody gid => imageLines k d gid true j
  | .ringFetch c r => if j.err then fetchFailed d c else fetchReturned d c r (j.data.getD [])
  | _ => d

/-- MEMORY_READ_RESPONSE: the data of a read presented with this tag, or an error response. An error response waits, with what its read
was for, while no record can enter (Table 12.12). -/
def memoryReadResponse (port : Port) (tag : Nat) (data : List Byte) (err : Bool) (k : Cfg) (d : Dyn) : Dyn :=
  match d.bus.reads.find? (fun j => j.port = port && j.tag = tag && j.shown && j.data.isNone) with
  | none => d
  | some j =>
    if (!err && data.length ≠ j.len) || (err && summaryFull d) then d
    else
      let j' := { j with data := some data, err := err }
      let d' := { d with bus := { d.bus with reads := mapIf (fun x => x = j) (fun _ => j') d.bus.reads } }
      let d' := if err then fault k (useFree d' 1) (responseRec d' j) else d'
      readReturned k d' j'

/-- DESCRIPTOR_FILL: the line that a read of the descriptor store fills (R99). -/
def descriptorFill (off : Nat) (err : Bool) (k : Cfg) (d : Dyn) : Dyn :=
  match d.bus.reads.find? (fun j => j.use = .descFill off && j.shown) with
  | none => d
  | some j =>
    if err && summaryFull d then d
    else dcFilled k (if err then fault k (useFree d 1) (responseRec d j) else d) off err

/-! ### Writes -/

/-- The body of a synthesised packet is in memory: its notice may rise (R131). -/
def bodyWritten (d : Dyn) (leaf task : Nat) : Dyn :=
  modEng d leaf (fun e => { e with pkts := mapIf (fun p => p.task = task) (fun p => { p with bodyWait := false }) e.pkts })

/-- What an acknowledged write does; its job is gone from the port already. -/
def writeDone (k : Cfg) (d : Dyn) (j : WrJob) (err : Bool) : Dyn :=
  match j.use with
  | .completion c idx qual record => entryAcked d c idx qual record
  | .result q tag => resultWritten k d q tag
  | .selRow slot chan => selRowAck k d slot chan
  | .tile slot chan t => tileBlockAck slot chan t d
  | .batchTab => if k.fwRuns then svcTryEnd k (batchWritten d) else d
  | .svcResult idx => svcResultAck k d idx
  | .statRow slot g => statRowAck d slot g err
  | .spill n => spillAck d n
  | .replay n => replayAck d n
  | .synthBody leaf task => bodyWritten d leaf task
  | .gazEntry _ => d
  | .map => d
  | .dcp => d

/-- A job leaves the port, what it was for goes on, and reads that it held back are presented. -/
def writeAcked (k : Cfg) (d : Dyn) (j : WrJob) (err : Bool) : Dyn :=
  showReads (writeDone k { d with bus := { d.bus with writes := dropFirst (fun w => w = j) d.bus.writes } } j err)

/-- WRITE_ACK. An error response is no acknowledgement: the write stays out, but for the row of a STAT, which fails (log 8: DESIGN CHOICE). -/
def writeAck (port : Port) (tag : Nat) (err : Bool) (k : Cfg) (d : Dyn) : Dyn :=
  match d.bus.writes.find? (fun j => j.port = port && j.tag = tag) with
  | none => d
  | some j =>
    if !err then writeAcked k d j false
    else match j.use with
      | .statRow _ _ => writeAcked k d j true
      | _ => d

/-- TILE_BLOCK_ACK: the acknowledgement of a tile's block write. -/
def tileWritten (slot chan j : Nat) (k : Cfg) (d : Dyn) : Dyn :=
  match d.bus.writes.find? (fun w => w.use = .tile slot chan j) with
  | none => d
  | some w => writeAcked k d w false

end Sys2Proof.Machine
end

