-- ==== Sys2Proof/Machine/Tick.lean ====
section
/-! DEFINITION. One dispatch cycle, which is what a step does when no command waits (log 2: DESIGN CHOICE): FC, the timestamp, the counters of cycles
and the silence of engines (R86, R92, R165, R197, R243, R328, R346, R375, R376, R378, R414, R416). -/
namespace Sys2Proof.Machine

/-! ### Counters of cycles -/

/-- A bank's input queue is full (R72). -/
def bankFull (d : Dyn) (b : Nat) : Bool := 16 ≤ (bankQueue d b).length

/-- READY_BP, BANK_SKEW and the tallies of BANK_HOT. -/
def tickBanks (d : Dyn) : Dyn :=
  let full := (upFrom 0 64).filter (bankFull d)
  let empty := ((upFrom 0 64).filter (fun b => (bankQueue d b).isEmpty)).length
  let d := if d.nb.outbox.any (fun o => 16 ≤ o.2.length) then count d cReadyBp 1 else d
  let d := if !full.isEmpty && 48 ≤ empty then count d cBankSkew 1 else d
  full.foldl (fun d b => { d with bankTally := tset d.bankTally b (tgetD d.bankTally b 0 + 1) 0 }) d

/-- A port of a route-table entry is full while at least half of the entry's other ports are idle (R197); a port is idle with no
frame unconfirmed, and an entry's only port counts when it is full (log 106: DESIGN CHOICE). -/
def linkSkewed (d : Dyn) (mask : Nat) : Bool :=
  let ps := ones 32 mask
  let idle (p : Nat) : Bool := (getLink d p).unconf.isEmpty
  ps.any (fun p => 64 ≤ (getLink d p).unconf.length
    && ps.length - 1 ≤ 2 * ((ps.filter (fun q => q ≠ p && idle q)).length))

/-- A closed tile of a COLD expert finds no staging slot (R243). -/
def stageWaits (k : Cfg) (d : Dyn) : Bool :=
  (stageChoice k d).isNone && d.rt.routes.any (fun r => r.tiles.any (fun t =>
    t.st == .waiting && gTier (gazEntry d (lGbase r.e + t.expert)) = 1))

/-- A ring's entry or snapshot waits for room in the replay buffer. -/
def ringWaits (k : Cfg) (d : Dyn) (c r : Nat) : Bool :=
  let g := getRing d c r
  match g.fetch with
  | some f => !f.left.isEmpty && mayTake d c r && !rpRoom d (if g.gen then 3 else 2) false
  | none => k.fetches && ringCandidate d c r && g.atSnap && (g.tail ≠ g.head || g.pendingDb) && !rpRoom d 1 false

/-- An input whose record the replay buffer cannot take waits: a ring's entry or snapshot, a message, a cancellation, a service request or its
snapshot, a step boundary (R328). -/
def replayWaits (k : Cfg) (d : Dyn) : Bool :=
  d.fe.ctxs.any (fun c => c.2.rings.any (fun r => ringWaits k d c.1 r.1) || (c.2.mboxBusy && !c.2.mboxTaken && !rpRoom d 3 false))
    || d.held.any (waitsReplay d)
    || (d.sv.snapDue && !rpRoom d 1 false)
    || (d.sv.run && d.sv.reqHead ≠ d.sv.reqSnap && d.sv.window.length < windowCap && (d.sv.stopping.isNone || d.sv.idle)
      && !rpRoom d 3 false)
    || (d.sv.atBoundary && d.sv.results.isEmpty && !rpRoom d 1 false)

def countIf (b : Bool) (off : Nat) (d : Dyn) : Dyn := if b then count d off 1 else d

/-- LINK_SKEW, STAGE_WAIT and REPLAY_WAIT. -/
def tickWaits (k : Cfg) (d : Dyn) : Dyn :=
  let skew := d.tk.routes.any (fun r => r.1 ≠ k.boot.chipId && linkSkewed d r.2.toNat)
  countIf (replayWaits k d) cReplayWait (countIf (stageWaits k d) cStageWait (countIf skew cLinkSkew d))

/-- An engine that holds taken packets: REG_BUSY of its region, BUSY of each launch it holds a packet of, and its silence. -/
def tickEngine (d : Dyn) (e : Nat × Engine) : Dyn :=
  if !e.2.holdsTaken then d
  else
    let slots := ((e.2.pkts.filter (·.taken)).map (·.slot)).eraseDups
    let d := count d (cRegBusy (leafRegion e.1)) 1
    let d := slots.foldl (fun d s => addCount d s (fun c => { c with busy := min (2 ^ 48 - 1) (c.busy + 1) })) d
    modEng d e.1 (fun x => { x with silence := x.silence + 1 })

/-! ### The cycle -/

/-- The sampled timestamp advances by at most 2; a timestamp whose record waits holds its value (Table 12.12). -/
def tickTs (d : Dyn) : Dyn :=
  if tsHeld d then d else { d with ts := d.ts + w64 (min 2 (Config.tsStep d.ts d.fc).toNat) }

/-- The stub writes the next beat of a port's oldest packet that is not whole, from 7 cycles after its commit on (R126, Table 4.4): the word collects
in the assembly register. -/
def writeBeat (k : Cfg) (d : Dyn) (e : Nat × Engine) : Dyn :=
  match e.2.pkts.find? (fun p => p.beats < 4 * p.words.length) with
  | none => d
  | some p =>
    if (d.fc - p.sent).toNat < 7 then d
    else
      let n := if k.isWp2 e.1 then 32 else 64
      let i := n * (p.beats % 4)
      let asm := setBits e.2.asm.toNat i n (bits (p.words.getD (p.beats / 4) 0).toNat i n)
      modEng d e.1 (fun x => { x with asm := w256 asm, pkts := mapFirst (fun q => q = p) (fun q => { q with beats := q.beats + 1 }) x.pkts })

/-- The watches test their entries in every cycle of their island, also in DOZE (R153, R160). -/
def tickWatches (d : Dyn) : Dyn := watchTest { d with ch := { d.ch with clock := d.ch.clock + 1 } }

/-- One cycle: nothing in reset or while frozen, the power controller's island alone in DOZE. -/
def tick (b : Block) : Block :=
  let k := b.cfg
  if k.inReset || k.frozen then b
  else if k.doze ≠ .awake then { b with d := tickTs (tickWatches b.d) }
  else
    let d := if k.serving then b.d.en.foldl (writeBeat k) (b.d.en.foldl tickEngine (tickWaits k (tickBanks b.d))) else b.d
    let d := tickTs (tickWatches d)
    { b with d := { d with fc := d.fc + 1 } }

end Sys2Proof.Machine
end

