-- ==== Sys2Proof/Machine/Ecc.lean ====
section
/-! DEFINITION. Errors that the storage check finds in the words a command reads (R335, R337 to R339, Tables 12.2 to 12.4). The command names
the words in error (log 12: DESIGN CHOICE); each has its outcome before the command's own effect. -/
namespace Sys2Proof.Machine

/-- The store of a word, as ECC_CE and ECC_UE number it (Table 13.10). -/
def storeNo : Stored → Nat
  | .node _ => 0
  | .edge _ => 1
  | .descriptor _ => 2
  | .trace _ => 3
  | .event _ => 4
  | .gaz _ => 5
  | .sram _ => 6
  | _ => 7

/-- The part that holds a word (Table 12.3). -/
def storeUnit (d : Dyn) : Stored → Nat
  | .node g =>
    match rowOwner d g with
    | some s => bankUnit (nodeBank d s g)
    | none => bankUnit 0
  | .edge e => 3 * 4096 + e / 8 % 64
  | .descriptor _ => rootUnit 3
  | .trace _ => rootUnit 9
  | .event _ => rootUnit 7
  | .gaz _ => rootUnit 10
  | .entry u _ => u
  | .token l _ _ => unitOf l
  | .signal _ => rootUnit 7
  | .creg _ => rootUnit 7
  | .tag _ _ => rootUnit 4
  | .ring _ => 6 * 4096 + 1
  | .mapLine _ _ => rootUnit 7
  | .sram _ => 6 * 4096

/-- The place of a gazetteer cache entry, as the read-out numbers it (Table 15.5). -/
def gazPlace (d : Dyn) (idx : Nat) : Nat :=
  4 * (idx % 4096) + ((d.rt.gcache.filter (fun x => x.1 % 4096 = idx % 4096)).findIdx? (fun x => x.1 = idx)).getD 0

/-- The word index in its store: the bank's row and the slice's word, and in the other stores the read-out's INDEX of the word (Tables 15.5 and
15.6), or of its first; free where the tables give the store no index (log 12: DESIGN CHOICE). -/
def storeIndex (d : Dyn) : Stored → W64
  | .node g => w64 (g / 64)
  | .edge e => w64 (2 * (e / 512) + e / 4 % 2)
  | .descriptor off => w64 (8 * dcLineNo d off)
  | .trace e => w64 (2 * e)
  | .event ev => w64 (ev / 2)
  | .gaz idx => w64 (2 * gazPlace d idx)
  | .sram a => w64 a
  | .token l q e => w64 (2048 * (l / 16) + 24 * q + 3 * e)
  | .signal i => w64 i
  | .creg i => w64 (8192 + 2 * i)
  | _ => freeW d 0

/-- The record of an uncorrectable word. -/
def hitRec (d : Dyn) (w : Stored) : FRec := { frec 0x01 .eccUncorr (storeUnit d w) with detail := storeIndex d w }

/-- A record of the trace buffer is replaced by a loss (R20). -/
def traceReplaced (k : Cfg) (d : Dyn) (e : Nat) : Dyn :=
  match d.tr.buf[e]? with
  | none => d
  | some w =>
    let first := if d.tr.dropped = 0 then w.setWidth 64 else d.tr.firstTs
    traceLoss k (count { d with tr := { d.tr with buf := d.tr.buf.eraseIdx e, dropped := d.tr.dropped + 1, firstTs := first } }
      cTraceLost 1)

/-- A gazetteer cache entry: one in use fails every ROUTE with a tile or fetch of its expert; the entry is read again. -/
def gazLost (k : Cfg) (d : Dyn) (idx : Nat) : Dyn :=
  let used (r : Route) : Bool :=
    r.tiles.any (fun t => lGbase r.e + t.expert = idx) || d.rt.fetchWait.any (fun f => f = (r.slot, r.chan, idx))
      || d.dp.tasks.any (fun t => t.slot = r.slot && !t.ended && (match t.kind with
        | .fetch c i => c = r.chan && i = idx
        | .tile c _ i => c = r.chan && i = idx
        | .node => false))
  let d := (d.rt.routes.filter used).foldl (fun d r => routeFail k d r.slot r.chan .eccUncorr) d
  match gazOf d idx with
  | some x => if x.inUse then d else gazRead k { d with rt := { d.rt with gcache := tdel d.rt.gcache idx } } idx
  | none => d

/-- A token of a receive queue is discarded, and the launch that owns the queue fails. -/
def tokenLost (d : Dyn) (l q e : Nat) : Dyn :=
  let x := getQ d (qKey l q)
  if x.toks.length ≤ e then d
  else failLaunch (count (setQ d (qKey l q) { x with toks := x.toks.eraseIdx e }) cTokDisc 1) x.slot .eccUncorr

/-- An accumulator: its tag closes with ECC_UNCORR; one that has closed and still holds its result has that status from now on. -/
def tagLost (k : Cfg) (d : Dyn) (q t : Nat) : Dyn :=
  let before := d.cb.tags.filter (fun x => x.st == .closed)
  let hit (x : Tag) : Bool := x.q = q && x.tag = t && (x.st == .opened || x.st == .closed || x.st == .held)
  let tags := mapIf hit (fun x => { x with st := .closed, status := .eccUncorr }) d.cb.tags
  closeTags k { d with cb := { d.cb with tags := tags } } (before.filter (fun x => !hit x))

/-- Table 12.4. -/
def wordLost (k : Cfg) (d : Dyn) (w : Stored) : Dyn :=
  match w with
  | .node g =>
    match rowOwner d g with
    | some s => failLaunch d s .eccUncorr
    | none => d
  | .edge e => scrubLost d true (e / 8 % 64) (2 * (e / 512) + e / 4 % 2)
  | .descriptor off =>
    if dcHit d off then dcFill k (dcPut d off ((dcLines d off).filter (fun x => x.2.1 ≠ off / 128))) off else d
  | .trace e => traceReplaced k d e
  | .event ev => waitsCheck { d with sg := { d.sg with evEcc := if d.sg.evEcc.contains ev then d.sg.evEcc else d.sg.evEcc ++ [ev] } }
  | .gaz idx => gazLost k d idx
  | .entry _ slot => failLaunch d slot .eccUncorr
  | .token l q e => tokenLost d l q e
  | .signal i => serveSig (setSig d i { getSig d i with ecc := true }) i
  | .creg i => serveCr (setCr d i { getCr d i with ecc := true }) i
  | .tag q t => tagLost k d q t
  | .ring c => fetchFailed d c
  | .mapLine evt line => mapLost d evt line
  | .sram _ => d

/-- One word read: a corrected error is counted; an uncorrectable one has its outcome, and its record follows (R337, R338). -/
def readHit (k : Cfg) (d : Dyn) (h : Hit) : Dyn :=
  match h.res with
  | .clean => d
  | .corrected _ => count d (cEccCe (storeNo h.word)) 1
  | .uncorrectable =>
    let r := hitRec d h.word
    fault k (settleAll (wordLost k (useFree (count d (cEccUe (storeNo h.word)) 1) 1) h.word)) r

/-- Faults of one cycle are recorded in the order of their planes, then of their units (R19). -/
def hitOrder (d : Dyn) (a b : Hit) : Bool :=
  let x := storeUnit d a.word
  let y := storeUnit d b.word
  planeOf x * 65536 + x ≤ planeOf y * 65536 + y

/-- The words that a command reads, then its own effect. It waits as a whole while the record of one of them cannot enter
(Table 12.12). -/
def withHits (reads : Stored → Bool) (hits : List Hit) (f : Cfg → Dyn → Dyn) (k : Cfg) (d : Dyn) : Dyn :=
  let hs := isort (hitOrder d) (hits.filter (fun h => reads h.word))
  if hs.any (fun h => h.res == .uncorrectable) && summaryFull d then d else f k (hs.foldl (readHit k) d)

/-! ### The DCP's local SRAM -/

/-- A word of the local SRAM that the read meets: a corrected error is counted; an uncorrectable one is counted and recorded, and acts as a lockstep
mismatch (R337, R338, Table 12.4). -/
def sramHit (b : Block) (h : Hit) : Block :=
  match h.res with
  | .clean => b
  | .corrected _ => onD b (fun _ d => count d (cEccCe 6) 1)
  | .uncorrectable => haltDcp (onD b (fun k d => fault k (count d (cEccUe 6) 1) (hitRec d h.word)))

/-- The words of the local SRAM in error, then the read. It waits while the record of one of them cannot enter (Table 12.12); a halted DCP reads
nothing. -/
def dcpRead (a n : Nat) (hits : List Hit) (b : Block) : Block :=
  let hs := hits.filter (fun h => h.word = .sram (a / 16) && a < sramBytes)
  if hs.any (fun h => h.res == .uncorrectable) && summaryFull b.d then b
  else
    let b := hs.foldl sramHit b
    if b.cfg.dcpHalted then b else dcpReadReg a n b

/-! ### What each kind of command reads -/

def Stored.isNode : Stored → Bool
  | .node _ => true
  | _ => false

def Stored.isWalk : Stored → Bool
  | .edge _ => true
  | .entry _ _ => true
  | _ => false

def Stored.isDispatch : Stored → Bool
  | .descriptor _ => true
  | .entry _ _ => true
  | _ => false

def Stored.isEvent : Stored → Bool
  | .event _ => true
  | .mapLine evt _ => evt
  | _ => false

def Stored.isSignal : Stored → Bool
  | .signal _ => true
  | .mapLine evt _ => !evt
  | _ => false

def Stored.isCreg : Stored → Bool
  | .creg _ => true
  | _ => false

def Stored.isTag : Stored → Bool
  | .tag _ _ => true
  | _ => false

def Stored.isGaz : Stored → Bool
  | .gaz _ => true
  | _ => false

def Stored.isToken : Stored → Bool
  | .token _ _ _ => true
  | _ => false

def Stored.isRing : Stored → Bool
  | .ring _ => true
  | _ => false

def Stored.isSram : Stored → Bool
  | .sram _ => true
  | _ => false

def Stored.isTrace : Stored → Bool
  | .trace _ => true
  | _ => false

end Sys2Proof.Machine
end

