-- ==== Sys2Proof/Machine/Gates.lean ====
section
/-! DEFINITION. The gates through which the commands of a running block pass: what must hold of resets, clocks, boot and the firmware for
a command to have its effect (R14, R391, R399, R400, R405, R423; log 5: DESIGN CHOICE). -/
namespace Sys2Proof.Machine

/-- A command of the data plane or the front end. -/
def runSrvBlock (f : Block → Block) (s : State) : Res := runBlock (fun b => if b.cfg.serving then tidy (f b) else b) s

def runSrv (f : Cfg → Dyn → Dyn) (s : State) : Res := runSrvBlock (fun b => onD b f) s

/-- A command of a duplicated part: while a record of a mismatch of its copies waits, the part holds its output and takes no new input (R341, Table
12.12). -/
def runPart (unit : Nat) (f : Cfg → Dyn → Dyn) (s : State) : Res :=
  runSrv (fun k d => if unitWaits d 0x03 unit then d else f k d) s

/-- A command of the running firmware that acts on the served planes. -/
def runSrvFwBlock (f : Block → Block) (s : State) : Res := runSrvBlock (fun b => if b.cfg.fwRuns then f b else b) s

def runSrvFw (f : Cfg → Dyn → Dyn) (s : State) : Res := runSrvFwBlock (fun b => onD b f) s

/-- A command that the management clock serves also in DOZE. -/
def runAwakeOrNot (f : Block → Block) (s : State) : Res :=
  runBlock (fun b => if b.cfg.mgtRuns && b.cfg.phase == .booted then f b else b) s

/-- The number of watch entries found reached. -/
def foundCount (d : Dyn) : Nat :=
  (d.ch.release.filter (fun w => w.found.isSome)).length + (d.ch.sect.filter (fun w => w.found.isSome)).length
    + (d.ch.expiry.filter (fun w => w.found.isSome)).length + (d.ch.admission.filter (fun w => w.found.isSome)).length

/-- CHAIN_ADVANCE, accepted in DOZE too; a watch that finds an entry reached then is a wake source (R160, R406). -/
def advance (s : Nat) (n : W16) (b : Block) : Block :=
  let d := chainAdvance s n b.cfg b.d
  if b.cfg.asleep && foundCount b.d < foundCount d then wake { b with d := d } else { b with d := d }

end Sys2Proof.Machine
end

