-- ==== Sys2Proof/Machine/ExecBoot.lean ====
section
/-! DEFINITION. Boot, the management port, resets, freeze and power: what each command does, by its gate and its meaning. -/
namespace Sys2Proof.Machine

/-- BOOT_COMPLETE (R400). -/
def execBootComplete (ftv : W16) (fwver : W32) (s : State) : Res := runBlock (bootComplete ftv fwver) s

/-- MGT_BOOT_START (R447). -/
def execMgtBootStart (s : State) : Res := runBlock mgtBootStart s

/-- MGT_BOOT_DATA (R447). -/
def execMgtBootData (w : W32) (s : State) : Res := runBlock (mgtBootData w) s

/-- BOOT_BLOCK_TIMEOUT (R447). -/
def execBootBlockTimeout (s : State) : Res := runBlock bootBlockTimeout s

/-- BOOT_INIT_DONE (R399). -/
def execBootInitDone (s : State) : Res := runBlock bootInitDone s

/-- POST (R401). -/
def execPost (ok : Bool) (unit : Nat) (s : State) : Res := runBlock (post ok unit) s

/-- FW_IMAGE_READ (R448). -/
def execFwImageRead (bytes : List Byte) (err : Bool) (s : State) : Res := runBlock (fwImageRead bytes err) s

/-- FW_VERIFY_RESULT (R402). -/
def execFwVerifyResult (ok : Bool) (s : State) : Res := runBlock (fwVerifyResult ok) s

/-- FW_START_TIMEOUT (R403). -/
def execFwStartTimeout (s : State) : Res := runBlock fwStartTimeout s

/-- MGT_TIME_WRITE (R398). -/
def execMgtTimeWrite (lo hi : W32) (s : State) : Res := runMgt (mgtTimeWrite lo hi) s

/-- MGT_SIG_DATA_READ (R447). -/
def execMgtSigDataRead (s : State) : Res := runMgt mgtSigDataRead s

/-- MGT_SIG_ACK (R447). -/
def execMgtSigAck (s : State) : Res := runMgt mgtSigAck s

/-- MGT_DRAIN (R355). -/
def execMgtDrain (s : State) : Res := runMgt (fun b => orElseWake none b mgtDrain) s

/-- MGT_QUICK_SURVEY (R359). -/
def execMgtQuickSurvey (s : State) : Res := runMgt (fun b => orElseWake (some false) b (mgtSurvey false)) s

/-- MGT_FULL_SURVEY (R359). -/
def execMgtFullSurvey (s : State) : Res := runMgt (fun b => orElseWake (some true) b (mgtSurvey true)) s

/-- MGT_WAKE (R406). -/
def execMgtWake (s : State) : Res := runAwakeOrNot dozeWakeSource s

/-- MGT_STATUS_READ (R447). -/
def execMgtStatusRead (health : Bool) (s : State) : Res := runMgt (mgtStatusRead health) s

/-- POR (R391). -/
def execPor (s : State) : Res := runBlock por s

/-- SYS_RESET (R391). -/
def execSysReset (s : State) : Res := runBlock (softReset true) s

/-- DNT_RESET (R393). -/
def execDntReset (s : State) : Res := runBlock (softReset false) s

/-- RESET_RELEASE (R399). -/
def execResetRelease (p sys dnt : Bool) (s : State) : Res := runBlock (resetRelease p sys dnt) s

/-- FREEZE (R423). -/
def execFreeze (s : State) : Res := runBlock freeze s

/-- FREEZE_RELEASE (R424). -/
def execFreezeRelease (s : State) : Res := runBlock freezeRelease s

/-- DOZE_ENTRY (R405). -/
def execDozeEntry (s : State) : Res := runSrvBlock dozeEntry s

/-- DOZE_WAKE_SOURCE (R406). -/
def execDozeWakeSource (s : State) : Res := runAwakeOrNot dozeWakeSource s

/-- WAKE_COMPLETE (R407). -/
def execWakeComplete (s : State) : Res := runBlock wakeComplete s

/-- PWR_GATE_ACK (R449). -/
def execPwrGateAck (gate : Gate) (s : State) : Res := runMgt (fun b => onD b (pwrGateAck gate)) s

/-- COUNTER_BANK_FALLOW (R408). -/
def execCounterBankFallow (s : State) : Res := runSrv counterBankFallow s

/-- MU_BANK_FALLOW (R410). -/
def execMuBankFallow (b : MuBank) (writes : Nat) (s : State) : Res := runSrv (muBankFallow b.site b.bank writes) s

/-- MU_BANK_WAKE (R411). -/
def execMuBankWake (site bank : Nat) (s : State) : Res := runSrv (muBankWake site bank) s

/-- FALLOW_ACCESS (R412). -/
def execFallowAccess (site bank leaf : Nat) (task : FallowTask) (s : State) : Res := runSrv (fallowAccess site bank leaf task) s

end Sys2Proof.Machine
end

