-- ==== Sys2Proof/Machine/ExecCommands.lean ====
section
/-! DEFINITION. Commands of the submission rings: what each command does, by its gate and its meaning. -/
namespace Sys2Proof.Machine

/-- NOP (R291). -/
def execNop (c : Nat) (s : State) : Res := runSrv (nop c) s

/-- LOAD_GRAPH (R36). -/
def execLoadGraph (c : Nat) (s : State) : Res := runSrv (loadGraph c) s

/-- UNLOAD_GRAPH (R38). -/
def execUnloadGraph (c : Nat) (s : State) : Res := runSrv (unloadGraph c) s

/-- PATCH_GRAPH (R61). -/
def execPatchGraph (c : Nat) (s : State) : Res := runSrv (patchGraph c) s

/-- LAUNCH (R54). -/
def execLaunch (c : Nat) (s : State) : Res := runSrv (launch c) s

/-- RECORD_EVENT (R293). -/
def execRecordEvent (c : Nat) (s : State) : Res := runSrv (recordEvent c) s

/-- GRAPH_IMAGE_READ (R451). -/
def execGraphImageRead (gid : Nat) (s : State) : Res := runSrv (graphImageRead gid) s

/-- RECORD_EVENT_APPLY (R293). -/
def execRecordEventApply (c r : Nat) (hits : List Hit) (s : State) : Res :=
  runSrv (withHits Stored.isEvent hits (recordEventApply c r)) s

/-- WAIT_EVENT (R293). -/
def execWaitEvent (c : Nat) (hits : List Hit) (s : State) : Res := runSrv (withHits Stored.isEvent hits (waitEvent c)) s

/-- WAIT_EVENT_TIMEOUT (R293). -/
def execWaitEventTimeout (c r : Nat) (s : State) : Res := runSrv (waitEventTimeout c r) s

/-- SIGNAL (R214). -/
def execSignal (c : Nat) (hits : List Hit) (s : State) : Res := runSrv (withHits Stored.isSignal hits (signal c)) s

/-- FENCE (R291). -/
def execFence (c : Nat) (s : State) : Res := runSrv (fence c) s

/-- WRITE_TABLE (R294). -/
def execWriteTable (c : Nat) (s : State) : Res := runSrv (writeTable c) s

/-- SET_MODE (R295). -/
def execSetMode (c : Nat) (s : State) : Res := runSrv (setMode c) s

/-- SET_MODE_APPLY (R295). -/
def execSetModeApply (s : State) : Res := runSrvBlock setModeApply s

/-- SERVICE_START (R305). -/
def execServiceStart (c : Nat) (s : State) : Res := runSrvFw (serviceStart c) s

/-- SERVICE_STOP (R310). -/
def execServiceStop (c : Nat) (s : State) : Res := runSrvFw (serviceStop c) s

/-- INSPECT (R390). -/
def execInspect (s : State) : Res := runSrv inspect s

end Sys2Proof.Machine
end

