-- ==== Sys2Proof/Machine/ExecData.lean ====
section
/-! DEFINITION. Combining, routing, the SFU, links and the memory ports: what each command does, by its gate and its meaning. -/
namespace Sys2Proof.Machine

/-- CONTRIBUTION_APPLY (R204). -/
def execContributionApply (hits : List Hit) (s : State) : Res := runPart (rootUnit 4) (withHits Stored.isTag hits contributionApply) s

/-- RESULT_DELIVERY (R209). -/
def execResultDelivery (q tag : Nat) (s : State) : Res := runPart (rootUnit 4) (resultDelivery q tag) s

/-- LOGIT_CHUNK (R226). -/
def execLogitChunk (i : Nat) (s : State) : Res := runPart (rootUnit 5) (arrival i 1) s

/-- TOKEN_SCORE (R229). -/
def execTokenScore (slot chan : Nat) (s : State) : Res := runPart (rootUnit 5) (tokenScore slot chan) s

/-- GAZETTEER_LOOKUP (R241). -/
def execGazetteerLookup (base expert : Nat) (hits : List Hit) (s : State) : Res :=
  runSrv (withHits Stored.isGaz hits (gazetteerLookup (base + expert))) s

/-- TILE_BLOCK_ACK (R235). -/
def execTileBlockAck (slot chan j : Nat) (s : State) : Res := runSrv (tileWritten slot chan j) s

/-- STAGING_SLOT_TAKE (R243). -/
def execStagingSlotTake (idx : Nat) (s : State) : Res := runSrv (stagingSlotTake idx) s

/-- STAT_CONTROL_BLOCK (R256). -/
def execStatControlBlock (g : Nat) (s : State) : Res := runPart (rootUnit 6) (statControlBlock g) s

/-- ROW_FINISH (R258). -/
def execRowFinish (g : Nat) (s : State) : Res := runPart (rootUnit 6) (rowFinish g) s

/-- STAT_END (R260). -/
def execStatEnd (g : Nat) (s : State) : Res := runSrv (statEnd g) s

/-- EVAL_REQUEST (R265). -/
def execEvalRequest (i : Nat) (s : State) : Res := runPart (rootUnit 6) (arrival i 2) s

/-- EVAL_RESULT (R266). -/
def execEvalResult (s : State) : Res := runPart (rootUnit 6) evalResult s

/-- LINK_FRAME (R445). -/
def execLinkFrame (port : Nat) (frame : BitVec 576) (s : State) : Res := runSrv (linkFrame port frame) s

/-- LINK_RETRANSMIT_REQUEST (R445). -/
def execLinkRetransmitRequest (port : Nat) (seq : W32) (s : State) : Res := runSrv (linkRetransmitRequest port seq) s

/-- LINK_CONFIRMATION (R445). -/
def execLinkConfirmation (port : Nat) (ackseq : W32) (s : State) : Res := runSrv (linkConfirmation port ackseq) s

/-- LINK_CONFIRM_SEND (R445). -/
def execLinkConfirmSend (port : Nat) (s : State) : Res := runSrv (linkConfirmSend port) s

/-- LINK_CONFIRM_TIMEOUT (R445). -/
def execLinkConfirmTimeout (port : Nat) (s : State) : Res := runSrv (linkConfirmTimeout port) s

/-- LINK_UP_CHANGE (R445). -/
def execLinkUpChange (port : Nat) (up : Bool) (s : State) : Res := runSrv (linkUpChange port up) s

/-- MEMORY_READ_RESPONSE (R456). -/
def execMemoryReadResponse (port : Port) (tag : Nat) (data : List Byte) (err : Bool) (s : State) : Res :=
  runBlock (fun b => if b.cfg.serving then tidy (onD b (memoryReadResponse port tag data err)) else fwResponse port tag data err b) s

/-- WRITE_ACK (R442). -/
def execWriteAck (port : Port) (tag : Nat) (err : Bool) (s : State) : Res := runSrv (writeAck port tag err) s

end Sys2Proof.Machine
end

