-- ==== Sys2Proof/Machine/ExecEngine.lean ====
section
/-! DEFINITION. Work ports, reports and the token interface: what each command does, by its gate and its meaning. -/
namespace Sys2Proof.Machine

/-- PACKET_NOTICE (R127). -/
def execPacketNotice (leaf : Nat) (s : State) : Res := runPart (unitOf leaf) (packetNotice leaf) s

/-- TAKEN_REPORT (R144). -/
def execTakenReport (leaf : Nat) (s : State) : Res := runSrv (takenReport leaf) s

/-- CREDIT_RETURN (R143). -/
def execCreditReturn (leaf : Nat) (s : State) : Res := runSrv (creditReturn leaf) s

/-- HEARTBEAT (R346). -/
def execHeartbeat (leaf : Nat) (s : State) : Res := runSrv (heartbeat leaf) s

/-- HANG (R346). -/
def execHang (leaf : Nat) (s : State) : Res := runSrv (hang leaf) s

/-- IDLE_TIMEOUT (R136). -/
def execIdleTimeout (leaf : Nat) (s : State) : Res := runSrv (idleTimeout leaf) s

/-- MARK (R139). -/
def execMark (leaf : Nat) (s : State) : Res := runSrv (mark leaf) s

/-- REWIND (R139). -/
def execRewind (leaf : Nat) (s : State) : Res := runSrv (rewind leaf) s

/-- COMPLETION_REPORT (R77). -/
def execCompletionReport (i : Nat) (s : State) : Res := runPart (rootUnit 1) (completionReport i) s

/-- WAIT_TIMEOUT (R120). -/
def execWaitTimeout (g : Nat) (s : State) : Res := runSrv (waitTimeout g) s

/-- READ (R135). -/
def execRead (leaf : Nat) (idleTo : BitVec 21) (s : State) : Res := runSrv (read leaf idleTo) s

/-- RELEASE (R140). -/
def execRelease (leaf ptag : Nat) (status : Byte) (digest : W64) (s : State) : Res :=
  runSrv (release leaf ptag status digest) s

/-- SEND (R185), or an operation of a reserved code (R177, log 105: DESIGN CHOICE). -/
def execSend (leaf : Nat) (op : PortOp) (hdr : W64) (payload : W256) (tmask : W32) (s : State) : Res :=
  runSrv (fun k d =>
    if op.code = 0 then send leaf op.ptag hdr payload tmask k d
    else if 10 ≤ op.code.toNat then reservedOp leaf op.ptag op.code.toNat k d else d) s

/-- TOKEN_ARRIVAL (R182). -/
def execTokenArrival (i : Nat) (s : State) : Res := runSrv (arrival i 0) s

/-- TOKEN_ACK (R187). -/
def execTokenAck (i : Nat) (s : State) : Res := runSrv (tokenAck i) s

/-- CLAIM (R180). -/
def execClaim (leaf ptag : Nat) (qmask : Byte) (sel : Bool) (s : State) : Res := runSrv (claim leaf ptag qmask sel) s

/-- UNCLAIM (R181). -/
def execUnclaim (leaf ptag : Nat) (qmask : Byte) (s : State) : Res := runSrv (unclaim leaf ptag qmask) s

/-- RECV (R184). -/
def execRecv (leaf ptag qidx : Nat) (timeout : BitVec 21) (hits : List Hit) (s : State) : Res :=
  runSrv (withHits Stored.isToken hits (recv leaf ptag qidx timeout)) s

/-- RECV_TIMEOUT (R184). -/
def execRecvTimeout (leaf opslot : Nat) (s : State) : Res := runSrv (recvTimeout leaf opslot) s

/-- RAISE (R214). -/
def execRaise (leaf ptag : Nat) (sig n : W16) (hits : List Hit) (s : State) : Res :=
  runSrv (withHits Stored.isSignal hits (sigOp leaf ptag 4 sig n 0)) s

/-- TAKE (R214). -/
def execTake (leaf ptag : Nat) (sig n : W16) (timeout : BitVec 21) (hits : List Hit) (s : State) : Res :=
  runSrv (withHits Stored.isSignal hits (sigOp leaf ptag 5 sig n (capTo timeout.toNat))) s

/-- TAKE_TIMEOUT (R214). -/
def execTakeTimeout (leaf opslot : Nat) (s : State) : Res := runSrv (takeTimeout leaf opslot) s

/-- CR_ACQUIRE (R217). -/
def execCrAcquire (leaf ptag creg : Nat) (n : W16) (hits : List Hit) (s : State) : Res :=
  runSrv (withHits Stored.isCreg hits (crOp leaf ptag 6 creg n.toNat 0)) s

/-- CR_COMMIT (R217). -/
def execCrCommit (leaf ptag creg : Nat) (n : W16) (hits : List Hit) (s : State) : Res :=
  runSrv (withHits Stored.isCreg hits (crOp leaf ptag 7 creg n.toNat 0)) s

/-- CR_WAIT (R217). -/
def execCrWait (leaf ptag creg : Nat) (target : W32) (timeout : BitVec 21) (hits : List Hit) (s : State) : Res :=
  runSrv (withHits Stored.isCreg hits (crOp leaf ptag 8 creg target.toNat (capTo timeout.toNat))) s

/-- CR_WAIT_TIMEOUT (R217). -/
def execCrWaitTimeout (leaf opslot : Nat) (s : State) : Res := runSrv (crWaitTimeout leaf opslot) s

/-- CR_DRAIN (R217). -/
def execCrDrain (leaf ptag creg : Nat) (n : W16) (hits : List Hit) (s : State) : Res :=
  runSrv (withHits Stored.isCreg hits (crOp leaf ptag 9 creg n.toNat 0)) s

end Sys2Proof.Machine
end

