-- ==== Sys2Proof/Machine/ExecFirmware.lean ====
section
/-! DEFINITION. The firmware: mailboxes, the standing service, faults, health: what each command does, by its gate and its meaning. -/
namespace Sys2Proof.Machine

/-- OPEN (R303). -/
def execOpenCtx (c : Nat) (s : State) : Res := runSrvFw (openMsg c) s

/-- CLOSE (R303). -/
def execClose (c : Nat) (s : State) : Res := runSrvFw (closeMsg c) s

/-- QUERY (R303). -/
def execQuery (c : Nat) (s : State) : Res := runSrvFw (queryMsg c) s

/-- QUIESCE (R303). -/
def execQuiesce (c : Nat) (s : State) : Res := runSrvFw (quiesceMsg c) s

/-- UNDEFINED_MESSAGE (R303). -/
def execUndefinedMessage (c : Nat) (s : State) : Res := runSrvFw (undefinedMsg c) s

/-- FS_FREE (R334). -/
def execFsFree (n : Nat) (s : State) : Res := runFw (fsFree n) s

/-- FS_HEALTH_WRITE (R389). -/
def execFsHealthWrite (v : W32) (s : State) : Res := runFwBlock (fun b => tidy (fsHealthWrite v b)) s

/-- HEDGE_WRITE (R357). -/
def execHedgeWrite (edge : Bool) (i : Nat) (set : Bool) (s : State) : Res := runSrvFw (hedgeWrite edge i set) s

/-- MON_TX (R388). -/
def execMonTx (ch : Byte) (s : State) : Res := runFw (monTx ch) s

/-- MON_RX_READ (R388). -/
def execMonRxRead (s : State) : Res := runFw monRxRead s

/-- TR_POST (R419). -/
def execTrPost (w : W256) (s : State) : Res := runFw (trPost w) s

/-- PWR_REQ (R405). -/
def execPwrReq (v : W32) (s : State) : Res := runFwBlock (pwrReq v) s

/-- FAULT_SERVE (R334). -/
def execFaultServe (s : State) : Res := runFwBlock (fun b => tidy (faultServe b)) s

/-- SERVICE_REQUEST_TAKE (R307). -/
def execServiceRequestTake (w : BitVec 512) (s : State) : Res := runSrvFw (serviceRequestTake w) s

/-- STEP_BOUNDARY (R307). -/
def execStepBoundary (s : State) : Res := runSrvFw stepBoundary s

/-- BATCH_TABLE_ACK (R308). -/
def execBatchTableAck (s : State) : Res := runSrvFw (fun k d => showReads (batchTableAck k d)) s

/-- STEP_COMPLETION (R309). -/
def execStepCompletion (dones : List Byte) (s : State) : Res := runSrvFw (stepCompletion dones) s

/-- DRAIN_ORDER (R355). -/
def execDrainOrder (s : State) : Res := runSrvFwBlock drainOrder s

/-- DRAIN_WAIT_EXPIRY (R355). -/
def execDrainWaitExpiry (s : State) : Res := runSrvBlock drainWaitExpiry s

/-- DRAINED (R354). -/
def execDrained (s : State) : Res := runSrvBlock drained s

/-- SURVEY_END (R362). -/
def execSurveyEnd (failed : List (Nat × Byte × W64)) (passed : List Nat) (s : State) : Res :=
  runSrvFwBlock (surveyEnd failed passed) s

end Sys2Proof.Machine
end

