-- ==== Sys2Proof/Machine/ExecGraph.lean ====
section
/-! DEFINITION. Chainage, counter banks, dispatch, launches and checks: what each command does, by its gate and its meaning. -/
namespace Sys2Proof.Machine

/-- CHAIN_ADVANCE (R148). -/
def execChainAdvance (i : Nat) (n : W16) (s : State) : Res := runBlock (fun b => tidy (advance i n b)) s

/-- RELEASE_WATCH_FIRE (R155). -/
def execReleaseWatchFire (s : State) : Res := runSrv releaseWatchFire s

/-- SECTION_END_FIRE (R157). -/
def execSectionEndFire (s : State) : Res := runSrv sectionEndFire s

/-- EXPIRY_FIRE (R159). -/
def execExpiryFire (s : State) : Res := runSrv expiryFire s

/-- ADMISSION_FIRE (R153). -/
def execAdmissionFire (s : State) : Res := runSrv admissionFire s

/-- CHECK_INTERVAL_CLOSE (R87). -/
def execCheckIntervalClose (s : State) : Res := runSrv checkIntervalClose s

/-- TS_BACK (R167). -/
def execTsBack (ts : W64) (s : State) : Res := runBlock (fun b => if b.cfg.mgtRuns then tidy (onD b (tsBack ts)) else b) s

/-- LINK_KEY_APPLY (R195). -/
def execLinkKeyApply (s : State) : Res := runSrv linkKeyApply s

/-- START_SCAN (R74). -/
def execStartScan (slot : Nat) (s : State) : Res := runSrv (startScan slot) s

/-- DEC (R73). -/
def execDec (b : Nat) (hits : List Hit) (s : State) : Res := runPart (bankUnit b) (withHits Stored.isNode hits (bankOp .dec b)) s

/-- EVT (R45). -/
def execEvt (b : Nat) (hits : List Hit) (s : State) : Res := runPart (bankUnit b) (withHits Stored.isNode hits (bankOp .evt b)) s

/-- DEC_EVT (R73). -/
def execDecEvt (b : Nat) (hits : List Hit) (s : State) : Res := runPart (bankUnit b) (withHits Stored.isNode hits (bankOp .decEvt b)) s

/-- CANCEL (R76). -/
def execCancel (b : Nat) (hits : List Hit) (s : State) : Res := runPart (bankUnit b) (withHits Stored.isNode hits (bankOp .cancel b)) s

/-- EDGE_WALK (R78). -/
def execEdgeWalk (w : Nat) (hits : List Hit) (s : State) : Res := runPart (rootUnit 1) (withHits Stored.isWalk hits (edgeWalk w)) s

/-- READY_ENTRY_ENTER (R82). -/
def execReadyEntryEnter (b : Nat) (s : State) : Res := runPart (bankUnit b) (readyEntryEnter b) s

/-- DESCRIPTOR_FILL (R99). -/
def execDescriptorFill (off : Nat) (err : Bool) (s : State) : Res := runSrv (descriptorFill off err) s

/-- PLACEMENT (R100). -/
def execPlacement (disp : Disp) (hits : List Hit) (s : State) : Res :=
  runPart (dispUnit disp) (withHits Stored.isDispatch hits (placement disp)) s

/-- CHILD_LAUNCH (R60). -/
def execChildLaunch (g : Nat) (s : State) : Res := runSrv (childLaunch g) s

/-- AFFINITY_WAIT_EXPIRY (R102). -/
def execAffinityWaitExpiry (g : Nat) (s : State) : Res := runSrv (affinityWaitExpiry g) s

/-- CONSERVATION_SWEEP (R88). -/
def execConservationSweep (slot : Nat) (s : State) : Res := runSrv (conservationSweep slot) s

/-- LAUNCH_COMPLETION_RETURN (R57). -/
def execLaunchCompletionReturn (slot : Nat) (s : State) : Res := runSrv (launchCompletionReturn slot) s

/-- INTERVAL_COMPARE (R87). -/
def execIntervalCompare (accepted tallies : List (Nat × Nat × Nat)) (s : State) : Res :=
  runSrv (intervalCompare accepted tallies) s

/-- SCRUB_READ (R336). -/
def execScrubRead (edge : Bool) (unit word : Nat) (res : EccResult) (s : State) : Res :=
  runSrv (scrubRead edge unit word res) s

/-- DUP_COMPARE_MISMATCH (R341). -/
def execDupCompareMismatch (unit group : Nat) (slots : List Nat) (s : State) : Res :=
  runSrv (dupCompareMismatch unit group slots) s

/-- LOCKSTEP_MISMATCH (R345). -/
def execLockstepMismatch (pc : W64) (s : State) : Res := runFwBlock (fun b => tidy (lockstepMismatch pc b)) s

/-- REBASE_SWEEP (R169). -/
def execRebaseSweep (obj : PairObj) (s : State) : Res := runSrv (rebaseSweep obj) s

/-- REBASE (R170). -/
def execRebase (obj : PairObj) (s : State) : Res := runSrv (rebase obj) s

/-- REBASE_COMPLETE (R170). -/
def execRebaseComplete (obj : PairObj) (s : State) : Res := runSrv (rebaseComplete obj) s

end Sys2Proof.Machine
end

