-- ==== Sys2Proof/Machine/ExecHost.lean ====
section
/-! DEFINITION. Host accesses: what each command does, by its gate and its meaning. -/
namespace Sys2Proof.Machine

/-- RING_DOORBELL (R283). -/
def execRingDoorbell (c r : Nat) (tail : W32) (s : State) : Res := hostWrite (ringOff c r 0x14) 4 (tail.setWidth 64) s

/-- RING_ENABLE (R280). -/
def execRingEnable (c r : Nat) (cfg : W32) (s : State) : Res :=
  hostWrite (ringOff c r 0x08) 4 ((cfg ||| w32 (2 ^ 31)).setWidth 64) s

/-- RING_DISABLE (R384). -/
def execRingDisable (c r : Nat) (cfg : W32) (s : State) : Res :=
  hostWrite (ringOff c r 0x08) 4 ((cfg &&& w32 (2 ^ 31 - 1)).setWidth 64) s

/-- STOP_REQ (R282). -/
def execStopReq (c r : Nat) (s : State) : Res := hostWrite (ringOff c r 0x18) 4 0x10 s

/-- RING_RESUME (R282). -/
def execRingResume (c r : Nat) (s : State) : Res := hostWrite (ringOff c r 0x18) 4 0x20 s

/-- CPL_RING_CONFIG (R385). -/
def execCplRingConfig (c : Nat) (base : Bool) (v : W64) (s : State) : Res :=
  (if base then hostWrite (ctxOff c 0x010) 8 v s else hostWrite (ctxOff c 0x018) 4 v s)

/-- CPL_HEAD_WRITE (R385). -/
def execCplHeadWrite (c : Nat) (v : W32) (s : State) : Res := hostWrite (ctxOff c 0x020) 4 (v.setWidth 64) s

/-- CTX_CANCEL (R296). -/
def execCtxCancel (c : Nat) (v : W64) (s : State) : Res := hostWrite (ctxOff c 0x030) 8 v s

/-- MBOX_DOORBELL (R303). -/
def execMboxDoorbell (c : Nat) (s : State) : Res := hostWrite (ctxOff c 0x040) 4 1 s

/-- CHAIN_PRESET (R150). -/
def execChainPreset (i : Nat) (v : W64) (s : State) : Res := hostWrite (if i < 16 then 0xC00 + 8 * i else 0x50000) 8 v s

/-- STEP_WRITE (R372). -/
def execStepWrite (v : W64) (s : State) : Res := hostWrite 0x28 8 v s

/-- LINK_KEY_WRITE (R374). -/
def execLinkKeyWrite (v : W64) (s : State) : Res := hostWrite 0x108 8 v s

/-- SVC_REQ_TAIL (R373). -/
def execSvcReqTail (v : W32) (s : State) : Res := hostWrite 0x814 4 (v.setWidth 64) s

/-- SVC_RES_HEAD (R373). -/
def execSvcResHead (v : W32) (s : State) : Res := hostWrite 0x81C 4 (v.setWidth 64) s

/-- SURVEY_START (R359). -/
def execSurveyStart (full : Bool) (s : State) : Res := hostWrite 0x804 4 (w64 (1 + b2n full * 2 ^ 8)) s

/-- REPLAY_CFG_WRITE (R379). -/
def execReplayCfgWrite (base : Bool) (v : W64) (s : State) : Res :=
  (if base then hostWrite 0x900 8 v s else hostWrite 0x908 4 v s)

/-- REPLAY_HEAD_WRITE (R379). -/
def execReplayHeadWrite (v : W32) (s : State) : Res := hostWrite 0x910 4 (v.setWidth 64) s

/-- TRACE_SPILL_HEAD_WRITE (R421). -/
def execTraceSpillHeadWrite (v : W32) (s : State) : Res := hostWrite 0xA14 4 (v.setWidth 64) s

/-- ROUTE_CONFIG_WRITE (R374). GAZ_BASE, STAGE_BASE, STAGE_SIZE and STAGE_SLOT, by their offset; any other offset names no such register. -/
def execRouteConfigWrite (off : Nat) (v : W64) (s : State) : Res :=
  hostWrite (if [0x118, 0x120, 0x128, 0x130].contains off then off else 0x50000) (if off = 0x130 then 4 else 8) v s

/-- MAP_BASE_WRITE (R374). -/
def execMapBaseWrite (evt : Bool) (v : W64) (s : State) : Res := hostWrite (if evt then 0x150 else 0x148) 8 v s

/-- COUNTER_READ (R375). -/
def execCounterRead (off size rid : Nat) (s : State) : Res := hostRead off size rid s

/-- REGISTER_WRITE, by the host (R8) or by the DCP while the firmware runs (R386 to R389). -/
def execRegisterWrite (at_ : RegAddr) (size : Nat) (v : W64) (s : State) : Res :=
  match at_ with
  | .host off => hostWrite off size v s
  | .dcp a => runFwBlock (fun b => tidy (dcpWriteReg a size v b)) s

/-- REGISTER_READ, by the host (R7) or by the DCP while the firmware runs (R386 to R389). -/
def execRegisterRead (at_ : RegAddr) (size : Nat) (rd : RegRead) (s : State) : Res :=
  match at_ with
  | .host off => hostRead off size rd.rid s
  | .dcp a => runFwBlock (fun b => tidy (dcpRead a size rd.hits b)) s

end Sys2Proof.Machine
end

