-- ==== Sys2Proof/Machine/ExecMonitor.lean ====
section
/-! DEFINITION. Observation: what each command does, by its gate and its meaning. -/
namespace Sys2Proof.Machine

/-- READ_OUT (R426). -/
def execReadOut (store index : Nat) (res : EccResult) (s : State) : Res := runBlock (readOut store index res) s

/-- UART_RX_CHAR (R429). -/
def execUartRxChar (ch : Byte) (s : State) : Res := runBlock (uartRxChar ch) s

/-- UART_TX_CHAR (R429). -/
def execUartTxChar (s : State) : Res := runBlock uartTxChar s

/-- MON_BAD_LINE (R430). -/
def execMonBadLine (s : State) : Res := runFw (monBadLine) s

/-- MON_HELP (R431). -/
def execMonHelp (s : State) : Res := runFw (monHelp) s

/-- MON_ID (R431). -/
def execMonId (s : State) : Res := runFw (monId) s

/-- MON_HEALTH (R431). -/
def execMonHealth (s : State) : Res := runFw (monHealth) s

/-- MON_FAULT (R431). -/
def execMonFault (n : Option Nat) (s : State) : Res := runFw (monFault n) s

/-- MON_HEDGE (R431). -/
def execMonHedge (s : State) : Res := runFw (monHedge) s

/-- MON_CTX (R431). -/
def execMonCtx (c : Nat) (s : State) : Res := runFw (monCtx c) s

/-- MON_LAUNCH (R431). -/
def execMonLaunch (i : Nat) (s : State) : Res := runFw (monLaunch i) s

/-- MON_COUNT (R431). -/
def execMonCount (off : Nat) (s : State) : Res := runFw (monCount off) s

/-- MON_PARCEL (R431). -/
def execMonParcel (p : Nat) (s : State) : Res := runFw (monParcel p) s

/-- MON_FALLOW (R431). -/
def execMonFallow (s : State) : Res := runFw (monFallow) s

/-- MON_TRACE (R431). -/
def execMonTrace (n : Nat) (s : State) : Res := runFw (monTrace n) s

/-- MON_PCS (R432). -/
def execMonPcs (leaf : Nat) (s : State) : Res := runFw (monPcs leaf) s

/-- MON_DRAIN (R431). -/
def execMonDrain (s : State) : Res := runSrvFwBlock monDrain s

/-- MON_SURVEY_QUICK (R431). -/
def execMonSurveyQuick (s : State) : Res := runSrvFwBlock (monSurvey false) s

/-- MON_SURVEY_FULL (R431). -/
def execMonSurveyFull (s : State) : Res := runSrvFwBlock (monSurvey true) s

/-- MON_BAUD (R429). -/
def execMonBaud (rate : Nat) (s : State) : Res := runFwBlock (monBaud rate) s

/-- SAMPLING_TICK (R416). -/
def execSamplingTick (taps : List (Nat × W64 × BitVec 3)) (s : State) : Res := runSrv (samplingTick taps) s

/-- LOSS_RECORD (R422). -/
def execLossRecord (s : State) : Res := runSrv lossRecord s

/-- TRACE_SPILL_WRITE (R421). -/
def execTraceSpillWrite (hits : List Hit) (s : State) : Res := runSrv (withHits Stored.isTrace hits traceSpillWrite) s

/-- REPLAY_DRAIN (R328). -/
def execReplayDrain (s : State) : Res := runSrv replayDrain s

end Sys2Proof.Machine
end

