-- ==== Sys2Proof/Machine/ExecRings.lean ====
section
/-! DEFINITION. Rings, completions and the launch table: what each command does, by its gate and its meaning. -/
namespace Sys2Proof.Machine

/-- RING_FETCH_READ (R285). -/
def execRingFetchRead (hits : List Hit) (s : State) : Res := runPart frontUnit (withHits Stored.isRing hits ringFetchRead) s

/-- RING_FETCH_RETURN (R290). -/
def execRingFetchReturn (c r : Nat) (s : State) : Res := runPart frontUnit (ringFetchReturn c r) s

/-- COMPLETION_ENTRY (R298). -/
def execCompletionEntry (c : Nat) (s : State) : Res := runPart frontUnit (completionEntry c) s

/-- COMPLETION_WRITE_ACK (R298). -/
def execCompletionWriteAck (c : Nat) (s : State) : Res := runSrv (fun k d => showReads (completionWriteAck c k d)) s

/-- IRQ_HOLD_EXPIRY (R302). -/
def execIrqHoldExpiry (c : Nat) (s : State) : Res := runSrv (irqHoldExpiry c) s

/-- FE_POST (R388). -/
def execFePost (c : Nat) (w : BitVec 512) (s : State) : Res := runSrvFw (fePost c w) s

/-- LT_REQ_POST (R389). -/
def execLtReqPost (w : BitVec 512) (s : State) : Res := runSrvFw (ltReqPost w) s

/-- LT_RET_POP (R17). -/
def execLtRetPop (s : State) : Res := runSrvFw ltRetPop s

end Sys2Proof.Machine
end

