-- ==== Sys2Proof/Machine/Dispatch.lean ====
section
/-! DEFINITION. One arm per command, in the order of the table. -/
namespace Sys2Proof.Machine

/-- What a command does. -/
def exec (i : Instr) (s : State) : Host.Outcome State Fault Refusal :=
  match i with
  | .nop c => Sys2Proof.Machine.execNop c s
  | .loadGraph c => Sys2Proof.Machine.execLoadGraph c s
  | .graphImageRead gid => Sys2Proof.Machine.execGraphImageRead gid s
  | .unloadGraph c => Sys2Proof.Machine.execUnloadGraph c s
  | .patchGraph c => Sys2Proof.Machine.execPatchGraph c s
  | .launch c => Sys2Proof.Machine.execLaunch c s
  | .recordEvent c => Sys2Proof.Machine.execRecordEvent c s
  | .recordEventApply c r hits => Sys2Proof.Machine.execRecordEventApply c r hits s
  | .waitEvent c hits => Sys2Proof.Machine.execWaitEvent c hits s
  | .waitEventTimeout c r => Sys2Proof.Machine.execWaitEventTimeout c r s
  | .signal c hits => Sys2Proof.Machine.execSignal c hits s
  | .fence c => Sys2Proof.Machine.execFence c s
  | .writeTable c => Sys2Proof.Machine.execWriteTable c s
  | .setMode c => Sys2Proof.Machine.execSetMode c s
  | .setModeApply => Sys2Proof.Machine.execSetModeApply s
  | .serviceStart c => Sys2Proof.Machine.execServiceStart c s
  | .serviceStop c => Sys2Proof.Machine.execServiceStop c s
  | .ringFetchRead hits => Sys2Proof.Machine.execRingFetchRead hits s
  | .ringFetchReturn c r => Sys2Proof.Machine.execRingFetchReturn c r s
  | .completionEntry c => Sys2Proof.Machine.execCompletionEntry c s
  | .completionWriteAck c => Sys2Proof.Machine.execCompletionWriteAck c s
  | .irqHoldExpiry c => Sys2Proof.Machine.execIrqHoldExpiry c s
  | .ringDoorbell c r tail => Sys2Proof.Machine.execRingDoorbell c r tail s
  | .ringEnable c r cfg => Sys2Proof.Machine.execRingEnable c r cfg s
  | .ringDisable c r cfg => Sys2Proof.Machine.execRingDisable c r cfg s
  | .stopReq c r => Sys2Proof.Machine.execStopReq c r s
  | .ringResume c r => Sys2Proof.Machine.execRingResume c r s
  | .cplRingConfig c base v => Sys2Proof.Machine.execCplRingConfig c base v s
  | .cplHeadWrite c v => Sys2Proof.Machine.execCplHeadWrite c v s
  | .ctxCancel c v => Sys2Proof.Machine.execCtxCancel c v s
  | .mboxDoorbell c => Sys2Proof.Machine.execMboxDoorbell c s
  | .openCtx c => Sys2Proof.Machine.execOpenCtx c s
  | .close c => Sys2Proof.Machine.execClose c s
  | .query c => Sys2Proof.Machine.execQuery c s
  | .quiesce c => Sys2Proof.Machine.execQuiesce c s
  | .undefinedMessage c => Sys2Proof.Machine.execUndefinedMessage c s
  | .chainPreset n0 v => Sys2Proof.Machine.execChainPreset n0 v s
  | .stepWrite v => Sys2Proof.Machine.execStepWrite v s
  | .linkKeyWrite v => Sys2Proof.Machine.execLinkKeyWrite v s
  | .linkKeyApply => Sys2Proof.Machine.execLinkKeyApply s
  | .svcReqTail v => Sys2Proof.Machine.execSvcReqTail v s
  | .svcResHead v => Sys2Proof.Machine.execSvcResHead v s
  | .surveyStart full => Sys2Proof.Machine.execSurveyStart full s
  | .replayCfgWrite base v => Sys2Proof.Machine.execReplayCfgWrite base v s
  | .replayHeadWrite v => Sys2Proof.Machine.execReplayHeadWrite v s
  | .traceSpillHeadWrite v => Sys2Proof.Machine.execTraceSpillHeadWrite v s
  | .routeConfigWrite off v => Sys2Proof.Machine.execRouteConfigWrite off v s
  | .mapBaseWrite evt v => Sys2Proof.Machine.execMapBaseWrite evt v s
  | .counterRead off size rid => Sys2Proof.Machine.execCounterRead off size rid s
  | .registerWrite at_ size v => Sys2Proof.Machine.execRegisterWrite at_ size v s
  | .ltReqPost w => Sys2Proof.Machine.execLtReqPost w s
  | .ltRetPop => Sys2Proof.Machine.execLtRetPop s
  | .inspect => Sys2Proof.Machine.execInspect s
  | .fsFree n => Sys2Proof.Machine.execFsFree n s
  | .fsHealthWrite v => Sys2Proof.Machine.execFsHealthWrite v s
  | .hedgeWrite edge n set => Sys2Proof.Machine.execHedgeWrite edge n set s
  | .monTx ch => Sys2Proof.Machine.execMonTx ch s
  | .monRxRead => Sys2Proof.Machine.execMonRxRead s
  | .trPost w => Sys2Proof.Machine.execTrPost w s
  | .pwrReq v => Sys2Proof.Machine.execPwrReq v s
  | .fePost c w => Sys2Proof.Machine.execFePost c w s
  | .bootComplete ftv fwver => Sys2Proof.Machine.execBootComplete ftv fwver s
  | .mgtBootStart => Sys2Proof.Machine.execMgtBootStart s
  | .mgtBootData w => Sys2Proof.Machine.execMgtBootData w s
  | .bootBlockTimeout => Sys2Proof.Machine.execBootBlockTimeout s
  | .bootInitDone => Sys2Proof.Machine.execBootInitDone s
  | .post ok unit => Sys2Proof.Machine.execPost ok unit s
  | .fwImageRead bytes err => Sys2Proof.Machine.execFwImageRead bytes err s
  | .fwVerifyResult ok => Sys2Proof.Machine.execFwVerifyResult ok s
  | .fwStartTimeout => Sys2Proof.Machine.execFwStartTimeout s
  | .mgtTimeWrite lo hi => Sys2Proof.Machine.execMgtTimeWrite lo hi s
  | .mgtSigDataRead => Sys2Proof.Machine.execMgtSigDataRead s
  | .mgtSigAck => Sys2Proof.Machine.execMgtSigAck s
  | .mgtDrain => Sys2Proof.Machine.execMgtDrain s
  | .mgtQuickSurvey => Sys2Proof.Machine.execMgtQuickSurvey s
  | .mgtFullSurvey => Sys2Proof.Machine.execMgtFullSurvey s
  | .mgtWake => Sys2Proof.Machine.execMgtWake s
  | .readOut store index res => Sys2Proof.Machine.execReadOut store index res s
  | .uartRxChar ch => Sys2Proof.Machine.execUartRxChar ch s
  | .monBadLine => Sys2Proof.Machine.execMonBadLine s
  | .monHelp => Sys2Proof.Machine.execMonHelp s
  | .monId => Sys2Proof.Machine.execMonId s
  | .monHealth => Sys2Proof.Machine.execMonHealth s
  | .monFault n => Sys2Proof.Machine.execMonFault n s
  | .monHedge => Sys2Proof.Machine.execMonHedge s
  | .monCtx c => Sys2Proof.Machine.execMonCtx c s
  | .monLaunch n0 => Sys2Proof.Machine.execMonLaunch n0 s
  | .monCount off => Sys2Proof.Machine.execMonCount off s
  | .monParcel p => Sys2Proof.Machine.execMonParcel p s
  | .monFallow => Sys2Proof.Machine.execMonFallow s
  | .monTrace n => Sys2Proof.Machine.execMonTrace n s
  | .monPcs leaf => Sys2Proof.Machine.execMonPcs leaf s
  | .monDrain => Sys2Proof.Machine.execMonDrain s
  | .monSurveyQuick => Sys2Proof.Machine.execMonSurveyQuick s
  | .monSurveyFull => Sys2Proof.Machine.execMonSurveyFull s
  | .monBaud rate => Sys2Proof.Machine.execMonBaud rate s
  | .por => Sys2Proof.Machine.execPor s
  | .sysReset => Sys2Proof.Machine.execSysReset s
  | .dntReset => Sys2Proof.Machine.execDntReset s
  | .resetRelease por sys dnt => Sys2Proof.Machine.execResetRelease por sys dnt s
  | .freeze => Sys2Proof.Machine.execFreeze s
  | .freezeRelease => Sys2Proof.Machine.execFreezeRelease s
  | .chainAdvance n0 n => Sys2Proof.Machine.execChainAdvance n0 n s
  | .releaseWatchFire => Sys2Proof.Machine.execReleaseWatchFire s
  | .sectionEndFire => Sys2Proof.Machine.execSectionEndFire s
  | .expiryFire => Sys2Proof.Machine.execExpiryFire s
  | .admissionFire => Sys2Proof.Machine.execAdmissionFire s
  | .tsBack ts => Sys2Proof.Machine.execTsBack ts s
  | .startScan slot => Sys2Proof.Machine.execStartScan slot s
  | .dec b hits => Sys2Proof.Machine.execDec b hits s
  | .evt b hits => Sys2Proof.Machine.execEvt b hits s
  | .decEvt b hits => Sys2Proof.Machine.execDecEvt b hits s
  | .cancel b hits => Sys2Proof.Machine.execCancel b hits s
  | .edgeWalk w hits => Sys2Proof.Machine.execEdgeWalk w hits s
  | .readyEntryEnter b => Sys2Proof.Machine.execReadyEntryEnter b s
  | .descriptorFill off err => Sys2Proof.Machine.execDescriptorFill off err s
  | .placement disp hits => Sys2Proof.Machine.execPlacement disp hits s
  | .childLaunch g => Sys2Proof.Machine.execChildLaunch g s
  | .affinityWaitExpiry g => Sys2Proof.Machine.execAffinityWaitExpiry g s
  | .packetNotice leaf => Sys2Proof.Machine.execPacketNotice leaf s
  | .takenReport leaf => Sys2Proof.Machine.execTakenReport leaf s
  | .creditReturn leaf => Sys2Proof.Machine.execCreditReturn leaf s
  | .completionReport n => Sys2Proof.Machine.execCompletionReport n s
  | .waitTimeout g => Sys2Proof.Machine.execWaitTimeout g s
  | .conservationSweep slot => Sys2Proof.Machine.execConservationSweep slot s
  | .launchCompletionReturn slot => Sys2Proof.Machine.execLaunchCompletionReturn slot s
  | .checkIntervalClose => Sys2Proof.Machine.execCheckIntervalClose s
  | .intervalCompare accepted tallies => Sys2Proof.Machine.execIntervalCompare accepted tallies s
  | .scrubRead edge unit word res => Sys2Proof.Machine.execScrubRead edge unit word res s
  | .faultServe => Sys2Proof.Machine.execFaultServe s
  | .dupCompareMismatch unit group slots => Sys2Proof.Machine.execDupCompareMismatch unit group slots s
  | .lockstepMismatch pc => Sys2Proof.Machine.execLockstepMismatch pc s
  | .rebaseSweep obj => Sys2Proof.Machine.execRebaseSweep obj s
  | .rebase obj => Sys2Proof.Machine.execRebase obj s
  | .rebaseComplete obj => Sys2Proof.Machine.execRebaseComplete obj s
  | .heartbeat leaf => Sys2Proof.Machine.execHeartbeat leaf s
  | .hang leaf => Sys2Proof.Machine.execHang leaf s
  | .read leaf idleTo => Sys2Proof.Machine.execRead leaf idleTo s
  | .idleTimeout leaf => Sys2Proof.Machine.execIdleTimeout leaf s
  | .mark leaf => Sys2Proof.Machine.execMark leaf s
  | .rewind leaf => Sys2Proof.Machine.execRewind leaf s
  | .release leaf ptag status digest => Sys2Proof.Machine.execRelease leaf ptag status digest s
  | .send leaf op hdr payload tmask => Sys2Proof.Machine.execSend leaf op hdr payload tmask s
  | .tokenArrival n => Sys2Proof.Machine.execTokenArrival n s
  | .tokenAck n => Sys2Proof.Machine.execTokenAck n s
  | .claim leaf ptag qmask sel => Sys2Proof.Machine.execClaim leaf ptag qmask sel s
  | .unclaim leaf ptag qmask => Sys2Proof.Machine.execUnclaim leaf ptag qmask s
  | .recv leaf ptag qidx timeout hits => Sys2Proof.Machine.execRecv leaf ptag qidx timeout hits s
  | .recvTimeout leaf opslot => Sys2Proof.Machine.execRecvTimeout leaf opslot s
  | .raise leaf ptag sig n hits => Sys2Proof.Machine.execRaise leaf ptag sig n hits s
  | .take leaf ptag sig n timeout hits => Sys2Proof.Machine.execTake leaf ptag sig n timeout hits s
  | .takeTimeout leaf opslot => Sys2Proof.Machine.execTakeTimeout leaf opslot s
  | .crAcquire leaf ptag creg n hits => Sys2Proof.Machine.execCrAcquire leaf ptag creg n hits s
  | .crCommit leaf ptag creg n hits => Sys2Proof.Machine.execCrCommit leaf ptag creg n hits s
  | .crWait leaf ptag creg target timeout hits => Sys2Proof.Machine.execCrWait leaf ptag creg target timeout hits s
  | .crWaitTimeout leaf opslot => Sys2Proof.Machine.execCrWaitTimeout leaf opslot s
  | .crDrain leaf ptag creg n hits => Sys2Proof.Machine.execCrDrain leaf ptag creg n hits s
  | .contributionApply hits => Sys2Proof.Machine.execContributionApply hits s
  | .resultDelivery q tag => Sys2Proof.Machine.execResultDelivery q tag s
  | .logitChunk n => Sys2Proof.Machine.execLogitChunk n s
  | .tokenScore slot chan => Sys2Proof.Machine.execTokenScore slot chan s
  | .gazetteerLookup base expert hits => Sys2Proof.Machine.execGazetteerLookup base expert hits s
  | .tileBlockAck slot chan j => Sys2Proof.Machine.execTileBlockAck slot chan j s
  | .stagingSlotTake idx => Sys2Proof.Machine.execStagingSlotTake idx s
  | .statControlBlock g => Sys2Proof.Machine.execStatControlBlock g s
  | .rowFinish g => Sys2Proof.Machine.execRowFinish g s
  | .statEnd g => Sys2Proof.Machine.execStatEnd g s
  | .evalRequest n => Sys2Proof.Machine.execEvalRequest n s
  | .evalResult => Sys2Proof.Machine.execEvalResult s
  | .serviceRequestTake w => Sys2Proof.Machine.execServiceRequestTake w s
  | .stepBoundary => Sys2Proof.Machine.execStepBoundary s
  | .batchTableAck => Sys2Proof.Machine.execBatchTableAck s
  | .stepCompletion dones => Sys2Proof.Machine.execStepCompletion dones s
  | .drainOrder => Sys2Proof.Machine.execDrainOrder s
  | .drainWaitExpiry => Sys2Proof.Machine.execDrainWaitExpiry s
  | .drained => Sys2Proof.Machine.execDrained s
  | .surveyEnd failed passed => Sys2Proof.Machine.execSurveyEnd failed passed s
  | .samplingTick taps => Sys2Proof.Machine.execSamplingTick taps s
  | .lossRecord => Sys2Proof.Machine.execLossRecord s
  | .traceSpillWrite hits => Sys2Proof.Machine.execTraceSpillWrite hits s
  | .replayDrain => Sys2Proof.Machine.execReplayDrain s
  | .dozeEntry => Sys2Proof.Machine.execDozeEntry s
  | .dozeWakeSource => Sys2Proof.Machine.execDozeWakeSource s
  | .wakeComplete => Sys2Proof.Machine.execWakeComplete s
  | .pwrGateAck gate => Sys2Proof.Machine.execPwrGateAck gate s
  | .counterBankFallow => Sys2Proof.Machine.execCounterBankFallow s
  | .muBankFallow at_ writes => Sys2Proof.Machine.execMuBankFallow at_ writes s
  | .muBankWake site bank => Sys2Proof.Machine.execMuBankWake site bank s
  | .fallowAccess site bank leaf task => Sys2Proof.Machine.execFallowAccess site bank leaf task s
  | .linkFrame port frame => Sys2Proof.Machine.execLinkFrame port frame s
  | .linkRetransmitRequest port seq => Sys2Proof.Machine.execLinkRetransmitRequest port seq s
  | .linkConfirmation port ackseq => Sys2Proof.Machine.execLinkConfirmation port ackseq s
  | .linkConfirmSend port => Sys2Proof.Machine.execLinkConfirmSend port s
  | .linkConfirmTimeout port => Sys2Proof.Machine.execLinkConfirmTimeout port s
  | .linkUpChange port up => Sys2Proof.Machine.execLinkUpChange port up s
  | .memoryReadResponse port tag data err => Sys2Proof.Machine.execMemoryReadResponse port tag data err s
  | .writeAck port tag err => Sys2Proof.Machine.execWriteAck port tag err s
  | .registerRead at_ size rd => Sys2Proof.Machine.execRegisterRead at_ size rd s
  | .mgtStatusRead health => Sys2Proof.Machine.execMgtStatusRead health s
  | .uartTxChar => Sys2Proof.Machine.execUartTxChar s

end Sys2Proof.Machine
end

