-- ==== Sys2Proof/Machine/Step.lean ====
section
/-! DEFINITION. One step: the command at the front of the queue, or with none waiting one dispatch cycle (log 1: DESIGN CHOICE, log 2: DESIGN CHOICE). -/
namespace Sys2Proof.Machine

/-- The command at the front runs with the queue's rest; an empty queue lets one dispatch cycle pass. -/
def step (s : State) : Host.Outcome State Fault Refusal :=
  match s.pending with
  | [] => runBlock tick s
  | c :: rest => exec c { s with pending := rest }

/-- `s` with the command that a word spells in front: no row of the table has bits, so no word spells one (log 14: DESIGN CHOICE). -/
def State.withFetchWord (s : State) (nbits w : Nat) : State :=
  match Sys2Proof.decodeTableWord nbits w with
  | none => s
  | some c => { s with pending := c :: s.pending }

end Sys2Proof.Machine
end

