-- ==== Sys2Proof/Safety.lean ====
section
/-! DEFINITION. The terms in which claims are made: what a command starts from, what it leaves, when the block serves, and the
invariant that every step keeps. The block never stops: a safe run is one in which no step faults or is refused, and that is
every run of it. -/
namespace Sys2Proof.Machine

/-- The running side a command starts from: the transfers that the command before presented are taken back (log 13: DESIGN CHOICE). -/
def State.fresh (s : State) : Dyn := { s.m.d with outs := [] }

/-- The state after a command that leaves the running side `d` and sets nothing else going. -/
def State.with (s : State) (d : Dyn) : State := { s with m := { s.m with d := d } }

/-- The block a command starts from. -/
def State.block (s : State) : Block := { s.m with d := s.fresh }

/-- The state after a command of a serving block whose own effect leaves the running side `d`: what that sets going in the same
cycle has run (`tidy`: ROUTEs and STATs whose launch is gone, queues whose owner is gone, blocked READs with an answer). -/
def State.served (s : State) (d : Dyn) : State := { s with m := tidy { s.m with d := d } }

/-- The same for a command that also writes the configuration side. -/
def State.servedBlock (s : State) (b : Block) : State := { s with m := tidy b }

/-- The block serves: out of reset, not frozen, not in DOZE, boot complete (R391, R399, R405, R423). -/
def State.serving (s : State) : Prop := s.m.cfg.serving = true

/-- It serves, and its firmware runs. -/
def State.firmware (s : State) : Prop := s.m.cfg.serving = true ∧ s.m.cfg.fwRuns = true

/-- A host access is served at once: no earlier access is held, and no record blocks the port (R368, Table 12.12). -/
def State.hostOpen (s : State) : Prop := s.m.cfg.serving = true ∧ s.m.d.held = [] ∧ portBlocked s.m.d = false

/-- It serves, and no record of a mismatch of the duplicated part `unit` waits, so that the part takes its inputs (R341, Table 12.12). -/
def State.part (s : State) (unit : Nat) : Prop := s.serving ∧ unitWaits s.fresh 0x03 unit = false

/-- No word that the command reads is in error. -/
def Clean (hits : List Hit) : Prop := ∀ h ∈ hits, h.res = .clean

/-- What holds of the configuration side in every reachable state: DNT_MODE, HANG_LIMIT, PCS_CTL and the serial rate stay within
their ranges, a replay log that is enabled has a legal size, DET is 1 only with the replay log enabled, a spilling trace buffer has
a spill ring, and only a booted chip dozes. -/
structure Cfg.Legal (k : Cfg) : Prop where
  cblk : k.cblk ≤ 8
  shfrac : k.shfrac ≤ 5
  hang : 2 ≤ k.hangLimit.toNat
  pcs : 8 ≤ k.pcsLog2.toNat ∧ k.pcsLog2.toNat ≤ 24
  baud : k.baud ∈ baudRates ∧ ∀ r, k.baudNext = some r → r ∈ baudRates
  replay : k.replayEn = true → 10 ≤ k.replayLog2.toNat ∧ k.replayLog2.toNat ≤ 24
  det : k.det = true → k.replayEn = true
  spill : k.traceSpill = true → 12 ≤ k.spillLog2.toNat
  doze : k.doze ≠ .awake → k.phase = .booted

/-- The changes of DNT_HEALTH.STATE that Table 12.7 gives, none at all, and the one command that makes two of them: SURVEY_END
releases a chip that passed its second survey from SURVEY by way of DRAINED. FLAGGED has no way out but a reset. -/
def HealthEdge (a b : Health) : Prop :=
  a = b ∨ (a, b) ∈ [(.service, .draining), (.service, .flagged), (.draining, .drained), (.draining, .flagged),
    (.drained, .survey), (.drained, .flagged), (.drained, .service), (.survey, .drained), (.survey, .flagged), (.survey, .service)]

/-- A task engine presents a token-interface operation for a taken packet, and slot `j` is its lowest free one (R177, R178). -/
def Presents (s : State) (l ptag j : Nat) (p : Pkt) : Prop :=
  s.serving ∧ s.m.cfg.taskEngine l = true ∧ opBlocked s.fresh l = false ∧
    firstFree 8 0 (tkeys (getEng s.fresh l).ops) = some j ∧ (getEng s.fresh l).tagged ptag = some p ∧ p.taken = true

/-- The commands of the data plane and of the front end: those that happen only while the block serves. -/
def IsServed : Instr → Prop
  | .nop _ | .loadGraph _ | .graphImageRead _ | .unloadGraph _ | .patchGraph _ | .launch _ | .recordEvent _
  | .recordEventApply _ _ _ | .waitEvent _ _ | .waitEventTimeout _ _ | .signal _ _ | .fence _ | .writeTable _ | .setMode _
  | .setModeApply | .serviceStart _ | .serviceStop _ | .ringFetchRead _ | .ringFetchReturn _ _ | .completionEntry _
  | .completionWriteAck _ | .irqHoldExpiry _ | .openCtx _ | .close _ | .query _ | .quiesce _ | .undefinedMessage _
  | .linkKeyApply | .ltReqPost _ | .ltRetPop | .inspect | .hedgeWrite _ _ _ | .fePost _ _ | .releaseWatchFire
  | .sectionEndFire | .expiryFire | .admissionFire | .startScan _ | .dec _ _ | .evt _ _ | .decEvt _ _
  | .cancel _ _ | .edgeWalk _ _ | .readyEntryEnter _ | .descriptorFill _ _ | .placement _ _ | .childLaunch _
  | .affinityWaitExpiry _ | .packetNotice _ | .takenReport _ | .creditReturn _ | .completionReport _ | .waitTimeout _
  | .conservationSweep _ | .launchCompletionReturn _ | .checkIntervalClose | .intervalCompare _ _ | .scrubRead _ _ _ _
  | .dupCompareMismatch _ _ _ | .rebaseSweep _ | .rebase _ | .rebaseComplete _ | .heartbeat _ | .hang _ | .read _ _
  | .idleTimeout _ | .mark _ | .rewind _ | .release _ _ _ _ | .send _ _ _ _ _ | .tokenArrival _ | .tokenAck _ | .claim _ _ _ _
  | .unclaim _ _ _ | .recv _ _ _ _ _ | .recvTimeout _ _ | .raise _ _ _ _ _ | .take _ _ _ _ _ _ | .takeTimeout _ _
  | .crAcquire _ _ _ _ _ | .crCommit _ _ _ _ _ | .crWait _ _ _ _ _ _ | .crWaitTimeout _ _ | .crDrain _ _ _ _ _
  | .contributionApply _ | .resultDelivery _ _ | .logitChunk _ | .tokenScore _ _ | .gazetteerLookup _ _ _ | .tileBlockAck _ _ _
  | .stagingSlotTake _ | .statControlBlock _ | .rowFinish _ | .statEnd _ | .evalRequest _ | .evalResult
  | .serviceRequestTake _ | .stepBoundary | .batchTableAck | .stepCompletion _ | .drainOrder | .drainWaitExpiry | .drained
  | .surveyEnd _ _ | .samplingTick _ | .lossRecord | .traceSpillWrite _ | .replayDrain | .dozeEntry | .counterBankFallow
  | .muBankFallow _ _ | .muBankWake _ _ | .fallowAccess _ _ _ _ | .linkFrame _ _ | .linkRetransmitRequest _ _
  | .linkConfirmation _ _ | .linkConfirmSend _ | .linkConfirmTimeout _ | .linkUpChange _ _ | .writeAck _ _ _ | .monDrain | .monSurveyQuick | .monSurveyFull => True
  | _ => False

/-- The commands that may write the configuration side: boot (a read's data in phase 4 too), resets, freeze and DOZE, health and the survey,
SET_MODE_APPLY, the serial rate, CHAIN_ADVANCE (a wake), and every host access (a read in DOZE wakes the block). -/
def WritesConfig : Instr → Prop
  | .setModeApply | .ringDoorbell _ _ _ | .ringEnable _ _ _ | .ringDisable _ _ _ | .stopReq _ _ | .ringResume _ _
  | .cplRingConfig _ _ _ | .cplHeadWrite _ _ | .ctxCancel _ _ | .mboxDoorbell _ | .chainPreset _ _ | .stepWrite _ | .linkKeyWrite _
  | .svcReqTail _ | .svcResHead _ | .surveyStart _ | .replayCfgWrite _ _ | .replayHeadWrite _ | .traceSpillHeadWrite _
  | .routeConfigWrite _ _ | .mapBaseWrite _ _ | .counterRead _ _ _ | .registerWrite _ _ _ | .registerRead _ _ _ | .fsHealthWrite _
  | .pwrReq _ | .faultServe | .drainOrder | .drainWaitExpiry | .drained | .surveyEnd _ _ | .bootComplete _ _ | .mgtBootStart
  | .mgtBootData _ | .bootBlockTimeout | .bootInitDone | .post _ _ | .fwImageRead _ _ | .fwVerifyResult _ | .fwStartTimeout
  | .mgtTimeWrite _ _ | .mgtDrain | .mgtQuickSurvey | .mgtFullSurvey | .mgtWake | .por | .sysReset | .dntReset | .resetRelease _ _ _
  | .freeze | .freezeRelease | .dozeEntry | .dozeWakeSource | .wakeComplete | .uartTxChar | .monDrain | .monSurveyQuick | .monSurveyFull
  | .monBaud _ | .chainAdvance _ _ | .lockstepMismatch _ | .memoryReadResponse _ _ _ _ => True
  | _ => False

/-- The block's addressed stores are in canonical form: words strictly rising, none listed that reads as an unlisted one does. They are the
edge store, the node rows of the counter banks, the register counters, the chainage counters, signals, regions and receive queues. -/
def Memory.wf (d : Dyn) : Bool :=
  twf 0 d.gs.edge && twf .zero d.nb.nodes && twf 0 d.cnt && twf 0 d.ch.chain && twf .init d.sg.ctrs && twf .init d.sg.cregs
    && twf .init d.tk.queues && twf .init d.en && twf .init d.lk.ports

end Sys2Proof.Machine
end

