-- ==== Sys2Proof/WellFormed.lean ====
section
/-! DEFINITION. Well-formed commands: every operand that names a thing by number lies in the range the spec gives that thing. A command
outside these ranges names nothing that exists; exec answers it all the same, and it changes nothing (log 5: DESIGN CHOICE). -/
namespace Sys2Proof

def isContext (c : Nat) : Bool := c < 64
def isRingNo (r : Nat) : Bool := r < 6
def isGraphId (g : Nat) : Bool := g < 4096
def isStream (s : Nat) : Bool := s < 16
def isBank (b : Nat) : Bool := b < 64
def isLaunchSlot (s : Nat) : Bool := s < 1024
def isNodeIndex (g : Nat) : Bool := g < 1048576
/-- An engine: a leaf reference (R27). -/
def isLeafRef (l : Nat) : Bool := l < 65536
def isPtag (t : Nat) : Bool := t < 4
def isOpSlot (j : Nat) : Bool := j < 8
def isRegion (r : Nat) : Bool := r < 16
def isLinkPort (p : Nat) : Bool := p < 32
/-- A circular region: the region in bits [11:8], the index in bits [7:0] (R216). -/
def isCreg (i : Nat) : Bool := i < 4096
def isSignalNo (i : Nat) : Bool := i < 8192
def isMuBank (site bank : Nat) : Bool := site < 4096 && bank < 8
/-- An access size of R6. -/
def isAccessSize (n : Nat) : Bool := n == 4 || n == 8

/-- An access size where the access goes; the DCP's are those of its loads and stores (log 95: DESIGN CHOICE). -/
def RegAddr.sizeOk (n : Nat) : RegAddr → Bool
  | .host _ => isAccessSize n
  | .dcp _ => isAccessSize n || n == 1 || n == 2

def FallowTask.wf : FallowTask → Bool
  | .packet ptag => isPtag ptag
  | .stat g => isNodeIndex g

def Disp.wf : Disp → Bool
  | .root => true
  | .region r => isRegion r

def PairObj.wf : PairObj → Bool
  | .signal i => isSignalNo i
  | .creg i => isCreg i

def Gate.wf : Gate → Bool
  | .doze => true
  | .counterBanks => true
  | .mu site bank => isMuBank site bank

/-- A word of a store lies in that store. -/
def Stored.wf : Stored → Bool
  | .node g => isNodeIndex g
  | .edge e => e < 4194304
  | .descriptor off => off % 128 == 0
  | .trace e => e < 131072
  | .event ev => ev < 262144
  | .gaz idx => idx < 1048576
  | .entry _ slot => isLaunchSlot slot
  | .token leaf q e => isLeafRef leaf && q < 8 && e < 8
  | .signal i => isSignalNo i
  | .creg i => isCreg i
  | .tag q t => q < 1024 && t < 65536
  | .ring c => isContext c
  | .mapLine _ line => line < 262144
  | .sram a => a < 32768

def Hit.wf (h : Hit) : Bool := h.word.wf

def hitsWf (hs : List Hit) : Bool := hs.all Hit.wf

/-- A command whose operands all name something. -/
def Instr.wf : Instr → Bool
  | .nop c | .loadGraph c | .unloadGraph c | .patchGraph c | .launch c | .recordEvent c | .fence c | .writeTable c
  | .setMode c | .serviceStart c | .serviceStop c | .completionEntry c | .completionWriteAck c | .irqHoldExpiry c
  | .mboxDoorbell c | .openCtx c | .close c | .query c | .quiesce c | .undefinedMessage c | .monCtx c => isContext c
  | .cplRingConfig c _ _ | .cplHeadWrite c _ | .ctxCancel c _ | .fePost c _ => isContext c
  | .waitEvent c hs | .signal c hs => isContext c && hitsWf hs
  | .recordEventApply c r hs => isContext c && isRingNo r && hitsWf hs
  | .waitEventTimeout c r | .ringFetchReturn c r | .stopReq c r | .ringResume c r => isContext c && isRingNo r
  | .ringDoorbell c r _ | .ringEnable c r _ | .ringDisable c r _ => isContext c && isRingNo r
  | .graphImageRead gid => isGraphId gid
  | .ringFetchRead hs | .contributionApply hs | .traceSpillWrite hs => hitsWf hs
  | .chainPreset s _ | .chainAdvance s _ => isStream s
  | .counterRead _ size _ => isAccessSize size
  | .registerWrite a size _ => a.sizeOk size
  | .registerRead a size rd => a.sizeOk size && hitsWf rd.hits
  | .routeConfigWrite off _ => [0x118, 0x120, 0x128, 0x130].contains off
  | .startScan slot | .conservationSweep slot | .launchCompletionReturn slot | .monLaunch slot => isLaunchSlot slot
  | .dec b hs | .evt b hs | .decEvt b hs | .cancel b hs => isBank b && hitsWf hs
  | .readyEntryEnter b => isBank b
  | .scrubRead _ unit word _ => isBank unit && word < 16384
  | .edgeWalk w hs => w < 64 && hitsWf hs
  | .descriptorFill off _ => off % 128 == 0
  | .placement disp hs => disp.wf && hitsWf hs
  | .childLaunch g | .affinityWaitExpiry g | .waitTimeout g | .statControlBlock g | .rowFinish g | .statEnd g => isNodeIndex g
  | .packetNotice l | .takenReport l | .creditReturn l | .heartbeat l | .hang l | .read l _ | .idleTimeout l | .mark l
  | .rewind l | .monPcs l => isLeafRef l
  | .release l t _ _ | .claim l t _ _ | .unclaim l t _ => isLeafRef l && isPtag t
  | .send l op _ _ _ => isLeafRef l && isPtag op.ptag && (op.code = 0 || 10 ≤ op.code.toNat)
  | .recv l t q _ hs => isLeafRef l && isPtag t && q < 8 && hitsWf hs
  | .raise l t _ _ hs => isLeafRef l && isPtag t && hitsWf hs
  | .take l t _ _ _ hs => isLeafRef l && isPtag t && hitsWf hs
  | .crAcquire l t i _ hs | .crCommit l t i _ hs | .crDrain l t i _ hs => isLeafRef l && isPtag t && isCreg i && hitsWf hs
  | .crWait l t i _ _ hs => isLeafRef l && isPtag t && isCreg i && hitsWf hs
  | .recvTimeout l j | .takeTimeout l j | .crWaitTimeout l j => isLeafRef l && isOpSlot j
  | .resultDelivery q t => q < 1024 && t < 65536
  | .tokenScore slot chan => isLaunchSlot slot && chan < 8
  | .tileBlockAck slot chan _ => isLaunchSlot slot && chan < 8
  | .gazetteerLookup base expert hs => base + expert < 1048576 && hitsWf hs
  | .stagingSlotTake idx => idx < 1048576
  | .rebaseSweep o | .rebase o | .rebaseComplete o => o.wf
  | .muBankFallow b _ => isMuBank b.site b.bank
  | .muBankWake site bank => isMuBank site bank
  | .fallowAccess site bank l t => isMuBank site bank && isLeafRef l && t.wf
  | .pwrGateAck g => g.wf
  | .linkFrame p _ | .linkRetransmitRequest p _ | .linkConfirmation p _ | .linkConfirmSend p | .linkConfirmTimeout p
  | .linkUpChange p _ => isLinkPort p
  | .setModeApply | .stepWrite _ | .linkKeyWrite _ | .linkKeyApply | .svcReqTail _ | .svcResHead _ | .surveyStart _
  | .replayCfgWrite _ _ | .replayHeadWrite _ | .traceSpillHeadWrite _ | .mapBaseWrite _ _ | .ltReqPost _ | .ltRetPop
  | .inspect | .fsFree _ | .fsHealthWrite _ | .hedgeWrite _ _ _ | .monTx _ | .monRxRead | .trPost _ | .pwrReq _
  | .bootComplete _ _ | .mgtBootStart | .mgtBootData _ | .bootBlockTimeout | .bootInitDone | .post _ _ | .fwImageRead _ _
  | .fwVerifyResult _ | .fwStartTimeout | .mgtTimeWrite _ _ | .mgtSigDataRead | .mgtSigAck | .mgtDrain | .mgtQuickSurvey
  | .mgtFullSurvey | .mgtWake | .readOut _ _ _ | .uartRxChar _ | .monBadLine | .monHelp | .monId | .monHealth | .monFault _
  | .monHedge | .monCount _ | .monParcel _ | .monFallow | .monTrace _ | .monDrain | .monSurveyQuick | .monSurveyFull
  | .monBaud _ | .por | .sysReset | .dntReset | .resetRelease _ _ _ | .freeze | .freezeRelease | .releaseWatchFire
  | .sectionEndFire | .expiryFire | .admissionFire | .tsBack _ | .completionReport _ | .checkIntervalClose
  | .intervalCompare _ _ | .faultServe | .dupCompareMismatch _ _ _ | .lockstepMismatch _
  | .tokenArrival _ | .tokenAck _ | .logitChunk _ | .evalRequest _ | .evalResult | .serviceRequestTake _ | .stepBoundary
  | .batchTableAck | .stepCompletion _ | .drainOrder | .drainWaitExpiry | .drained | .surveyEnd _ _ | .samplingTick _
  | .lossRecord | .replayDrain | .dozeEntry | .dozeWakeSource | .wakeComplete | .counterBankFallow
  | .memoryReadResponse _ _ _ _ | .writeAck _ _ _ | .mgtStatusRead _ | .uartTxChar => true

end Sys2Proof
end

