-- ==== Sys2Proof/Certificates/Slice0/Obligations.lean ====
section
/-! DEFINITION. The statements for the provers. Most say what a command completes with: the state that `exec` answers is written out
through the block's named operations (Machine/), under hypotheses on the state and the operands alone. -/

open Sys2Proof Sys2Proof.Machine

/-! ## The step and the gates -/

/-- A step with a command waiting is `exec` of the front command on the state whose queue is the rest. -/
def Obligations.StepRunsFrontCommand : Prop :=
  ∀ (c : Instr) (rest : List Instr) (s : State), s.pending = c :: rest → step s = exec c { s with pending := rest }

/-- Every command, in every state, answers a next state: the block itself never stops. -/
def Obligations.EveryCommandAnswersNext : Prop :=
  ∀ (c : Instr) (s : State), ∃ t, exec c s = .next t ∧ t.pending = s.pending

/-- A step on an empty queue is one dispatch cycle: FC counts exactly it while the dispatch clock runs, and in DOZE, in reset
and while frozen FC stands still; the timestamp goes on by at most 2, and in reset and while frozen nothing changes (R165, R391,
R405, R416, R423; that an empty queue is a cycle is the model's choice, log 2, the timestamp's steps log 3). -/
def Obligations.IdleStepIsOneCycle : Prop :=
  ∀ s : State, s.pending = [] → ∃ t, step s = .next t ∧ t.pending = [] ∧ t.m.cfg = s.m.cfg ∧
    t.m.d.fc = s.m.d.fc + (if s.m.cfg.clocked then 1 else 0) ∧ (t.m.d.ts - s.m.d.ts).toNat ≤ 2 ∧
    (s.m.cfg.inReset = true ∨ s.m.cfg.frozen = true → t = s.with s.fresh)

/-- Where Denut is in reset, frozen, in DOZE or not yet booted, no command of the data plane or the front end changes anything
but the transfers presented by the command before it (R391, R399, R405, R423). -/
def Obligations.NothingServedOutsideService : Prop :=
  ∀ (c : Instr) (s : State), IsServed c → s.m.cfg.serving = false → exec c s = .next (s.with s.fresh)

/-! ## Commands of the submission rings -/

/-- NOP completes on being taken and posts no entry; FENCE holds its ring until its condition holds; SET_MODE is queued and
holds its ring (R291, R295). SET_MODE_APPLY: with no launch in flight and room for its replay record, the oldest SET_MODE is
applied when it is legal, and DNT_MODE takes the value that MODE and MASK give; refused, DNT_MODE stands. Setting DET starts the
log where none is under way, clearing it or a refusal of it ends it (R295, R325; the late start of a log is the model's choice,
log 113). With a launch in flight it waits. -/
def Obligations.ModeAndFenceCommands : Prop :=
  (∀ (s : State) (c : Nat) (q : Req), s.serving →
      (frontOp s.fresh c 0 = some q → exec (.nop c) s = .next (s.served (dropReq s.fresh q))) ∧
      (frontOp s.fresh c cFence = some q → exec (.fence c) s = .next (s.served
        (fenceCheck (holdRing (setStage (takeReq s.fresh q) q.id (.fence (opn q.ops 16 1 = 1))) q.id)))) ∧
      (frontOp s.fresh c cMode = some q → ∃ d, exec (.setMode c) s = .next (s.served d) ∧
        d.ls.modes = s.m.d.ls.modes ++ [{ id := q.id, mode := w32 (opn q.ops 16 4), mask := w32 (opn q.ops 20 4) }] ∧
        d.lt.reqs = dropFirst (· = q) s.m.d.lt.reqs ∧ d.lt.rets = s.m.d.lt.rets)) ∧
  (∀ (s : State) (m : ModeReq) (rest : List ModeReq), s.serving → s.m.d.ls.modes = m :: rest →
      let k := s.m.cfg
      let n := newMode k m
      let d := { s.fresh with ls := { s.m.d.ls with modes := rest } }
      let late := lateStart k s.fresh m
      (noLaunch s.fresh = false → exec .setModeApply s = .next (s.served s.fresh)) ∧
      (noLaunch s.fresh = true → (late = true → rpFits s.fresh 1 false = true) → (late = false → rpRoom s.fresh 1 false = true) →
        (∀ st, modeRefused k d m = some st → exec .setModeApply s = .next (s.served (finish
          (if d.rp.recording && !k.det && bit n 0 then logStop d m.id st k.modeWord else d) m.id cMode st k.modeWord))) ∧
        (modeRefused k d m = none → exec .setModeApply s = .next (s.servedBlock
          { cfg := { k with det := bit n 0, cblk := bits n 4 4, shfrac := bits n 8 3 },
            d := finish (traceState k (if late then logStart k d m.id.c m.id.r n
              else if d.rp.recording && k.det && !bit n 0 then logStop d m.id .ok n else d) 4 n k.modeWord) m.id cMode .ok n }))))

/-- LOAD_GRAPH holds its identifier and reads its image's header, PATCH_GRAPH reads its image's header, UNLOAD_GRAPH marks its
graph and refuses a patch of it that is still being read; a LOAD_GRAPH of an identifier in use, an UNLOAD_GRAPH or PATCH_GRAPH of
one that is not resident is refused with BAD_DESCRIPTOR; a patch beyond four live epochs waits (R35, R38, R61, R64, R70, R451).
GRAPH_IMAGE_READ: of a load, a header that obeys R34 has the rest of its image read, a body that obeys R36 is accepted; of a
patch, a header of Table 2.11 has the entries read, or with none the next epoch is made, and the entries make it; the image's
digest is given to the replay record; a fault of the header or the body refuses the command with BAD_DESCRIPTOR, an error
response with ECC_UNCORR (R34, R36, R61, R326, R451). -/
def Obligations.GraphCommands : Prop :=
  (∀ (s : State) (c : Nat) (q : Req), s.serving →
      let k := s.m.cfg
      let gid := gidOf q.ops
      let addr := w64 (opn q.ops 24 8)
      let d := takeReq s.fresh q
      (frontOp s.fresh c cLoad = some q →
        let key := graphKey k d q.ops
        (tget s.m.d.gs.graphs gid = none → exec (.loadGraph c) s = .next (s.served (imageRequest k
          (putGraph key.2 gid (Graph.loading q.id addr key.1 (k.health == .survey && fromFirmware key.2 q)))
          (ImageLoad.start q.id addr 64) (.graphHdr gid)))) ∧
        ((tget s.m.d.gs.graphs gid).isSome → exec (.loadGraph c) s = .next (s.served
          (finish key.2 q.id cLoad .badDescriptor key.1.toNat)))) ∧
      (frontOp s.fresh c cUnload = some q →
        (∀ g, tget s.m.d.gs.graphs gid = some g → g.st = .resident → g.patch = none →
          exec (.unloadGraph c) s = .next (s.served (unloadCheck k (putGraph d gid
            { g with st := .unloading, patch := none, unload := some q.id }) gid))) ∧
        (∀ g x, tget s.m.d.gs.graphs gid = some g → g.st = .resident → g.patch = some x →
          exec (.unloadGraph c) s = .next (s.served (unloadCheck k (putGraph
            (patchRefuse (dropRead (dropRead d (.patchHdr gid)) (.patchBody gid)) gid g x.id .badDescriptor) gid
            { g with st := .unloading, patch := none, unload := some q.id }) gid))) ∧
        ((∀ g, tget s.m.d.gs.graphs gid = some g → g.st ≠ .resident) →
          exec (.unloadGraph c) s = .next (s.served (finish d q.id cUnload .badDescriptor 0)))) ∧
      (frontOp s.fresh c cPatch = some q →
        (∀ g, tget s.m.d.gs.graphs gid = some g → g.st = .resident → g.epochs.length < 4 → g.patch = none →
          exec (.patchGraph c) s = .next (s.served (imageRequest k (putGraph d gid
            { g with patch := some (ImageLoad.start q.id addr 16) }) (ImageLoad.start q.id addr 16) (.patchHdr gid)))) ∧
        (∀ g, tget s.m.d.gs.graphs gid = some g → g.st = .resident → (4 ≤ g.epochs.length ∨ g.patch.isSome) →
          exec (.patchGraph c) s = .next (s.served (blockReq s.fresh q))) ∧
        ((∀ g, tget s.m.d.gs.graphs gid = some g → g.st ≠ .resident) →
          exec (.patchGraph c) s = .next (s.served (finish d q.id cPatch .badDescriptor 0))))) ∧
  (∀ (s : State) (gid : Nat) (g : Graph) (x : ImageLoad), s.serving → tget s.m.d.gs.graphs gid = some g → x.ready = true →
      let k := s.m.cfg
      let h := x.bytes.take 64
      let b := x.bytes.drop 64
      let read (d : Dyn) := exec (.graphImageRead gid) s = .next (s.served d)
      (g.load = some x →
        (x.bad = true → read (loadRefuse s.fresh gid g x.id .eccUncorr)) ∧
        (x.bad = false → x.header = true → graphHeaderOk h = false → read (loadRefuse s.fresh gid g x.id .badDescriptor)) ∧
        (x.bad = false → x.header = true → graphHeaderOk h = true →
          let y := { x with header := false, want := leAt h 40 8 }
          read (imageRequest k (putGraph s.fresh gid { g with load := some y }) y (.graphBody gid))) ∧
        (x.bad = false → x.header = false →
          let d := rpImg s.fresh x.id (digBytes x.bytes)
          (imageOk k d g.survey (imageDescs h b) (imageEdges h b) = true → read (loadAccept k d gid g x.id h b)) ∧
          (imageOk k d g.survey (imageDescs h b) (imageEdges h b) = false → read (loadRefuse d gid g x.id .badDescriptor)))) ∧
      (g.load = none → g.patch = some x →
        let h := x.bytes.take 16
        let n := leAt h 8 4
        let ok : Prop := leAt h 0 4 = 0x48504E44 ∧ leAt h 4 2 = 3 ∧ leAt h 6 2 = 0 ∧ leAt h 12 4 = 0 ∧ n ≤ 65536
        (x.bad = true → read (patchRefuse s.fresh gid g x.id .eccUncorr)) ∧
        (x.bad = false → x.header = true → ¬ ok → read (patchRefuse s.fresh gid g x.id .badDescriptor)) ∧
        (x.bad = false → x.header = true → ok → n = 0 →
          read (patchApply k (rpImg s.fresh x.id (digBytes h)) gid g x.id 0 [])) ∧
        (x.bad = false → x.header = true → ok → n ≠ 0 →
          let y := { x with header := false, want := 16 + 136 * n }
          read (imageRequest k (putGraph s.fresh gid { g with patch := some y }) y (.patchBody gid))) ∧
        (x.bad = false → x.header = false →
          read (patchApply k (rpImg s.fresh x.id (digBytes x.bytes)) gid g x.id n (x.bytes.drop 16)))))

/-- LAUNCH, with a graph, a slot, rows and a reserve to be had, is taken whole; it waits at the head of its ring while new launches
are held, the chip takes none, or no slot, rows or reserve are free; a graph that is absent or not resident refuses it with
BAD_DESCRIPTOR, a damaged one with ECC_UNCORR, under DET a racing one with DETERMINISM, and an epoch that is not live with
EPOCH_RETIRED (R54, R65, R85, R295, R313, Table 12.4, Table 12.7). -/
def Obligations.LaunchTaken : Prop :=
  ∀ (s : State) (c : Nat) (q : Req), s.serving → frontOp s.fresh c cLaunch = some q →
    let k := s.m.cfg
    let w := wantLaunch q
    let refused (st : Status) := exec (.launch c) s = .next (s.served (refuseLaunch k (takeReq s.fresh q) q st))
    ((launchesHeld k s.fresh = true ∨ takesLaunch k s.fresh q = false ∨ rpRoom s.fresh 1 false = false) →
      exec (.launch c) s = .next (s.served (blockReq s.fresh q))) ∧
    (launchesHeld k s.fresh = false → takesLaunch k s.fresh q = true → rpRoom s.fresh 1 false = true →
      (∀ g e slot row, admitLaunch k s.fresh w = .ok (g, e, slot, row) → exec (.launch c) s = .next (s.served
        (startLaunch k (takeReq s.fresh q) w g e slot row (opn q.ops 24 8)))) ∧
      (admitLaunch k s.fresh w = .error .waits → exec (.launch c) s = .next (s.served (blockReq s.fresh q))) ∧
      (listsOpen k s.fresh = true →
        ((∀ g, tget s.m.d.gs.graphs (gidOf q.ops) = some g → g.st ≠ .resident) → refused .badDescriptor) ∧
        (∀ g, tget s.m.d.gs.graphs (gidOf q.ops) = some g → g.st = .resident →
          (g.damaged = true → refused .eccUncorr) ∧
          (g.damaged = false → k.det = true → g.racing = true → refused .determinism) ∧
          (g.damaged = false → (k.det && g.racing) = false → pinEpoch g w = none → refused .epochRetired))))

/-- Events: a RECORD_EVENT whose identifier has been looked up is deferred and tried, and a 65th deferred one of its ring waits;
RECORD_EVENT_APPLY writes the value once no earlier command of the ring is left, and the waits are tried; an event in error ends
it with ECC_UNCORR; WAIT_EVENT waits in its ring, and when its time-out has passed ends with TIMEOUT and the value observed, the
ring running on with ONTO outside DET and stopping otherwise. A lookup that must read its line waits; an identifier without a
mapping is refused with NO_ROUTE (R213, R293, R313, Table 12.4; when the time-out counts from is the model's reading, log 114). -/
def Obligations.EventCommands : Prop :=
  ∀ (s : State) (c r : Nat) (hits : List Hit), s.serving → Clean hits →
    let k := s.m.cfg
    let look (q : Req) := mapLookup k true s.fresh (mapKey c (opn q.ops 16 2))
    (∀ q d, frontOp s.fresh c cRecord = some q → look q = (none, d) → exec (.recordEvent c) s = .next (s.served d)) ∧
    (∀ q v d, frontOp s.fresh c cRecord = some q → look q = (some v, d) →
      (evtOf v = none → exec (.recordEvent c) s = .next (s.served (finish (takeReq d q) q.id cRecord .noRoute 0))) ∧
      (evtOf v ≠ none → (recordsOf d c q.id.r).length < 64 → exec (.recordEvent c) s = .next (s.served
        (recordEventApply c q.id.r k (setStage (takeReq d q) q.id .record)))) ∧
      (evtOf v ≠ none → 64 ≤ (recordsOf d c q.id.r).length → exec (.recordEvent c) s = .next (s.served (blockReq d q)))) ∧
    (∀ x, minBy Cmd.seq (recordsOf s.fresh c r) = some x →
      (firstOfRing s.fresh x = false → exec (.recordEventApply c r hits) s = .next (s.served s.fresh)) ∧
      (∀ ev, firstOfRing s.fresh x = true → eventOf s.fresh x.id.c x.event = some ev →
        (ev ∉ s.m.d.sg.evEcc → exec (.recordEventApply c r hits) s = .next (s.served (waitsCheck (finish
          { s.fresh with sg := { s.m.d.sg with events := tset s.m.d.sg.events ev (w64 (opn x.ops 24 8)) 0 } } x.id cRecord .ok 0)))) ∧
        (ev ∈ s.m.d.sg.evEcc → exec (.recordEventApply c r hits) s = .next (s.served (finish s.fresh x.id cRecord .eccUncorr 0)))) ∧
      (firstOfRing s.fresh x = true → eventOf s.fresh x.id.c x.event = none →
        exec (.recordEventApply c r hits) s = .next (s.served (finish s.fresh x.id cRecord .noRoute 0)))) ∧
    (∀ q d, frontOp s.fresh c cWait = some q → look q = (none, d) → exec (.waitEvent c hits) s = .next (s.served d)) ∧
    (∀ q v d, frontOp s.fresh c cWait = some q → look q = (some v, d) →
      (evtOf v ≠ none → exec (.waitEvent c hits) s = .next (s.served (waitsCheck (holdRing (setStage (takeReq d q) q.id
        (.wait (w32 (opn q.ops 20 4)) (opn q.ops 18 1 = 1) (w64 (opn q.ops 24 8)) (takeReq d q).ts)) q.id)))) ∧
      (evtOf v = none → ∃ value, exec (.waitEvent c hits) s = .next (s.served
        (finish (useFree (takeReq d q) 1) q.id cWait .noRoute value)))) ∧
    (∀ (x : Cmd) t onto v since ev, ringWaiter s.fresh c r = some x → x.stage = .wait t onto v since →
      eventOf s.fresh c x.event = some ev →
      (t ≠ 0 ∧ reached s.m.d.ts (since + w64 (t.toNat * 1000)) = true) ∧
      exec (.waitEventTimeout c r) s = .next (s.served
        (if onto && !k.det then waitEnds (useFree s.fresh 1) x .timeout (eventValue s.fresh ev)
         else timeoutStop (waitEnds (useFree s.fresh 1) x .timeout (eventValue s.fresh ev)) c r))) ∧
    (ringWaiter s.fresh c r = none → exec (.waitEventTimeout c r) s = .next (s.served s.fresh))

/-- SIGNAL: a mapped identifier's counter is raised by N, which serves the waiting TAKEs, and the command completes OK, or with
RANGE_FAULT where RAISED − TAKEN would reach 2^32, or with ECC_UNCORR of a counter in error; while a rebase holds the counter it waits; a lookup
that must read its line waits; an identifier without a mapping makes a record of MECH 0x10 and completes with NO_ROUTE, and waits
while an earlier such record waits (R170, R213, R214, Table 12.12). -/
def Obligations.SignalCommand : Prop :=
  ∀ (s : State) (c : Nat) (hits : List Hit) (q : Req), s.serving → Clean hits → frontOp s.fresh c cSignal = some q →
    let k := s.m.cfg
    let id := opn q.ops 16 2
    let n := opn q.ops 18 2
    let ends (d : Dyn) (st : Status) := exec (.signal c hits) s = .next (s.served (finish (takeReq d q) q.id cSignal st 0))
    (unitWaits s.fresh 0x10 (rootUnit 7) = true → exec (.signal c hits) s = .next (s.served (blockReq s.fresh q))) ∧
    (unitWaits s.fresh 0x10 (rootUnit 7) = false →
      (∀ d, mapLookup k false s.fresh (mapKey c id) = (none, d) → exec (.signal c hits) s = .next (s.served d)) ∧
      (∀ v d, mapLookup k false s.fresh (mapKey c id) = (some v, d) →
        (sigOf v = none → ends (sigFault k d c id) .noRoute) ∧
        (∀ i, sigOf v = some i →
          let x := getSig d i
          (rebasing d (.signal i) = true → exec (.signal c hits) s = .next (s.served (blockReq d q))) ∧
          (rebasing d (.signal i) = false → x.ecc = true → ends d .eccUncorr) ∧
          (rebasing d (.signal i) = false → x.ecc = false → n = 0 → ends d .ok) ∧
          (rebasing d (.signal i) = false → x.ecc = false → n ≠ 0 → 2 ^ 32 ≤ dist32 x.taken x.raised + n → ends d .rangeFault) ∧
          (rebasing d (.signal i) = false → x.ecc = false → n ≠ 0 → dist32 x.taken x.raised + n < 2 ^ 32 →
            ends (serveSig (setSig d i { x with raised := x.raised + w32 n }) i) .ok))))

/-- WRITE_TABLE waits at the head of its ring while the data plane must drain for it, is refused with BAD_DESCRIPTOR for a table,
form or range that does not exist, and reads its source image; with the image read and every entry accepted all entries are
written and the command completes OK; a refused entry leaves the table alone, and the status and the first refused index are
returned; an error response refuses it with ECC_UNCORR (R294, R314, Table 12.4). A refusal's VALUE without an entry is a free
value. -/
def Obligations.TableWritten : Prop :=
  ∀ (s : State) (c : Nat) (q : Req), s.serving → frontOp s.fresh c cTable = some q →
    let k := s.m.cfg
    let t := opn q.ops 16 1
    let cnt := opn q.ops 18 2
    let use : RdUse := .table q.id
    let known : Prop := t ≤ 9 ∧ (t = 9 ∨ opn q.ops 17 1 = 0) ∧ tableRange t cnt (opn q.ops 20 4) = true
    let answers (d : Dyn) := exec (.writeTable c) s = .next (s.served d)
    (tableDrains k s.fresh t = true → answers (blockReq s.fresh q)) ∧
    (tableDrains k s.fresh t = false →
      (¬ known → answers (tableRefuse s.fresh q .badDescriptor)) ∧
      (known → (∀ j ∈ s.m.d.bus.reads, j.use ≠ use) → answers (busRead k s.fresh (opn q.ops 24 8) (tableBytes t cnt) use)) ∧
      (known → (∃ j ∈ s.m.d.bus.reads, j.use = use) → readDone s.fresh use = none → answers s.fresh) ∧
      (∀ j, known → readDone s.fresh use = some j →
        let b := j.data.getD []
        let d0 := rpImg s.fresh q.id (digBytes b)
        let clear (d : Dyn) := takeReq (dropRead d use) q
        (j.err = true → answers (tableRefuse (dropRead s.fresh use) q .eccUncorr)) ∧
        (j.err = false →
          (∀ d, tableWrite k d0 c q.ops b = .ok d → answers (finish (clear d) q.id cTable .ok 0)) ∧
          (∀ st v, tableWrite k d0 c q.ops b = .refuse st v → answers (finish (clear d0) q.id cTable st v)) ∧
          (∀ d, tableWrite k d0 c q.ops b = .waits d → answers (blockReq d q)))))

/-- SERVICE_START, its graph resident and no service running, reads its block, and with a legal block the service runs; an illegal
one, a graph that is absent or not resident, or a service already running refuses it with BAD_DESCRIPTOR, under DET a racing graph
with DETERMINISM, an error response with ECC_UNCORR; without room for its replay record it waits (R305, R313, R328). SERVICE_STOP
with no service running completes at once with STEP, and otherwise ends admission (R310). -/
def Obligations.ServiceStartStop : Prop :=
  ∀ (s : State) (c : Nat) (q : Req), s.firmware →
    let k := s.m.cfg
    let use : RdUse := .svcBlock q.id
    let starts (d : Dyn) := exec (.serviceStart c) s = .next (s.served d)
    (frontOp s.fresh c cSvcStart = some q →
      (tget s.m.d.gs.graphs (gidOf q.ops) = none → starts (svcRefuse s.fresh q .badDescriptor)) ∧
      (∀ g, tget s.m.d.gs.graphs (gidOf q.ops) = some g →
        ((s.m.d.sv.run = true ∨ g.st ≠ .resident) → starts (svcRefuse s.fresh q .badDescriptor)) ∧
        (s.m.d.sv.run = false → g.st = .resident → k.det = true → g.racing = true → starts (svcRefuse s.fresh q .determinism)) ∧
        (s.m.d.sv.run = false → g.st = .resident → (k.det && g.racing) = false →
          ((∀ j ∈ s.m.d.bus.reads, j.use ≠ use) → starts (busRead k s.fresh (opn q.ops 24 8) 64 use)) ∧
          (∀ j, readDone s.fresh use = some j →
            let w : BitVec 512 := BitVec.ofNat 512 (leNat (j.data.getD []))
            let d := rpImg s.fresh q.id (digBytes (j.data.getD []))
            (j.err = true → starts (svcRefuse s.fresh q .eccUncorr)) ∧
            (j.err = false → rpRoom s.fresh 1 false = false → starts (blockReq s.fresh q)) ∧
            (j.err = false → rpRoom s.fresh 1 false = true →
              (svcBlockOk w = false → starts (svcRefuse d q .badDescriptor)) ∧
              (svcBlockOk w = true → starts (svcRun (takeReq (dropRead d use) q) q w))))))) ∧
    (frontOp s.fresh c cSvcStop = some q →
      (s.m.d.sv.run = false → exec (.serviceStop c) s = .next (s.served
        (finish (takeReq s.fresh q) q.id cSvcStop .ok s.m.d.step.toNat))) ∧
      (s.m.d.sv.run = true → exec (.serviceStop c) s = .next (s.served
        (svcStop k (modSv (takeReq s.fresh q) (fun v => { v with stopCmds := v.stopCmds ++ [q.id] })) (bit q.ops.toNat 0)))))

/-! ## Rings, completions and interrupts -/

/-- RING_FETCH_READ serves the ring that R285 chooses: HEAD short of the snapshot issues a fetch read; HEAD at the snapshot with
no doorbell since makes the ring IDLE; otherwise TAIL is snapshot; outside SERVICE, with 16 reads out or with no ring to serve it
does nothing (R284, R285, Table 12.7). RING_FETCH_RETURN takes the next fetched entry of the ring whose turn it is, in the order
of the reads' returns: HEAD and DSEQ advance by one, its record is staged, and a command whose form holds is posted in the launch
table, in order, holding its ring when it is one that does; a SET_MODE that sets DET starts the log; with no room for the record
or the request the entry waits and the ring is HELD; a wrong DSEQ is a ring error instead (R18, R282, R285, R290, R325, R326). -/
def Obligations.RingEntriesFetched : Prop :=
  ∀ (s : State) (hits : List Hit) (c r : Nat), s.part frontUnit → Clean hits →
    let k := s.m.cfg
    let g := getRing s.m.d c r
    let reads (d : Dyn) := exec (.ringFetchRead hits) s = .next (s.served d)
    let takes (d : Dyn) := exec (.ringFetchReturn c r) s = .next (s.served d)
    (k.fetches = true → ringReads s.fresh < 16 → chooseRing s.fresh ringCount 0 = some (c, r) →
      (g.head ≠ g.snap → reads (fetchIssue k s.fresh c r)) ∧
      (g.head = g.snap → g.tail = g.head → g.pendingDb = false → reads (modRing s.fresh c r (fun g => { g with st := .idle }))) ∧
      (g.head = g.snap → (g.tail ≠ g.head ∨ g.pendingDb = true) → reads (snapshot k s.fresh c r))) ∧
    ((k.fetches = false ∨ 16 ≤ ringReads s.fresh ∨ chooseRing s.fresh ringCount 0 = none) → reads s.fresh) ∧
    (turn s.fresh ≠ some (c, r) → takes s.fresh) ∧
    (∀ f b rest, turn s.fresh = some (c, r) → g.fetch = some f → f.left = b :: rest →
      let e := Entry.ofBytes g.gen b
      let id : CmdId := { c := c, r := r, dseq := e.dseq }
      let refused := !e.formOk || cmdRefused k c g.gen (getCtx s.m.d c).rev e.op e.ops
      let starts := !refused && startsLog k s.fresh e
      let slots := 1 + (if g.gen then 2 else 1)
      let room := (refused || reqRoom s.fresh) && (if starts then rpFits s.fresh (slots + 1) false else rpRoom s.fresh slots false)
      (e.dseq ≠ g.dseq → takes (ringError k s.fresh c r (g.dseq.setWidth 64) e.dseq)) ∧
      (e.dseq = g.dseq → room = false → takes (holdHead s.fresh c r)) ∧
      (e.dseq = g.dseq → room = true →
        let head := g.head + 1
        let d := recordEntry (if starts then logStart k s.fresh c r (modeAfter k e.ops) else s.fresh) id e head b refused
        let d := postCmd (modRing d c r (fun g => { g with head := head, dseq := g.dseq + 1 })) id e head refused
        let d := endRead (modRing d c r (fun g => afterTake d.fc g rest)) c r rest
        ((refused = true ∨ holdsRing e.op = false) → takes d) ∧
        (refused = false → holdsRing e.op = true → takes (holdRing d id))))

/-- COMPLETION_ENTRY: without space in the completion ring nothing is posted; with it, entries of the front end that wait go
first, else the oldest refused command, else the oldest return of the context becomes an entry; a launch's entry carries its
cairn record, and the launch enters the ledger (R290, R297 to R299, R322, R323, R344). The acknowledgement of an entry's write
moves TAIL on and counts the entry toward its interrupt; once HOLD has passed since the first pending entry the interrupt is
requested for every pending one, and not before; an entry that the firmware stages is kept in FE_ENTRY and posted to an open
context (R298, R302, R388). -/
def Obligations.CompletionRing : Prop :=
  (∀ (s : State) (c : Nat), s.part frontUnit →
      let k := s.m.cfg
      let posts (d : Dyn) := exec (.completionEntry c) s = .next (s.served d)
      let first := minBy Cmd.seq (s.m.d.fe.cmds.filter (fun x => x.id.c = c && x.stage == .refused))
      (cplRoom s.fresh c = false → posts s.fresh) ∧
      (cplRoom s.fresh c = true → (∃ p ∈ s.m.d.fe.posts, p.1 = c) → posts (flushPosts k s.fresh c)) ∧
      (cplRoom s.fresh c = true → (∀ p ∈ s.m.d.fe.posts, p.1 ≠ c) →
        (∀ x, first = some x → posts (postRefused k s.fresh x)) ∧
        (first = none → retFor s.fresh c = none → posts s.fresh) ∧
        (∀ r, first = none → retFor s.fresh c = some r →
          (r.kind = 1 → posts (postNotify k s.fresh r)) ∧
          (r.kind ≠ 1 → s.m.d.fe.cmds.find? (fun x => x.id = r.id && x.stage ≠ .refused) = none → posts (markRet s.fresh r)) ∧
          (∀ x, r.kind ≠ 1 → s.m.d.fe.cmds.find? (fun x => x.id = r.id && x.stage ≠ .refused) = some x →
            posts (cmdGone (ledgerAdd (postEntry k (markRet s.fresh r) r.id.c
              (BitVec.ofNat 512 (entryWord 0 r.status r.id.dseq r.id.r r.op x.consumed r.value x.userdata
                + (if r.op = cLaunch && (getCtx s.m.d r.id.c).rev = 2 then launchCairn k x r * 2 ^ 256 else 0))) x.irq) r) x))))) ∧
  (∀ (s : State) (c : Nat), s.serving →
      (∀ j idx qual rec, s.m.d.bus.writes.find? (isEntryOf c) = some j → j.use = .completion c idx qual rec →
        exec (.completionWriteAck c) s = .next (s.served (showReads (entryAcked
          { s.fresh with bus := { s.m.d.bus with writes := dropFirst (fun w => w = j) s.m.d.bus.writes } } c idx qual rec)))) ∧
      (s.m.d.bus.writes.find? (isEntryOf c) = none → exec (.completionWriteAck c) s = .next (s.served (showReads s.fresh))) ∧
      (let x := getCtx s.m.d c
       (irqOn x = true → 0 < x.irqPend → irqHold x * 256 ≤ cyclesSince s.fresh x.irqFrom → exec (.irqHoldExpiry c) s = .next (s.served
         (out (modCtx s.fresh c (fun x => { x with irqPend := 0 })) (.msix (irqVector x))))) ∧
       (cyclesSince s.fresh x.irqFrom < irqHold x * 256 → exec (.irqHoldExpiry c) s = .next (s.served s.fresh))) ∧
      (∀ w, s.m.cfg.fwRuns = true →
        let d := { s.fresh with fe := { s.m.d.fe with entry := w } }
        ((getCtx s.m.d c).isOpen = true → exec (.fePost c w) s = .next (s.served (addPost s.m.cfg d c w))) ∧
        ((getCtx s.m.d c).isOpen = false → exec (.fePost c w) s = .next (s.served d))))

/-- The registers of a submission ring of an open context: a doorbell sets TAIL and PENDING and makes an idle ring active; a
doorbell past the ring's size is a ring error; a legal enable of a disabled ring clears HEAD and TAIL, an illegal one leaves it
disabled with ERR 0x0B, and an enable of a ring in use is ignored, with CFG_IGN when it would change GEN or LOG2; a disable takes
effect once nothing of the ring's fetch is left, and so does a stop; a ring that reads STOPPED or DISABLED takes no stop, and only one
that reads STOPPED resumes, but not in the cycle in which its stop takes effect, in which a stop is requested again (R280 to R284,
R300, R384, Table 0.2, Table 12.7). -/
def Obligations.RingRegistersWritten : Prop :=
  ∀ (s : State) (c r : Nat) (v : W32), s.hostOpen → c < 64 → r < 6 → (getCtx s.m.d c).isOpen = true →
    let k := s.m.cfg
    let fc := s.m.d.fc
    let g := getRing s.m.d c r
    let gen := bit v.toNat 8
    let log2 : BitVec 5 := BitVec.ofNat 5 (bits v.toNat 0 5)
    let legal : Prop := 4 ≤ bits v.toNat 0 5 ∧ bits v.toNat 0 5 ≤ 16 ∧ g.base.toNat % 4096 = 0 ∧
      (gen = true → (getCtx s.m.d c).rev ≠ 1) ∧ (getCtx s.m.d c).cplEn = true
    let becomes (i : Instr) (g' : Ring) := exec i s = .next (s.served (modRing s.fresh c r (fun _ => g')))
    ((g.en = false ∨ dist32 g.head v ≤ 2 ^ g.log2.toNat) → becomes (.ringDoorbell c r v)
      { g with tail := v, pendingDb := true, st := if g.st = .idle then .active else g.st }) ∧
    (g.en = true → 2 ^ g.log2.toNat < dist32 g.head v → exec (.ringDoorbell c r v) s = .next (s.served
      (useFree (ringError k s.fresh c r (v.setWidth 64) (headDseq s.fresh g)) 1))) ∧
    (g.en = false → g.st = .disabled →
      (legal → becomes (.ringEnable c r v) { g with
        gen := gen, log2 := log2, en := true, head := 0, tail := 0, snap := 0, err := 0, fetch := none,
        st := if g.pendingDb then .active else .idle }) ∧
      (¬ legal → becomes (.ringEnable c r v) { g with gen := gen, log2 := log2, err := 0x0B }) ∧
      becomes (.ringDisable c r v) { g with gen := gen, log2 := log2 }) ∧
    (g.en = false → g.st ≠ .disabled → becomes (.ringEnable c r v) { g with cfgIgn := true } ∧
      becomes (.ringDisable c r v) { g with cfgIgn := true }) ∧
    (g.en = true →
      becomes (.ringEnable c r v) (if gen = g.gen ∧ log2 = g.log2 then g else { g with cfgIgn := true }) ∧
      becomes (.ringDisable c r v) (ringSettle fc { g with en := false })) ∧
    (g.stopsNow fc = false → ringStill k g = false → g.en = true →
      becomes (.stopReq c r) (if g.st = .stopped ∨ g.st = .disabled then g else ringSettle fc { g with stopReq := true })) ∧
    (g.stopsNow fc = false → ringStill k g = true → becomes (.stopReq c r) g) ∧
    (g.stopsNow fc = true → becomes (.stopReq c r) { g with stopReq := true } ∧ becomes (.ringResume c r) g) ∧
    (g.stopsNow fc = false → ringState k g = .stopped → becomes (.ringResume c r)
      (ringSettle fc { g with st := .active, err := 0, snap := g.head })) ∧
    (ringState k g ≠ .stopped → becomes (.ringResume c r) g)

/-- The registers of an open context's page: CTX_CPL_BASE and CTX_CPL_CFG of a ring not in use, a legal enable clearing its indices,
an illegal one keeping LOG2 alone, and of a ring in use CFG_IGN but for its disable with no submission ring enabled; CTX_CPL_HEAD
within the entries written, and CFG_IGN beyond; CTX_CANCEL, whose cancellation is posted and, with no other request in the table,
taken at once: the launches it names fail with CANCELLED, or MISS is set; a closed context's page takes none of these. The mailbox
doorbell of any context sets BUSY, and on BUSY the error (R280, R296, R303, R383, R385). -/
def Obligations.ContextRegistersWritten : Prop :=
  ∀ (s : State) (c : Nat), s.hostOpen → c < 64 →
    let k := s.m.cfg
    let x := getCtx s.m.d c
    let writes (i : Instr) (d : Dyn) := exec i s = .next (s.served d)
    (x.isOpen = true → x.cplEn = false →
      (∀ v, writes (.cplRingConfig c true v) (setCtx s.fresh c { x with cplBase := v })) ∧
      (∀ v : W64, v.toNat < 2 ^ 32 →
        let y := { x with cplLog2 := BitVec.ofNat 5 (bits v.toNat 0 5) }
        let legal : Prop := bit v.toNat 31 = true ∧ 4 ≤ bits v.toNat 0 5 ∧ bits v.toNat 0 5 ≤ 16 ∧ x.cplBase.toNat % 4096 = 0
        (legal → writes (.cplRingConfig c false v) (flushPosts k (setCtx (forgetIdx s.fresh c) c
          { y with cplEn := true, cplHead := 0, cplTail := 0, cplNext := 0 }) c)) ∧
        (¬ legal → writes (.cplRingConfig c false v) (setCtx s.fresh c y)))) ∧
    (x.isOpen = true → x.cplEn = true →
      (∀ v, writes (.cplRingConfig c true v) (setCtx s.fresh c { x with cplIgn := true })) ∧
      (∀ v : W64, v.toNat < 2 ^ 32 →
        ((bit v.toNat 31 = false ∧ ∀ r ∈ x.rings, r.2.en = false) → writes (.cplRingConfig c false v)
          (setCtx s.fresh c { x with cplEn := false })) ∧
        ((bit v.toNat 31 = true ∨ ∃ r ∈ x.rings, r.2.en = true) → writes (.cplRingConfig c false v)
          (setCtx s.fresh c { x with cplIgn := true })))) ∧
    (∀ v : W32, x.isOpen = true →
      (dist32 x.cplHead v ≤ dist32 x.cplHead x.cplTail → writes (.cplHeadWrite c v)
        (flushPosts k (setCtx s.fresh c { x with cplHead := v }) c)) ∧
      (dist32 x.cplHead x.cplTail < dist32 x.cplHead v → writes (.cplHeadWrite c v) (setCtx s.fresh c { x with cplIgn := true }))) ∧
    (∀ v : W64, x.isOpen = true → rpRoom s.fresh 1 false = true →
      let all := bit v.toNat 35
      let r := bits v.toNat 32 3
      let d := rpPut s.fresh 0x06 false c r v.toNat [] none
      let d1 := { d with fe := { d.fe with cancels := s.m.d.fe.cancels ++ [cancelReq c all r (w32 v.toNat)] } }
      writes (.ctxCancel c v) d1 ∧
      (s.m.d.lt.reqs = [] → s.m.d.fe.cancels = [] → settleCancels d1 = cancel296 d c all r (w32 v.toNat))) ∧
    (x.isOpen = false → ∀ b v, writes (.cplRingConfig c b v) s.fresh) ∧
    (x.isOpen = false → ∀ v w, writes (.cplHeadWrite c v) s.fresh ∧ writes (.ctxCancel c w) s.fresh) ∧
    (x.mboxBusy = false → writes (.mboxDoorbell c) (setCtx s.fresh c { x with mboxBusy := true, mboxTaken := false })) ∧
    (x.mboxBusy = true → writes (.mboxDoorbell c) (setCtx s.fresh c { x with mboxBusyErr := true }))

/-- The firmware's answers to mailbox messages: OPEN of a closed context with revision 1 or 2 opens it with its page reset and its
maps cleared, of an open one or with another revision is refused, and a FLAGGED chip answers CANCELLED; CLOSE and QUIESCE stop the
rings, CLOSE also cancels the context's launches and stops its service, and they answer once the context's rings stand still and
nothing of it is in flight; QUERY gives the versions; an undefined message is refused; without such a message, or room for its
record, nothing is answered (R213, R293, R303, R310, R326, R383, Table 12.7). -/
def Obligations.MailboxAnswered : Prop :=
  ∀ (s : State) (c : Nat), s.firmware →
    let k := s.m.cfg
    let answers (i : Instr) (d : Dyn) := exec i s = .next (s.served d)
    (∀ d, takeMsg s.fresh c (fun m => m = 1) = some d →
      let x := getCtx d c
      let rev := bits (x.msgWord 1) 0 8
      (k.health = .flagged → answers (.openCtx c) (reply d c .cancelled [])) ∧
      (k.health ≠ .flagged → (x.isOpen = true ∨ (rev ≠ 1 ∧ rev ≠ 2)) → answers (.openCtx c) (reply d c .badDescriptor [])) ∧
      (k.health ≠ .flagged → x.isOpen = false → (rev = 1 ∨ rev = 2) →
        let o := clearMaps k d c
        let e := setCtx (forgetIdx o c) c { pageReset x with isOpen := true, rev := rev, irq := 0 }
        answers (.openCtx c) (reply { e with fe := { e.fe with opened := true } } c .ok [rev + b2n (k.priv c) * 2 ^ 8]))) ∧
    (∀ d, takeMsg s.fresh c (fun m => m = 2) = some d →
      let e := cancelCtx (stopRings d c) c
      let e := if e.sv.run && e.sv.ctx = c then svcStop k e false else e
      let still : Prop := ringsStill e c = true ∧ ctxInflight e c = 0 ∧ (e.sv.run = false ∨ e.sv.ctx ≠ c)
      (¬ still → answers (.close c) e) ∧
      (still →
        let gone := dropWaiting303 (releaseBindings k (forgetIdx e c) c) c
        answers (.close c) (reply (setCtx gone c (pageReset (getCtx gone c))) c .ok []))) ∧
    (∀ d, takeMsg s.fresh c (fun m => m = 3) = some d → answers (.query c) (reply d c .ok [k.fwver.toNat, k.ftv.toNat, 3])) ∧
    (∀ d, takeMsg s.fresh c (fun m => m = 4) = some d →
      let e := stopRings d c
      ((ringsStill e c = true ∧ ctxInflight e c = 0) → answers (.quiesce c) (reply e c .ok [0])) ∧
      ((ringsStill e c = false ∨ ctxInflight e c ≠ 0) → answers (.quiesce c) e)) ∧
    (∀ d, takeMsg s.fresh c (fun m => m = 0 || 5 ≤ m) = some d → answers (.undefinedMessage c) (reply d c .badDescriptor [])) ∧
    (((getCtx s.m.d c).mboxBusy = false ∨ ((getCtx s.m.d c).mboxTaken = false ∧ rpRoom s.fresh 3 false = false)) →
      answers (.openCtx c) s.fresh ∧ answers (.close c) s.fresh ∧ answers (.query c) s.fresh ∧ answers (.quiesce c) s.fresh ∧
        answers (.undefinedMessage c) s.fresh)

/-- The launch table port: a posted request is staged and enters the table behind the others, and with no free entry it is only
staged; a pop takes the oldest return that has not been popped out of the firmware's view (R17, R18, R299, R389, Table 13.22).
Freed returns that have been used leave the table, each with its slot and rows (R453). -/
def Obligations.LaunchTablePort : Prop :=
  ∀ (s : State), s.firmware →
    (∀ w : BitVec 512,
      let n := w.toNat
      let d := { s.fresh with lt := { s.m.d.lt with staged := w } }
      (reqRoom s.fresh = true → exec (.ltReqPost w) s = .next (s.served (postReq d
        { id := { c := bits n 16 6, r := bits n 24 3, dseq := w32 (bits n 32 32) }, svc := bit n 31, op := bits n 0 8,
          ops := BitVec.ofNat 384 (bits n 128 384), held := false }))) ∧
      (reqRoom s.fresh = false → exec (.ltReqPost w) s = .next (s.served d))) ∧
    (∀ pre r rest, s.m.d.lt.rets = pre ++ r :: rest → (∀ x ∈ pre, x.popped = true) → r.popped = false →
      exec .ltRetPop s = .next (s.served { s.fresh with lt := { s.m.d.lt with rets := pre ++ { r with popped := true } :: rest } })) ∧
    ((∀ x ∈ s.m.d.lt.rets, x.popped = true) → exec .ltRetPop s = .next (s.served s.fresh)) ∧
    (∀ (d : Dyn) r rest, d.lt.rets = r :: rest → r.popped = true → (r.fe = true ∨ 2 ≤ r.kind) → (∀ x ∈ rest, x.gone = false) →
      let e := { d with lt := { d.lt with rets := rest } }
      (r.slot = none → reapRets d = e) ∧
      (∀ n l, r.slot = some n → tget d.ls.slots n = some l → l.inFlight = false →
        reapRets d = freeRows { e with ls := { e.ls with slots := tdel e.ls.slots n } } l))

/-! ## The host register window -/

/-- CHAIN_PRESET of stream i below 16: while a watch names the stream it sets the preset-refused flag; else it is applied with its
replay record, or dropped where that record finds no room, and a stream above 15 names nothing (R150, R328, R371). STEP: ignored while
a service runs; else applied with its record, or dropped without room (R372, R328). SVC_REQ_TAIL: ignored while no service runs; within
the ring's size it moves TAIL and asks for the pass of R284; past it the service stops, and a BAD_DESCRIPTOR entry with free DSEQ,
SUB and stamp is posted (R373, R420). SVC_RES_HEAD: ignored while no service runs or past TAIL; else HEAD moves and held results
follow. REPLAY_HEAD and TRACE_SPILL_HEAD: a write past TAIL is ignored, of REPLAY_HEAD with HEAD_ERR; else HEAD moves, FULL stays only
while the oldest staged record still finds no room, and bits [4:0] of the spill head are ignored (R379, R421). -/
def Obligations.PositionsWritten : Prop :=
  (∀ (s : State) (i : Nat) (v : W64), s.hostOpen →
      let rec8 := rpPut s.fresh 0x08 true 0 i (v.toNat * 2 ^ 64) [] none
      let rec9 := rpPut s.fresh 0x09 true 0 0 (v.toNat * 2 ^ 64) [] none
      (16 ≤ i → exec (.chainPreset i v) s = .next (s.served s.fresh)) ∧
      (i < 16 → streamWatched s.fresh i = true → exec (.chainPreset i v) s = .next (s.served
        { s.fresh with ch := { s.m.d.ch with preref := s.m.d.ch.preref ||| BitVec.ofNat 16 (2 ^ i) } })) ∧
      (i < 16 → streamWatched s.fresh i = false →
        (rpRoom s.fresh 1 true = true → exec (.chainPreset i v) s = .next (s.served
          { rec8 with ch := { rec8.ch with chain := tset rec8.ch.chain i v 0 } })) ∧
        (rpRoom s.fresh 1 true = false → exec (.chainPreset i v) s = .next (s.served
          (dropWrite s.m.cfg s.fresh (0xC00 + 8 * i))))) ∧
      (s.m.d.sv.run = true → exec (.stepWrite v) s = .next (s.served s.fresh)) ∧
      (s.m.d.sv.run = false →
        (rpRoom s.fresh 1 true = true → exec (.stepWrite v) s = .next (s.served { rec9 with step := v })) ∧
        (rpRoom s.fresh 1 true = false → exec (.stepWrite v) s = .next (s.served (dropWrite s.m.cfg s.fresh 0x28))))) ∧
  (∀ (s : State) (v : W32), s.hostOpen →
      let sv := s.m.d.sv
      let rp := s.m.d.rp
      let tr := s.m.d.tr
      let v' := v &&& ~~~(31 : W32)
      let past := entryWord 2 .badDescriptor ((freeW s.fresh 0).setWidth 32) 7 (bits (freeW s.fresh 1).toNat 0 8) sv.reqHead
        (v.setWidth 64) (freeW s.fresh 2)
      (sv.run = false → exec (.svcReqTail v) s = .next (s.served s.fresh) ∧ exec (.svcResHead v) s = .next (s.served s.fresh)) ∧
      (sv.run = true →
        (dist32 sv.reqHead v ≤ 2 ^ sv.reqLog2 → exec (.svcReqTail v) s = .next (s.served
          { s.fresh with sv := { sv with reqTail := v, reqPend := true } })) ∧
        (2 ^ sv.reqLog2 < dist32 sv.reqHead v → exec (.svcReqTail v) s = .next (s.served
          (addPost s.m.cfg (svcStop s.m.cfg (useFree s.fresh 3) false) sv.ctx (BitVec.ofNat 512 past)))) ∧
        (dist32 sv.resHead v ≤ dist32 sv.resHead sv.resTail → exec (.svcResHead v) s = .next (s.served
          (svcTryEnd s.m.cfg (flushResults s.m.cfg sv.results { s.fresh with sv := { sv with resHead := v } })))) ∧
        (dist32 sv.resHead sv.resTail < dist32 sv.resHead v → exec (.svcResHead v) s = .next (s.served s.fresh))) ∧
      (dist32 rp.head v ≤ dist32 rp.head rp.tail → exec (.replayHeadWrite v) s = .next (s.served
        { s.fresh with rp := { rp with head := v, full := rp.full && ringLacks s.m.cfg { rp with head := v } } })) ∧
      (dist32 rp.head rp.tail < dist32 rp.head v → exec (.replayHeadWrite v) s = .next (s.served
        { s.fresh with rp := { rp with headErr := true } })) ∧
      (dist32 tr.spillHead v' ≤ dist32 tr.spillHead tr.spillTail → exec (.traceSpillHeadWrite v) s = .next (s.served
        { s.fresh with tr := { tr with spillHead := v' } })) ∧
      (dist32 tr.spillHead tr.spillTail < dist32 tr.spillHead v' → exec (.traceSpillHeadWrite v) s = .next (s.served s.fresh)))

/-- LINK_KEY: a write pends; LINK_KEY_APPLY does nothing while none pends or a cross-chip token is unacknowledged, and then, with its
replay record or dropped without room for it, ends the wait, after which the held sends go in the order of presentation (R195, R328,
R374). The map bases are written only while no context is open, with both map caches emptied; the routing registers only while no ROUTE
runs and nothing is staged, GAZ_BASE with the gazetteer cache discarded; a refused write sets its flag, and any other offset is no
register of the command (R374). REPLAY_BASE and REPLAY_CFG: CFG_ERR under DET or while recording, and for EN with LOG2 outside 10 to 24;
setting EN from 0 sets both indices to 0 (R379). SURVEY_CTL.START writes MODE, and asks for a drain in SERVICE, starts the survey at once
in DRAINED, and sets REFUSED elsewhere or without reserved storage (R359, R404). -/
def Obligations.ConfigurationWritten : Prop :=
  (∀ (s : State) (v : W64),
      (s.hostOpen → exec (.linkKeyWrite v) s = .next (s.served { s.fresh with lk := { s.m.d.lk with pendKey := some v } })) ∧
      (s.serving →
        (s.m.d.lk.pendKey = none → exec .linkKeyApply s = .next (s.served s.fresh)) ∧
        (∀ key, s.m.d.lk.pendKey = some key →
          let rec0A := rpPut s.fresh 0x0A true 0 0 (key.toNat * 2 ^ 64) [] none
          (crossOut s.m.cfg s.fresh = true → exec .linkKeyApply s = .next (s.served s.fresh)) ∧
          (crossOut s.m.cfg s.fresh = false → rpRoom s.fresh 1 true = true → exec .linkKeyApply s = .next (s.served
            (linkKeyDone s.m.cfg { rec0A with lk := { rec0A.lk with key := key } }))) ∧
          (crossOut s.m.cfg s.fresh = false → rpRoom s.fresh 1 true = false → exec .linkKeyApply s = .next (s.served
            (linkKeyDone s.m.cfg (dropWrite s.m.cfg s.fresh 0x108)))))) ∧
      (s.hostOpen → ∀ evt,
        ((s.m.d.fe.ctxs.any (fun c => c.2.isOpen)) = false → exec (.mapBaseWrite evt v) s = .next (s.servedBlock
          { cfg := if evt then { s.m.cfg with evtMapBase := v } else { s.m.cfg with sigMapBase := v },
            d := { s.fresh with sg := { s.m.d.sg with cache := [], ecache := [] } } })) ∧
        ((s.m.d.fe.ctxs.any (fun c => c.2.isOpen)) = true → exec (.mapBaseWrite evt v) s = .next (s.servedBlock
          { cfg := { s.m.cfg with mapIgn := true }, d := s.fresh }))) ∧
      (s.hostOpen → routesBusy s.fresh = false →
        exec (.routeConfigWrite 0x118 v) s = .next (s.servedBlock
          { cfg := { s.m.cfg with gazBase := v },
            d := gazSkip { s.fresh with rt := { s.m.d.rt with gcache := [] } } (fun _ => true) }) ∧
        exec (.routeConfigWrite 0x120 v) s = .next (s.servedBlock { cfg := { s.m.cfg with stageBase := v }, d := s.fresh }) ∧
        exec (.routeConfigWrite 0x128 v) s = .next (s.servedBlock { cfg := { s.m.cfg with stageSize := v }, d := s.fresh }) ∧
        exec (.routeConfigWrite 0x130 v) s = .next (s.servedBlock
          { cfg := { s.m.cfg with stageSlot := v.setWidth 32 }, d := s.fresh })) ∧
      (s.hostOpen → ∀ off,
        (routesBusy s.fresh = true → (off = 0x118 ∨ off = 0x120 ∨ off = 0x128 ∨ off = 0x130) →
          exec (.routeConfigWrite off v) s = .next (s.servedBlock { cfg := { s.m.cfg with cfgIgn := true }, d := s.fresh })) ∧
        (¬ (off = 0x118 ∨ off = 0x120 ∨ off = 0x128 ∨ off = 0x130) →
          exec (.routeConfigWrite off v) s = .next (s.served s.fresh)))) ∧
  (∀ (s : State), s.hostOpen →
      let free := s.m.cfg.det = false ∧ s.m.d.rp.recording = false
      let log2 (v : W64) := bits v.toNat 8 5
      (∀ base v, ¬ free → exec (.replayCfgWrite base v) s = .next (s.served
        { s.fresh with rp := { s.m.d.rp with cfgErr := true } })) ∧
      (∀ v : W64, bit v.toNat 0 = true → (log2 v < 10 ∨ 24 < log2 v) →
        exec (.replayCfgWrite false v) s = .next (s.served { s.fresh with rp := { s.m.d.rp with cfgErr := true } })) ∧
      (∀ v, free → exec (.replayCfgWrite true v) s = .next (s.servedBlock
        { cfg := { s.m.cfg with replayBase := v }, d := s.fresh })) ∧
      (∀ v : W64, free → (bit v.toNat 0 = true → 10 ≤ log2 v ∧ log2 v ≤ 24) →
        exec (.replayCfgWrite false v) s = .next (s.servedBlock
          { cfg := { s.m.cfg with replayEn := bit v.toNat 0, replayLog2 := BitVec.ofNat 5 (log2 v) },
            d := if bit v.toNat 0 && !s.m.cfg.replayEn then
                { s.fresh with rp := { s.m.d.rp with head := 0, tail := 0, full := false } } else s.fresh })) ∧
      (∀ full, let b : Block := { cfg := { s.m.cfg with surveyMode := full }, d := s.fresh }
        (s.m.cfg.boot.surveySize = 0 → exec (.surveyStart full) s = .next (s.servedBlock (surveyRefused b))) ∧
        (s.m.cfg.boot.surveySize ≠ 0 → s.m.cfg.health = .service →
          exec (.surveyStart full) s = .next (s.servedBlock (askDrain b (some full) none []))) ∧
        (s.m.cfg.boot.surveySize ≠ 0 → s.m.cfg.health = .drained →
          exec (.surveyStart full) s = .next (s.servedBlock (setHealth (startSurvey b full 1 []) .survey))) ∧
        (s.m.cfg.health ≠ .service → s.m.cfg.health ≠ .drained →
          exec (.surveyStart full) s = .next (s.servedBlock (surveyRefused b)))))

/-- The host's reads and writes of the window (R3, R5, R7, R375): an aligned read answers with the register's value and leaves what
readValue says; a counter read whole is cleared, BANK_SKEW with the tallies of BANK_HOT, and its low half latches the high half; an
aligned write that no record keeps waiting acts on its register; past the pages reads answer 0 and writes are ignored. The DCP's accesses
while the firmware runs (R386 to R389, log 95): an address that nothing is assigned to raises the access fault; a system address goes to
the memory port; the local SRAM is read and written by bytes; a register is read at any size and written 4 bytes at a time. A read first
reports the SRAM's words in error and waits while a record of one cannot enter; one that halts the DCP leaves nothing to read. -/
def Obligations.RegistersReadAndWritten : Prop :=
  (∀ (s : State) (off rid : Nat), s.hostOpen →
    (∀ size hits, aligned off size = true →
      let x := readValue s.m.cfg s.fresh off size rid
      exec (.registerRead (.host off) size ⟨rid, hits⟩) s = .next (s.served (out x.2 (.hostRead rid (w64 x.1)))) ∧
      exec (.counterRead off size rid) s = .next (s.served (out x.2 (.hostRead rid (w64 x.1))))) ∧
    (isCounter s.m.cfg off = true → inPages off = false → aligned off 8 = true →
      exec (.counterRead off 8 rid) s = .next (s.served
        (out { s.fresh with cnt := tdel s.m.d.cnt off, bankTally := if off = cBankSkew then [] else s.m.d.bankTally }
          (.hostRead rid (tgetD s.m.d.cnt off 0))))) ∧
    (isCounter s.m.cfg off = true → inPages off = false → aligned off 4 = true → aligned off 8 = true → off ≠ cBankSkew →
      let v := (tgetD s.m.d.cnt off 0).toNat
      exec (.counterRead off 4 rid) s = .next (s.served
        (out { s.fresh with cnt := tdel s.m.d.cnt off, latch := ((rid, off), w32 (v / p32)) ::
            s.m.d.latch.filter (fun e => e.1 ≠ (rid, off)) } (.hostRead rid (w64 (v % p32)))))) ∧
    (∀ size v, aligned off size = true → waitsReplay s.m.d (.write off size v) = false →
      exec (.registerWrite (.host off) size v) s = .next (s.servedBlock (applyWrite s.block off size v))) ∧
    (∀ v : W64, exec (.registerWrite (.host 0x104) 4 v) s = .next (s.servedBlock
      { cfg := { s.m.cfg with hangLimit := BitVec.ofNat 8 (max 2 (v.toNat % 256)) }, d := s.fresh })) ∧
    (∀ size v hits, 0x50000 ≤ off → aligned off size = true →
      exec (.registerRead (.host off) size ⟨rid, hits⟩) s = .next (s.served (out s.fresh (.hostRead rid 0))) ∧
      exec (.registerWrite (.host off) size v) s = .next (s.served s.fresh))) ∧
  (∀ (s : State) (a n rid : Nat), s.m.cfg.fwRuns = true →
    let reads hits b := exec (.registerRead (.dcp a) n ⟨rid, hits⟩) s = .next (s.servedBlock b)
    let writes v b := exec (.registerWrite (.dcp a) n v) s = .next (s.servedBlock b)
    let ans (d : Dyn) := out (useFree d sramBytes) (.dcpData (w64 (dcpValue s.m.cfg s.fresh a n)))
    (∀ hits, Clean hits →
      (dcpReaches a n = false → reads hits { s.block with d := out s.fresh .dcpFault }) ∧
      (dcpReaches a n = true → sysBase ≤ a → reads hits { s.block with d := busReadOn .memory s.fresh (a - sysBase) n .dcp }) ∧
      (dcpReaches a n = true → a < sysBase → a ≠ 0x2100A004 → reads hits { s.block with d := ans s.fresh }) ∧
      (dcpReaches a n = true → a = 0x2100A004 →
        reads hits { s.block with d := ans { s.fresh with mn := { s.m.d.mn with rx := s.m.d.mn.rx.tail } } })) ∧
    (∀ hits, let hs := hits.filter (fun h => h.word = .sram (a / 16) && a < sramBytes)
      let b := hs.foldl sramHit s.block
      let lost := hs.any (fun h => h.res == .uncorrectable)
      (lost = true → summaryFull s.fresh = true → reads hits s.block) ∧
      ((lost = false ∨ summaryFull s.fresh = false) → reads hits (if b.cfg.dcpHalted then b else dcpReadReg a n b))) ∧
    (∀ v, (dcpReaches a n = false → writes v { s.block with d := out s.fresh .dcpFault }) ∧
      (dcpReaches a n = true → sysBase ≤ a →
        writes v { s.block with d := busWriteOn .memory s.fresh (a - sysBase) (leBytes n v.toNat) .dcp }) ∧
      (dcpReaches a n = true → a < sramBytes → writes v { s.block with d := { s.fresh with
        ram := ((upFrom a n).zip (leBytes n v.toNat)).foldl (fun t x => tput t x.1 x.2) s.m.d.ram } }) ∧
      (dcpReaches a n = true → sramBytes ≤ a → a < sysBase →
        (n = 4 → writes v (dcpWrite32 a (v.toNat % p32) s.block)) ∧
        (n = 8 → writes v (dcpWrite32 (a + 4) (v.toNat / p32) (dcpWrite32 a (v.toNat % p32) s.block))) ∧
        (n < 4 → writes v s.block))))

/-- Host accesses to the register window are naturally aligned 32-bit or 64-bit accesses: any other write is ignored, and any
other read is answered with 0 (R6). -/
def Obligations.MisalignedAccessIgnored : Prop :=
  ∀ (s : State) (off size rid : Nat) (v : W64) (hits : List Hit), s.hostOpen → aligned off size = false →
    exec (.registerRead (.host off) size ⟨rid, hits⟩) s = .next (s.served (out s.fresh (.hostRead rid 0))) ∧
    exec (.counterRead off size rid) s = .next (s.served (out s.fresh (.hostRead rid 0))) ∧
    exec (.registerWrite (.host off) size v) s = .next (s.served s.fresh)

/-! ## Faults, health and the management plane -/

/-- FAULT_SERVE does nothing with no record unserved; else the oldest is charged to its units, its signature exported, its context told
by a FAULT entry where it gets them, and a unit then classified permanent is what the chip is drained or flagged for (R331, R334, R363,
R364). FS_FREE of an entry that is done with frees it and lets waiting records enter; of any other, or of an empty place, it changes
nothing (R334, R389). DUP_COMPARE_MISMATCH: while a record of the part waits, nothing; else its record, with CONSERVATION for every launch
its output belonged to: in flight, returned, or posted (R341, R344). LOCKSTEP_MISMATCH: its record, the DCP halts, every launch in flight is
abandoned with CONSERVATION, and the chip is FLAGGED (R345). -/
def Obligations.FaultRecordsServedAndOwnLogic : Prop :=
  (∀ (s : State), s.m.cfg.fwRuns = true →
      let k := s.m.cfg
      (nextRecord s.fresh = none → exec .faultServe s = .next (s.servedBlock s.block)) ∧
      (∀ n e, nextRecord s.fresh = some (n, e) →
        let r := e.record
        let d := (r.charged k).foldl (chargeUnit k.now.toNat (r.mech = 0x0D)) s.fresh
        let tells := r.ctx.any (faultCtx d)
        let d1 := { d with fs := { d.fs with recs := tput d.fs.recs n { e with served := true, posted := !tells },
                                             sigs := d.fs.sigs ++ [(n, signature k d r)] } }
        let d2 := if tells then faultEntryPost k d1 (optNat r.ctx) r.status n else d1
        let bad := (r.charged k).filter (fun u => (getHist d2 u).permanent k.now.toNat)
        (bad = [] → exec .faultServe s = .next (s.servedBlock { cfg := k, d := d2 })) ∧
        (bad ≠ [] → exec .faultServe s = .next (s.servedBlock (permanentFound { cfg := k, d := d2 } r.status n bad)))) ∧
      (∀ n, tget s.m.d.fs.recs n = none → exec (.fsFree n) s = .next (s.with s.fresh)) ∧
      (∀ n e, tget s.m.d.fs.recs n = some e →
        (e.finished s.fresh = true → exec (.fsFree n) s = .next (s.with
          (enterWaiting k { s.fresh with fs := { s.m.d.fs with recs := tdel s.m.d.fs.recs n } }))) ∧
        (e.finished s.fresh = false → exec (.fsFree n) s = .next (s.with s.fresh)))) ∧
  (∀ (s : State),
      (∀ unit group slots, s.serving →
        let r : FRec := { frec 0x03 .conservation unit with detail := w64 (group % 65536) }
        let gone (e : LedgerEntry) := (tget s.m.d.ls.slots e.slot).all (fun l => l.id = e.id)
        (sourceHolds s.fresh r = true → exec (.dupCompareMismatch unit group slots) s = .next (s.served s.fresh)) ∧
        (sourceHolds s.fresh r = false → exec (.dupCompareMismatch unit group slots) s = .next (s.served (settleAll
          (conservationFault s.m.cfg s.fresh r (chargedTo s.fresh (fun x l => slots.contains x || touches unit l.touch)
            (fun e => touches unit e.banks || (slots.contains e.slot && gone e)))))))) ∧
      (∀ pc, s.m.cfg.fwRuns = true →
        let d := fault s.m.cfg s.fresh { frec 0x13 .conservation (6 * 4096) with detail := pc }
        let d1 := (launchesInFlight d).foldl (fun d e => failLaunch d e.1 .conservation) d
        exec (.lockstepMismatch pc) s = .next (s.servedBlock
          (setHealth { cfg := { s.m.cfg with dcpHalted := true }, d := settleAll d1 } .flagged)) ∧
        ∃ t, exec (.lockstepMismatch pc) s = .next t ∧ t.m.cfg.health = .flagged ∧ t.m.cfg.dcpHalted = true))

/-- The scrub of a bank or a slice reads its next word, of 16,384 in a full pass (R336), but not of a fallow bank (R408), nor while a record
of the part waits (R333), nor for a unit above 63; for a word that is not the next one the row does not happen (log 5). A clean word ends the run of corrected visits; a corrected one increments ECC_CE, and makes
a record, of MECH 0x02 and ECC_CORR, when the visit before corrected the same word; an uncorrectable one increments ECC_UE, always makes a
record, and has its outcome of Table 12.4 (R337, R338). The same of a word that a command reads, here DEC: counted and corrected, or counted,
lost and recorded before the operation, which waits while the record cannot enter (R337, Table 12.12). -/
def Obligations.ErrorsCountedAndRecorded : Prop :=
  ∀ (s : State) (edge : Bool) (unit : Nat), s.serving →
    let u := scrubUnit edge unit
    let word := scrubNext s.fresh u
    let cor := s.m.d.fs.corrected
    let fs' := { s.m.d.fs with scrub := tset s.m.d.fs.scrub u ((word + 1) % 16384) 0 }
    let blocked := 64 ≤ unit ∨ (edge = false ∧ s.m.d.pw.cbFallow = true) ∨ unitWaits s.fresh 0x02 u = true
    let counted := count { s.fresh with fs := fs' } (cEccCe (b2n edge)) 1
    (∀ w res, blocked ∨ w ≠ word → exec (.scrubRead edge unit w res) s = .next (s.served s.fresh)) ∧
    (¬ blocked →
      exec (.scrubRead edge unit word .clean) s = .next (s.served
        { s.fresh with fs := { fs' with corrected := cor.filter (· ≠ (u, word)) } }) ∧
      (∀ symbol, (u, word) ∉ cor → exec (.scrubRead edge unit word (.corrected symbol)) s = .next (s.served
        { counted with fs := { fs' with corrected := (u, word) :: cor } })) ∧
      (∀ symbol, (u, word) ∈ cor → exec (.scrubRead edge unit word (.corrected symbol)) s = .next (s.served (fault s.m.cfg counted
        { frec 0x02 .eccCorr u with detail := w64 (word + symbol % 256 * 2 ^ 56) }))) ∧
      exec (.scrubRead edge unit word .uncorrectable) s = .next (s.served (settleAll (scrubLost (fault s.m.cfg
        (count { s.fresh with fs := { fs' with corrected := cor.filter (· ≠ (u, word)) } } (cEccUe (b2n edge)) 1)
        { frec 0x02 .eccUncorr u with detail := w64 (word + 0xFF * 2 ^ 56), charge := true }) edge unit word)))) ∧
    (∀ b g, s.part (bankUnit b) →
      let gone := useFree (count s.fresh (cEccUe 0) 1) 1
      (∀ symbol, exec (.dec b [{ word := .node g, res := .corrected symbol }]) s = .next (s.served
        (bankOp .dec b s.m.cfg (count s.fresh (cEccCe 0) 1)))) ∧
      (summaryFull s.fresh = true →
        exec (.dec b [{ word := .node g, res := .uncorrectable }]) s = .next (s.served s.fresh)) ∧
      (summaryFull s.fresh = false → exec (.dec b [{ word := .node g, res := .uncorrectable }]) s = .next (s.served
        (bankOp .dec b s.m.cfg (fault s.m.cfg (settleAll (wordLost s.m.cfg gone (.node g)))
          (hitRec (count s.fresh (cEccUe 0) 1) (.node g)))))))

/-- FS_HEALTH, with running firmware, makes the firmware's transitions of Table 12.7 and ignores every other value: SERVICE to DRAINING, to
FLAGGED in boot phase 5 only; DRAINED to SURVEY, to FLAGGED, and to SERVICE unless a unit is classified permanent; SURVEY to DRAINED (R354,
R358, R364, R389). A drain that was asked for is ordered in SERVICE only, and hedges its units and stops the service. DRAIN_WAIT microseconds
after the drain began, unless DRAIN_WAIT is 0, what is in flight is cancelled. With no launch left and only ended packets in the ports a
draining chip is DRAINED, and then FLAGGED when a unit is permanent and firmware runs (R354, R355, R358). A hedge bit is written while
DRAINING or in SURVEY, and at no other time (R357, R389). -/
def Obligations.DrainAndHealth : Prop :=
  ∀ (s : State),
    let h := s.m.cfg.health
    (s.m.cfg.fwRuns = true → ∀ v : W32,
      let code := Health.ofCode (bits v.toNat 0 3)
      let answers (b : Block) := exec (.fsHealthWrite v) s = .next (s.servedBlock b)
      (h = .service → code = some .draining → answers (enterDraining s.block)) ∧
      (h = .service → code = some .flagged → s.m.cfg.phase = .p5 → answers (setHealth s.block .flagged)) ∧
      (h = .service → code = some .flagged → s.m.cfg.phase ≠ .p5 → answers s.block) ∧
      (h = .drained → code = some .survey → answers
        (setHealth (startSurvey s.block ((s.m.cfg.drain.bind (·.survey)).getD false) 1 []) .survey)) ∧
      (h = .drained → code = some .flagged → answers (setHealth s.block .flagged)) ∧
      (h = .drained → code = some .service → somePermanent s.block = true → answers s.block) ∧
      (h = .drained → code = some .service → somePermanent s.block = false → answers (toService s.block)) ∧
      (h = .survey → code = some .drained → answers (surveyOver s.block)) ∧
      ((h, code) ∉ [(Health.service, some .draining), (.service, some .flagged), (.drained, some .survey), (.drained, some .flagged),
        (.drained, some Health.service), (.survey, some .drained)] → answers s.block)) ∧
    (s.firmware →
      (h = .service → s.m.cfg.drain.isSome = true → exec .drainOrder s = .next (s.servedBlock (enterDraining s.block))) ∧
      ((h ≠ .service ∨ s.m.cfg.drain = none) → exec .drainOrder s = .next (s.served s.fresh)) ∧
      (∀ edge i set, (h = .draining ∨ h = .survey) →
        exec (.hedgeWrite edge i set) s = .next (s.served (closeHedged (hedgeBit s.m.cfg s.fresh edge i set)))) ∧
      (∀ edge i set, h ≠ .draining → h ≠ .survey → exec (.hedgeWrite edge i set) s = .next (s.served s.fresh))) ∧
    (s.serving →
      let since := (s.m.cfg.drain.map (·.since)).getD 0
      let expires := h = .draining ∧ s.m.cfg.drainWait ≠ 0 ∧
        reached s.m.d.ts (since + w64 (s.m.cfg.drainWait.toNat * 1000)) = true
      let empty := h = .draining ∧ noLaunch s.fresh = true ∧ portsTerminal s.fresh = true
      let b := setHealth (drainTell s.block) .drained
      (expires → exec .drainWaitExpiry s = .next (s.servedBlock (drainTell
        { cfg := s.m.cfg, d := settleAll ((launchesInFlight s.fresh).foldl (fun d e => failLaunch d e.1 .cancelled) s.fresh) }))) ∧
      (¬ expires → exec .drainWaitExpiry s = .next (s.served s.fresh)) ∧
      (empty → b.cfg.fwRuns = true → somePermanent b = true → exec .drained s = .next (s.servedBlock (setHealth b .flagged))) ∧
      (empty → (b.cfg.fwRuns = false ∨ somePermanent b = false) → exec .drained s = .next (s.servedBlock b)) ∧
      (¬ empty → exec .drained s = .next (s.served s.fresh)))

/-- SURVEY_END: outside SURVEY, or while a record of the survey waits, nothing; else the parts it reports, in a second survey only those
tested again, are recorded, and every unit's history takes what the survey found. A first survey with failures is followed by a second,
full one of the failed units with the others hedged; any other end leaves the chip DRAINED, FLAGGED when a unit is classified permanent, and
released to SERVICE after a second survey that leaves none (R360 to R364; log 102). The management port's orders: a drain is asked for in
SERVICE only; a survey asks for a drain in SERVICE, starts in DRAINED, and is refused elsewhere or without reserved storage (R355, R359,
R447); before boot is complete neither does anything, and in DOZE each is a wake source and is held (R406). -/
def Obligations.SurveyAndOrders : Prop :=
  (∀ (s : State) (failed : List (Nat × Byte × W64)) (passed : List Nat), s.firmware →
      let second := decide (s.m.cfg.survey.pass = 2)
      let tested (u : Nat) : Bool := !second || s.m.d.fs.again.contains u
      let d := (failed.filter (fun f => tested f.1)).foldl (surveyFail s.m.cfg) s.fresh
      let b : Block := { cfg := s.m.cfg, d := surveyHistory ((passed.filter tested).foldl unitPassed d) }
      let bad := b.d.fs.failed
      let answers (b : Block) := exec (.surveyEnd failed passed) s = .next (s.servedBlock b)
      ((s.m.cfg.health ≠ .survey ∨ mechWaits s.fresh 0x0D = true) → answers s.block) ∧
      (s.m.cfg.health = .survey → mechWaits s.fresh 0x0D = false →
        (s.m.cfg.survey.pass ≠ 2 → bad ≠ [] → answers
          { startSurvey b true 2 bad with d := hedgeOthers s.m.cfg (startSurvey b true 2 bad).d bad }) ∧
        ((s.m.cfg.survey.pass = 2 ∨ bad = []) → somePermanent (surveyOver b) = true →
          answers (setHealth (surveyOver b) .flagged)) ∧
        (s.m.cfg.survey.pass ≠ 2 → bad = [] → somePermanent (surveyOver b) = false → answers (surveyOver b)) ∧
        (s.m.cfg.survey.pass = 2 → somePermanent (surveyOver b) = false → answers (toService (surveyOver b))))) ∧
  (∀ (s : State), s.m.cfg.mgtRuns = true →
      let survey full := exec (if full then .mgtFullSurvey else .mgtQuickSurvey) s
      let held order : Block := { s.block with d := { s.fresh with held := s.m.d.held ++ [.order order] } }
      (s.m.cfg.doze ≠ .awake → exec .mgtDrain s = .next { s with m := wake (held none) } ∧
        ∀ full, survey full = .next { s with m := wake (held (some full)) }) ∧
      (s.m.cfg.doze = .awake →
        (s.m.cfg.phase ≠ .booted → exec .mgtDrain s = .next (s.with s.fresh) ∧ ∀ full, survey full = .next (s.with s.fresh)) ∧
        (s.m.cfg.phase = .booted →
          (s.m.cfg.health = .service → exec .mgtDrain s = .next { s with m := askDrain s.block none none [] }) ∧
          (s.m.cfg.health ≠ .service → exec .mgtDrain s = .next (s.with s.fresh)) ∧
          (∀ full, s.m.cfg.boot.surveySize ≠ 0 → s.m.cfg.health = .service →
            survey full = .next { s with m := askDrain s.block (some full) none [] }) ∧
          (∀ full, s.m.cfg.boot.surveySize ≠ 0 → s.m.cfg.health = .drained →
            survey full = .next { s with m := setHealth (startSurvey s.block full 1 []) .survey }) ∧
          (∀ full, (s.m.cfg.boot.surveySize = 0 ∨ (s.m.cfg.health ≠ .service ∧ s.m.cfg.health ≠ .drained)) →
            survey full = .next { s with m := surveyRefused s.block }))))

/-- The firmware's ports: MON_TX queues a character while fewer than 64 wait, and else ignores it; the receive register gives the oldest
character, which leaves, or 0; TR_POST writes a record of TYPE 0x80 or above, PLANE 1; a 1 in bit 0 of PWR_REQ requests DOZE and a 0 has no
effect (R21, R388, R405, R419). The controller's, out of reset and not frozen: TIME; the oldest signature four bytes a read, and 0 with none;
its acknowledgement, which does nothing with none; MGT_HEALTH and MGT_BOOT_STAT, whose reads acknowledge their change (R398, R447). -/
def Obligations.FirmwareAndControllerPorts : Prop :=
  ∀ (s : State),
    (s.m.cfg.fwRuns = true →
      (∀ ch, s.m.d.mn.tx.length < 64 → exec (.monTx ch) s = .next (s.with
        { s.fresh with mn := { s.m.d.mn with tx := s.m.d.mn.tx ++ [ch] } })) ∧
      (∀ ch, 64 ≤ s.m.d.mn.tx.length → exec (.monTx ch) s = .next (s.with s.fresh)) ∧
      (∀ ch rest, s.m.d.mn.rx = ch :: rest → exec .monRxRead s = .next (s.with
        (out { s.fresh with mn := { s.m.d.mn with rx := rest } } (.dcpRead (w32 (ch.toNat + 2 ^ 8)))))) ∧
      (s.m.d.mn.rx = [] → exec .monRxRead s = .next (s.with (out s.fresh (.dcpRead 0)))) ∧
      (∀ w : W256, exec (.trPost w) s = .next (s.with (trace s.m.cfg { s.fresh with tr := { s.m.d.tr with staged := w } }
        (max 0x80 (bits w.toNat 64 8)) 1 (bits w.toNat 80 176)))) ∧
      (∀ v : W32, exec (.pwrReq v) s = .next
        { s with m := { cfg := { s.m.cfg with dozeReq := s.m.cfg.dozeReq || bit v.toNat 0 }, d := s.fresh } })) ∧
    (s.m.cfg.mgtRuns = true →
      (∀ lo hi, exec (.mgtTimeWrite lo hi) s = .next { s with m := { cfg := { s.m.cfg with now := hi ++ lo }, d := s.fresh } }) ∧
      (s.m.d.fs.sigs = [] → exec .mgtSigDataRead s = .next (s.with (out s.fresh (.mgtRead 0))) ∧
        exec .mgtSigAck s = .next (s.with s.fresh)) ∧
      (∀ g rest, s.m.d.fs.sigs = g :: rest →
        exec .mgtSigDataRead s = .next (s.with (out { s.fresh with fs := { s.m.d.fs with sigPos := s.m.d.fs.sigPos + 4 } }
          (.mgtRead (w32 (leAt g.2 s.m.d.fs.sigPos 4))))) ∧
        let recs' := tmod s.m.d.fs.recs g.1 (fun e => if e.served then { e with acked := true } else e)
        exec .mgtSigAck s = .next (s.with
          { s.fresh with fs := { s.m.d.fs with sigs := rest, sigPos := 0, recs := recs' } })) ∧
      exec (.mgtStatusRead true) s = .next (s.with
        (out { s.fresh with mn := { s.m.d.mn with healthUnread := false } } (.mgtRead (w32 s.m.cfg.health.code)))) ∧
      exec (.mgtStatusRead false) s = .next (s.with
        (out { s.fresh with mn := { s.m.d.mn with statUnread := false } } (.mgtRead (w32 s.m.cfg.bootStatWord)))))

/-! ## Boot, the serial monitor and read-out -/

/-- The boot configuration block, while the management clock runs (R396, R397, R403, R447). In phase 1 START empties the receiver; each
word is appended, or lost with no START; with LENGTH bytes the block is taken when its format and its content hold, which gives the
configuration, the time, and FLAGGED where it carries the flag; it is refused with BLOCK_FORMAT or BLOCK_CONTENT when they do not. The
time-out takes the kept block, ends the boot without one, and does nothing once a START has come. In any other phase the three change
nothing. -/
def Obligations.BootBlockReceived : Prop :=
  ∀ (s : State), s.m.cfg.mgtRuns = true →
    (s.m.cfg.phase ≠ .p1 →
      exec .mgtBootStart s = .next (s.with s.fresh) ∧ (∀ w, exec (.mgtBootData w) s = .next (s.with s.fresh)) ∧
      exec .bootBlockTimeout s = .next (s.with s.fresh)) ∧
    (s.m.cfg.phase = .p1 →
      exec .mgtBootStart s = .next { s with m := { cfg := { s.m.cfg with rx := some [] }, d := s.fresh } } ∧
      (∀ w, s.m.cfg.rx = none → exec (.mgtBootData w) s = .next (s.with s.fresh)) ∧
      (∀ (w : W32) bs, s.m.cfg.rx = some bs →
        let got := bs ++ leBytes 4 w.toNat
        let blk := got.take (leAt got 8 4)
        ((got.length < 12 ∨ got.length < leAt got 8 4) → exec (.mgtBootData w) s = .next
          { s with m := { cfg := { s.m.cfg with rx := some got }, d := s.fresh } }) ∧
        (12 ≤ got.length → leAt got 8 4 ≤ got.length →
          (bbFormatOk blk = false → exec (.mgtBootData w) s = .next { s with m := bootFail s.block 1 }) ∧
          (bbFormatOk blk = true → bbContentOk s.m.cfg.build blk = false →
            exec (.mgtBootData w) s = .next { s with m := bootFail s.block 2 }) ∧
          (bbFormatOk blk = true → bbContentOk s.m.cfg.build blk = true → exec (.mgtBootData w) s = .next { s with m :=
            { cfg := { s.m.cfg with kept := some blk, boot := bbParse blk, now := (bbParse blk).time, rx := none, phase := .p2,
                                    health := if (bbParse blk).flagged then Health.flagged else s.m.cfg.health }
              d := s.fresh } }))) ∧
      (∀ bs, s.m.cfg.rx = some bs → exec .bootBlockTimeout s = .next (s.with s.fresh)) ∧
      (s.m.cfg.rx = none →
        (∀ blk, s.m.cfg.kept = some blk → exec .bootBlockTimeout s = .next { s with m := takeBlock s.block blk }) ∧
        (s.m.cfg.kept = none → exec .bootBlockTimeout s = .next { s with m := bootFail s.block 1 })))

/-- The phases that follow, while the management clock runs. Power-up ends phase 2. A passed self-test begins phase 4 and reads the
image's first 64 bytes at FW_ADDR; a failed one ends the boot with POST_FAIL and a signature against the unit. An error response ends it
with FW_READ, a bad image with FW_FORMAT; a good one goes to the security block. A good verification puts the code into the DCP's
memory and the tables into the function unit, and starts the firmware; a bad one ends the boot, and so does the firmware's own time-out
(R399, R401 to R403, R448). BOOT_COMPLETE with a version not 0 ends phase 5: the history stands, LINK_KEY is generated, the controller
is told, and a chip that the block flags or that has a permanent unit is FLAGGED; later, until a context has been opened, running firmware
changes the two version registers only (R358, R398, R402). In any other phase each of these changes nothing. -/
def Obligations.BootPhases : Prop :=
  (∀ (s : State), s.m.cfg.mgtRuns = true →
      let same := (Host.Outcome.next (s.with s.fresh) : Host.Outcome State Fault Refusal)
      let answers (i : Instr) (b : Block) := exec i s = .next { s with m := b }
      (s.m.cfg.phase = .p2 → answers .bootInitDone { cfg := { s.m.cfg with phase := .p3 }, d := s.fresh }) ∧
      (s.m.cfg.phase ≠ .p2 → exec .bootInitDone s = same) ∧
      (∀ unit,
        (s.m.cfg.phase = .p3 → answers (.post true unit) { cfg := { s.m.cfg with phase := .p4, fwImage := [] },
                                                            d := busReadOn .memory s.fresh s.m.cfg.boot.fwAddr.toNat 64 .fwImage } ∧
          answers (.post false unit) (bootFail { cfg := s.m.cfg, d := postSignature s.m.cfg s.fresh unit } 3)) ∧
        (∀ ok, s.m.cfg.phase ≠ .p3 → exec (.post ok unit) s = same)) ∧
      (∀ img,
        (s.m.cfg.phase = .p4 → answers (.fwImageRead img true) (bootFail s.block 4) ∧
          (imageFormOk img = false → answers (.fwImageRead img false) (bootFail s.block 5)) ∧
          (imageFormOk img = true → answers (.fwImageRead img false)
            { cfg := { s.m.cfg with phase := .p4Verify, fwImage := img }
              d := out (dropRead s.fresh .fwImage) (.secReq img) })) ∧
        (∀ err, s.m.cfg.phase ≠ .p4 → exec (.fwImageRead img err) s = same)) ∧
      (s.m.cfg.phase = .p4Verify →
        let i := s.m.cfg.fwImage
        let code := (i.drop (leAt i 32 4)).take (leAt i 36 4)
        answers (.fwVerifyResult true)
          { cfg := { s.m.cfg with phase := .p5, fwImage := code, dcpRun := true, dcpEntry := w64 (leAt i 24 8) }
            d := { s.fresh with sf := { s.m.d.sf with slots := vendorSlots i }, tr := { s.m.d.tr with buf := [] },
                                ram := (upFrom 0 code.length).zip code } } ∧
        answers (.fwVerifyResult false) (bootFail { cfg := { s.m.cfg with fwImage := [] }, d := s.fresh } 6)) ∧
      (∀ ok, s.m.cfg.phase ≠ .p4Verify → exec (.fwVerifyResult ok) s = same) ∧
      (s.m.cfg.phase = .p5 → answers .fwStartTimeout (bootFail s.block 7)) ∧
      (s.m.cfg.phase ≠ .p5 → exec .fwStartTimeout s = same)) ∧
  (∀ (s : State) (ftv : W16) (fwver : W32), s.m.cfg.mgtRuns = true →
      let same := (Host.Outcome.next (s.with s.fresh) : Host.Outcome State Fault Refusal)
      (fwver = 0 → exec (.bootComplete ftv fwver) s = same) ∧
      (fwver ≠ 0 → s.m.cfg.phase ≠ .p5 → s.m.cfg.phase ≠ .booted → exec (.bootComplete ftv fwver) s = same) ∧
      (fwver ≠ 0 → s.m.cfg.phase = .booted →
        (s.m.cfg.fwRuns = true → s.m.d.fe.opened = false → exec (.bootComplete ftv fwver) s = .next
          { s with m := { cfg := { s.m.cfg with ftv := ftv, fwver := fwver }, d := s.fresh } }) ∧
        ((s.m.cfg.fwRuns = false ∨ s.m.d.fe.opened = true) → exec (.bootComplete ftv fwver) s = same)) ∧
      (fwver ≠ 0 → s.m.cfg.phase = .p5 →
        let d := { s.fresh with fs := { s.m.d.fs with hist := bootHist s.m.cfg.boot }, gs := { s.m.d.gs with keys := 0 },
                                lk := { s.m.d.lk with key := Config.keyGen s.m.cfg.boot.entropy 0 },
                                mn := { s.m.d.mn with statUnread := true }, pw := { s.m.d.pw with upTs := s.m.d.ts } }
        let b : Block := { cfg := { s.m.cfg with phase := .booted, bootStat := 0, bootDone := true, ftv := ftv, fwver := fwver }
                           d := powerReport s.m.cfg d }
        let flags := s.m.cfg.health ≠ .flagged ∧ (s.m.cfg.boot.flagged = true ∨ somePermanent b = true)
        (flags → exec (.bootComplete ftv fwver) s = .next { s with m := setHealth b .flagged }) ∧
        (¬ flags → exec (.bootComplete ftv fwver) s = .next { s with m := b })))

/-- The monitor, with running firmware (R430 to R432, Table 15.8). Its read-only commands answer OK with their lines, and change nothing but
the answer and, for launch, the count of free values used; a line not recognised, and a context, slot, counter, parcel, count of records or
leaf out of its range, is answered BAD_DESCRIPTOR. pcs without a record of the leaf answers none=1. drain and survey act as the
controller's orders and answer OK; refused by the health state, or a survey without reserved storage, they answer CANCELLED and set
REFUSED. baud takes a rate of Table 15.7 and refuses any other. The serial line, out of reset: a character enters the receive queue, or is
lost with the overrun flag at 64; the oldest transmit character leaves, and with the prompt's last one a new rate applies; with none, and in
reset, nothing happens (R429, R431). -/
def Obligations.Monitor : Prop :=
  (∀ (s : State), s.m.cfg.fwRuns = true →
      let k := s.m.cfg
      let d := s.fresh
      let tells (st : Status) (ls : List MonLine) := { d with mn := { s.m.d.mn with answer := ls, result := some st } }
      let ok (i : Instr) (ls : List MonLine) := exec i s = .next (s.with (tells .ok ls))
      let bad (i : Instr) := exec i s = .next (s.with (tells .badDescriptor []))
      bad .monBadLine ∧
      ok .monHelp (monWords.map (fun w => [(w, 1)])) ∧
      ok .monId [[("DNT_ID", global32 k d 0x0), ("DNT_VER", global32 k d 0x4), ("DNT_CONFIG", dntConfig k),
        ("CHIP_ID", k.boot.chipId), ("DNT_FWVER", k.fwver.toNat), ("SFU_FTV", k.ftv.toNat)], [("SERIAL", leNat k.boot.serial)]] ∧
      ok .monHealth [[("DNT_HEALTH", dntHealth k d), ("DNT_MODE", k.modeWord), ("FAULT_OCC", s.m.d.fs.recs.length),
        ("FSEQ_NEXT", s.m.d.fs.fseq.toNat)], [("PWR_STAT", pwrStat k d), ("STEP", s.m.d.step.toNat), ("SVC_STAT", svcStat d)]] ∧
      ok (.monFault none) ((isort (fun a b => (a.2.record.fseq - d.fs.fseq).toNat ≤ (b.2.record.fseq - d.fs.fseq).toNat)
        s.m.d.fs.recs).flatMap (fun e => recLines e.1 e.2.record)) ∧
      (∀ n, n < 1024 → ok (.monFault (some n)) (((tget s.m.d.fs.recs n).map (fun e => recLines n e.record)).getD [])) ∧
      (∀ n, 1024 ≤ n → bad (.monFault (some n))) ∧
      ok .monHedge ((hedgedUnits d).map (fun u => [("UNIT", u)])) ∧
      (∀ c, c < 64 → let x := getCtx d c
        ok (.monCtx c) ([("CTX_STAT", ctxStat k d c), ("CTX_CSEQ", x.cseq.toNat), ("CTX_INFLIGHT", ctxInflight d c),
            ("CPL_HEAD", x.cplHead.toNat), ("CPL_TAIL", x.cplTail.toNat)]
          :: ((upFrom 0 ringCount).filter (fun r => (x.ring r).en)).map (fun r =>
            let g := x.ring r
            [("RING", r), ("HEAD", g.head.toNat), ("TAIL", g.tail.toNat), ("DSEQ", g.dseq.toNat),
              ("STATE", (ringState k g).code)]))) ∧
      (∀ c, 64 ≤ c → bad (.monCtx c)) ∧
      (∀ n, n < 1024 → let p := slotPart0 d n
        exec (.monLaunch n) s = .next (s.with { d with free := s.m.d.free + 1, mn := { s.m.d.mn with result := some .ok, answer :=
          [[("CTX", bits p 0 6), ("RING", bits p 6 3), ("DSEQ", bits p 16 32), ("GRAPH", bits p 48 12), ("EPOCH", bits p 64 8)],
            ((nodeCounts d n).zip (upFrom 0 10)).map (fun x => ("NODES", x.1 + x.2 * 2 ^ 20)),
            [("ISSUES", bits p 96 32), ("NAKS", bits p 128 32), ("BUSY", bits p 160 48)]] } })) ∧
      (∀ n, 1024 ≤ n → bad (.monLaunch n)) ∧
      (∀ off v, counterValue k d off = some v → ok (.monCount off) [[("COUNT", v)]]) ∧
      (∀ off, counterValue k d off = none → bad (.monCount off)) ∧
      (∀ p, p < 65536 → ok (.monParcel p) ([("ENTRY", parcelEntry k d p)] :: (parcelMembers k d p).map (fun m => [("REF", m)]))) ∧
      (∀ p, 65536 ≤ p → bad (.monParcel p)) ∧
      ok .monFallow ([("PWR_FALLOW", if s.m.d.pw.cbFallow then max64 else 0)] ::
        k.muSites.map (fun i => [("SITE", i), ("BANKS", muFallowByte d i)])) ∧
      (∀ n, 1 ≤ n → n ≤ 64 → ok (.monTrace n) ((s.m.d.tr.buf.reverse.take n).map traceLine)) ∧
      (∀ n, (n = 0 ∨ 64 < n) → bad (.monTrace n)) ∧
      (∀ l, l < 65536 →
        let newest := s.m.d.tr.buf.reverse.find? (fun w => bits w.toNat 64 8 = 0x02 && bits w.toNat 112 17 = l)
        (newest = none → ok (.monPcs l) [[("none", 1)]]) ∧
        (∀ w, newest = some w → ok (.monPcs l)
          [(traceLine w).filter (fun p => ["TICK", "PC", "STALL", "NODE", "LAUNCH"].contains p.1)])) ∧
      (∀ l, 65536 ≤ l → bad (.monPcs l)) ∧
      (∀ rate, rate ∈ baudRates → exec (.monBaud rate) s = .next
        { s with m := { cfg := { k with baudNext := some rate }, d := tells .ok [] } }) ∧
      (∀ rate, rate ∉ baudRates → bad (.monBaud rate))) ∧
  (∀ (s : State),
      let answered (b : Block) (st : Status) : Block := { b with d := monAnswer b.d st [] }
      let survey full := exec (if full then .monSurveyFull else .monSurveyQuick) s
      (s.firmware →
        (s.m.cfg.health = .service → exec .monDrain s = .next (s.servedBlock (answered (askDrain s.block none none []) .ok))) ∧
        (s.m.cfg.health ≠ .service → exec .monDrain s = .next (s.servedBlock (answered (surveyRefused s.block) .cancelled))) ∧
        (∀ full, s.m.cfg.boot.surveySize ≠ 0 → s.m.cfg.health = .service →
          survey full = .next (s.servedBlock (answered (askDrain s.block (some full) none []) .ok))) ∧
        (∀ full, s.m.cfg.boot.surveySize ≠ 0 → s.m.cfg.health = .drained →
          survey full = .next (s.servedBlock (answered (setHealth (startSurvey s.block full 1 []) .survey) .ok))) ∧
        (∀ full, (s.m.cfg.boot.surveySize = 0 ∨ (s.m.cfg.health ≠ .service ∧ s.m.cfg.health ≠ .drained)) →
          survey full = .next (s.servedBlock (answered (surveyRefused s.block) .cancelled)))) ∧
      (∀ ch, s.m.cfg.inReset = true → exec (.uartRxChar ch) s = .next (s.with s.fresh) ∧
        exec .uartTxChar s = .next (s.with s.fresh)) ∧
      (s.m.cfg.inReset = false →
        (∀ ch, s.m.d.mn.rx.length < 64 → exec (.uartRxChar ch) s = .next (s.with
          { s.fresh with mn := { s.m.d.mn with rx := s.m.d.mn.rx ++ [ch] } })) ∧
        (∀ ch, 64 ≤ s.m.d.mn.rx.length → exec (.uartRxChar ch) s = .next (s.with
          { s.fresh with mn := { s.m.d.mn with rxOver := true } })) ∧
        (s.m.d.mn.tx = [] → exec .uartTxChar s = .next (s.with s.fresh)) ∧
        (∀ (ch : Byte) rest, s.m.d.mn.tx = ch :: rest →
          let d := out { s.fresh with mn := { s.m.d.mn with tx := rest } } (.uartTx ch)
          (ch ≠ 0x3E → exec .uartTxChar s = .next (s.with d)) ∧
          (ch = 0x3E → exec .uartTxChar s = .next { s with m :=
            { cfg := { s.m.cfg with baud := s.m.cfg.baudNext.getD s.m.cfg.baud, baudNext := none }, d := d } }))))

/-- Read-out, in reset not answered. It is refused with RSTAT 3 unless the block is frozen, and for a STORE or INDEX that is not assigned.
Of an entry it gives the data with RSTAT 0; of a stored word also the check symbols, of a word of several stores a free value there; a
corrected word has RSTAT 1 and free symbols, and one that cannot be corrected RSTAT 2 and free raw data. Nothing of the block changes but
the free values used (R424 to R426, Table 15.5). -/
def Obligations.ReadOutAnswers : Prop :=
  ∀ (s : State) (store index : Nat) (res : EccResult),
    let gives (r : EccResult) (data : Nat) (check : Nat) (stat : Nat) : Prop := exec (.readOut store index r) s = .next (s.with
      (out { s.fresh with free := s.m.d.free + 5 } (.readOut (BitVec.ofNat 128 data) (BitVec.ofNat 24 check) stat)))
    let free24 := bits (freeW s.fresh 2).toNat 0 24
    let refused := exec (.readOut store index res) s = .next (s.with (out s.fresh (.readOut 0 0 3)))
    (s.m.cfg.inReset = true → exec (.readOut store index res) s = .next (s.with s.fresh)) ∧
    (s.m.cfg.inReset = false →
      (s.m.cfg.frozen = false → refused) ∧
      (s.m.cfg.frozen = true → roEntry s.m.cfg s.fresh store index = none → refused) ∧
      (∀ v, s.m.cfg.frozen = true → roEntry s.m.cfg s.fresh store index = some (v, .flop) → gives res v 0 0) ∧
      (∀ v, s.m.cfg.frozen = true → roEntry s.m.cfg s.fresh store index = some (v, .sram) → gives .clean v (rsCheck v) 0) ∧
      (∀ v, s.m.cfg.frozen = true → roEntry s.m.cfg s.fresh store index = some (v, .grouped) → gives .clean v free24 0) ∧
      (∀ v kind x, s.m.cfg.frozen = true → roEntry s.m.cfg s.fresh store index = some (v, kind) → kind ≠ .flop →
        gives (.corrected x) v free24 1 ∧
        gives .uncorrectable ((freeW s.fresh 3).toNat + (freeW s.fresh 4).toNat * p64) free24 2))

/-! ## Resets, freeze and power -/

/-- Power-on reset sets everything to its reset value but the levels of the other two inputs and the timestamp. SYS_RST_N and DNT_RST_N
keep the build, STEP, FSEQ, the boot configuration block (with FLAGGED set in it where the chip is FLAGGED) and the fault records, which
new firmware serves anew; a level already asserted stays (R391, R392, Table 14.1). In each, held reads of a freeze are answered with 0
(R368). A release takes the named inputs away and changes nothing else; boot begins with the last (R399). -/
def Obligations.ResetsTaken : Prop :=
  ∀ (s : State),
    let k := s.m.cfg
    let clean := { Dyn.reset with outs := (dropHeld s.fresh).outs, ts := s.m.d.ts, free := s.m.d.free }
    let kept := s.m.d.fs.recs.map (fun e => (e.1, { e.2 with served := false, posted := false, acked := false }))
    exec .por s = .next { s with m :=
      { cfg := { Cfg.reset k.build with porAsserted := true, sysAsserted := k.sysAsserted, dntAsserted := k.dntAsserted }
        d := clean } } ∧
    (∀ sys : Bool, exec (if sys then Instr.sysReset else Instr.dntReset) s = .next { s with m :=
      { cfg := { Cfg.reset k.build with porAsserted := k.porAsserted, sysAsserted := k.sysAsserted || sys,
                                        dntAsserted := k.dntAsserted || !sys,
                                        kept := if k.health = .flagged then k.kept.map flagBlock else k.kept }
        d := { clean with step := s.m.d.step, fs := { Dyn.reset.fs with fseq := s.m.d.fs.fseq, recs := kept } } } }) ∧
    (∀ p y n, exec (.resetRelease p y n) s = .next { s with m :=
      { cfg := { k with porAsserted := k.porAsserted && !p, sysAsserted := k.sysAsserted && !y, dntAsserted := k.dntAsserted && !n }
        d := s.fresh } })

/-- When DNT_HEALTH.STATE is FLAGGED at the assertion of SYS_RST_N or DNT_RST_N, the FLAGGED bit is set in the kept block: a
kept block of a legal header that is then taken makes the chip boot FLAGGED again (R392). -/
def Obligations.FlaggedSurvivesSoftReset : Prop :=
  ∀ (s : State) (blk : List Byte) (sys : Bool), s.m.cfg.health = .flagged → s.m.cfg.kept = some blk → 20 ≤ blk.length →
    ∃ t, exec (if sys then Instr.sysReset else Instr.dntReset) s = .next t ∧ t.m.cfg.kept = some (flagBlock blk) ∧
      (bbParse (flagBlock blk)).flagged = true ∧
      (∀ b : Block, bbFormatOk (flagBlock blk) = true → bbContentOk b.cfg.build (flagBlock blk) = true →
        (takeBlock b (flagBlock blk)).cfg.health = .flagged)

/-- FREEZE stops the clocks at once when awake; in DOZE it asks for the wake and waits for it; in reset or frozen it does nothing. Its
release restarts the clocks, with the timestamp run on, and serves the held accesses; of a freeze that still waits it takes the wait back
(R407, R423, R424). DOZE is entered when it is enabled, requested, nothing is left to do, no watch has been found reached, and the plane has
reported idle for DOZE_CTL.IDLE, and not otherwise (R405). A wake source or MGT_WAKE asks a dozing block for its islands, changes nothing
while it wakes, and else takes the request back (R406). With the restore acknowledged the clocks run, the held accesses are applied, and a
freeze that waited begins; before that WAKE_COMPLETE does nothing. An acknowledgement ends its request, and, while the counter banks
wake, powers them; one that nothing asked for does nothing (R408, R449). -/
def Obligations.FreezeAndDoze : Prop :=
  (∀ (s : State),
      let k := s.m.cfg
      let f : Block := { cfg := { k with freezeWait := true }, d := s.fresh }
      ((k.inReset = true ∨ k.frozen = true) → exec .freeze s = .next (s.with s.fresh)) ∧
      (k.inReset = false → k.frozen = false →
        (k.doze = .awake → exec .freeze s = .next { s with m := { cfg := { k with frozen := true }, d := s.fresh } }) ∧
        (k.doze = .waking → exec .freeze s = .next { s with m := f }) ∧
        (k.doze = .dozing → exec .freeze s = .next { s with m :=
          { cfg := { k with freezeWait := true, doze := .waking }, d := gateReq s.fresh .doze false } })) ∧
      (k.frozen = true → exec .freezeRelease s = .next
        { s with m := serveHeldHost { cfg := { k with frozen := false }, d := tsResume s.fresh } }) ∧
      (k.frozen = false → exec .freezeRelease s = .next { s with m := { cfg := { k with freezeWait := false }, d := s.fresh } })) ∧
  (∀ (s : State), s.serving →
      let k := s.m.cfg
      let d := s.m.d
      let ready := k.dozeEn = true ∧ k.dozeReq = true ∧ k.freezeWait = false ∧ dataIdle k s.fresh = true ∧ fwIdle k s.fresh = true ∧
        d.held = [] ∧ passed s.fresh d.pw.idleFrom k.dozeIdle.toNat = true ∧ d.ch.expiry.any (fun w => w.found.isSome) = false ∧
        d.ch.admission.any (fun w => w.found.isSome) = false
      (ready → exec .dozeEntry s = .next { s with m :=
        { cfg := { k with doze := .dozing }, d := gateReq (traceState k s.fresh 1 1 0) .doze true } }) ∧
      (¬ ready → exec .dozeEntry s = .next (s.served s.fresh))) ∧
  (∀ (s : State), s.m.cfg.mgtRuns = true →
      let k := s.m.cfg
      let both (t : State) := exec .dozeWakeSource s = .next t ∧ exec .mgtWake s = .next t
      (k.phase = .booted →
        (k.doze = .dozing → both { s with m := { cfg := { k with doze := .waking }, d := gateReq s.fresh .doze false } }) ∧
        (k.doze = .waking → both (s.with s.fresh)) ∧
        (k.doze = .awake → both { s with m := { cfg := { k with dozeReq := false }, d := s.fresh } })) ∧
      (k.phase ≠ .booted → both (s.with s.fresh)) ∧
      (k.doze = .waking → gateAcked s.fresh .doze = true →
        let b := serveHeldHost (tidy { cfg := { k with doze := .awake, dozeReq := false }, d := traceState k s.fresh 2 0 1 })
        (b.cfg.freezeWait = false → exec .wakeComplete s = .next { s with m := b }) ∧
        (b.cfg.freezeWait = true → exec .wakeComplete s = .next
          { s with m := { cfg := { b.cfg with freezeWait := false, frozen := true }, d := b.d } })) ∧
      ((k.doze ≠ .waking ∨ gateAcked s.fresh .doze = false) → exec .wakeComplete s = .next (s.with s.fresh)) ∧
      (∀ g, gateAcked s.fresh g = true → exec (.pwrGateAck g) s = .next (s.with s.fresh)) ∧
      (∀ g, gateAcked s.fresh g = false →
        let d := { s.fresh with pw := { s.m.d.pw with gates := s.m.d.pw.gates.filter (fun x => x.1 ≠ g) } }
        ((g ≠ .counterBanks ∨ s.m.d.pw.cbWaking = false) → exec (.pwrGateAck g) s = .next (s.with d)) ∧
        (g = .counterBanks → s.m.d.pw.cbWaking = true → exec (.pwrGateAck g) s = .next (s.with (counterBanksWake k d)))))

/-- The counter banks, CB_IDLE microseconds after the last launch with no operation waiting, lose power and every word, and not
otherwise (R408). MU_BANK_FALLOW takes the stub's report of the bank's writes in flight; a bank that the boot configuration lets lie
fallow, covered by nothing and without a write for MU_IDLE, loses power, and otherwise only the report stands (R410). MU_BANK_WAKE
powers a waking bank once its restore is acknowledged (R411). FALLOW_ACCESS of a powered bank does nothing; of a fallow one it wakes the
bank, and the packet that made it is marked, or the STAT whose row write is out ends with BANK_FALLOW (R412). -/
def Obligations.BanksLieFallow : Prop :=
  ∀ (s : State), s.serving →
    let k := s.m.cfg
    let idle := k.boot.cbIdle ≠ 0 ∧ s.m.d.pw.cbFallow = false ∧ noLaunch s.fresh = true ∧
      s.m.d.nb.queue.all (fun q => q.2.isEmpty) = true ∧ passed s.fresh s.m.d.pw.launchFrom k.boot.cbIdle = true
    let d := traceState k s.fresh 3 64 0
    (idle → exec .counterBankFallow s = .next (s.served
      (gateReq { d with pw := { d.pw with cbFallow := true }, nb := { d.nb with nodes := [] } } .counterBanks true))) ∧
    (¬ idle → exec .counterBankFallow s = .next (s.served s.fresh)) ∧
    (∀ site bank writes,
      let i := muKey site bank
      let d := muReport site bank writes s.fresh
      let sleeps := bank < 8 ∧ bit k.boot.muFallow.toNat bank = true ∧ k.sitePresent site = true ∧ k.siteIsMu site = true ∧
        writes = 0 ∧ i ∉ d.pw.muFallow ∧ passed d (muSince d site bank) k.boot.muIdle = true
      (sleeps → exec (.muBankFallow ⟨site, bank⟩ writes) s = .next (s.served
        (gateReq { d with pw := { d.pw with muFallow := putBit d.pw.muFallow i true } } (.mu site bank) true))) ∧
      (¬ sleeps → exec (.muBankFallow ⟨site, bank⟩ writes) s = .next (s.served d)) ∧
      (i ∈ s.m.d.pw.muWaking → gateAcked s.fresh (.mu site bank) = true →
        let fallow := s.m.d.pw.muFallow.filter (· ≠ i)
        let waking := s.m.d.pw.muWaking.filter (· ≠ i)
        exec (.muBankWake site bank) s = .next (s.served
          { s.fresh with pw := { s.m.d.pw with muFallow := fallow, muWaking := waking } })) ∧
      ((i ∉ s.m.d.pw.muWaking ∨ gateAcked s.fresh (.mu site bank) = false) →
        exec (.muBankWake site bank) s = .next (s.served s.fresh))) ∧
    (∀ site bank l task, muKey site bank ∉ s.m.d.pw.muFallow →
      exec (.fallowAccess site bank l task) s = .next (s.served s.fresh)) ∧
    (∀ site bank l ptag, muKey site bank ∈ s.m.d.pw.muFallow →
      let d := wakeBank s.fresh site bank
      let row (g : Nat) (w : WrJob) : Bool := match w.use with
        | .statRow _ x => x = g
        | _ => false
      let answers (task : FallowTask) (d : Dyn) := exec (.fallowAccess site bank l task) s = .next (s.served d)
      answers (.packet ptag) (modEng d l (fun e => modPkt e ptag (fun p => { p with fallow := true }))) ∧
      (∀ g w x, d.bus.writes.find? (row g) = some w → getStat d g = some x → answers (.stat g) (statFail
        (showReads { d with bus := { d.bus with writes := dropFirst (fun y => y = w) d.bus.writes } }) x .bankFallow)) ∧
      (∀ g, (d.bus.writes.find? (row g) = none ∨ getStat d g = none) → answers (.stat g) d))

/-! ## The dependency graph -/

/-- A bank that no record of its copies holds takes the next operation of its queue, where a CANCEL lets operations on its word behind it go
first (R46, R72), when it is of the command's kind, the banks are powered and there is room (R454); else it does nothing. A legal
DEC lowers PEND and counts as applied, EVT records its flag, DEC_EVT does both, CANCEL ends a node that still waits and leaves any other
alone; after each the node is tested for readiness and the operation counts off its completed node (Table 3.1, R73, R76, R80, R88). While
a record of the part waits, the four change nothing (R341). -/
def Obligations.BankOperationsApplied : Prop :=
  ∀ (s : State) (b : Nat) (hits : List Hit),
    let i (k : OpKind) : Instr := match k with
      | .dec => .dec b hits
      | .evt => .evt b hits
      | .decEvt => .decEvt b hits
      | .cancel => .cancel b hits
    let answers (k : OpKind) (d : Dyn) := exec (i k) s = .next (s.served d)
    (s.serving → unitWaits s.fresh 0x03 (bankUnit b) = true → ∀ k, answers k s.fresh) ∧
    (s.part (bankUnit b) → Clean hits →
      (nextOp 4 (bankQueue s.fresh b) = none → ∀ k, answers k s.fresh) ∧
      (∀ o rest, nextOp 4 (bankQueue s.fresh b) = some (o, rest) →
        let d := setBankQueue s.fresh b rest
        let n := getNode d o.g
        let applied (d : Dyn) := modLaunch d o.slot (fun l => { l with applied := l.applied + 1 })
        let after (d : Dyn) := settleAll (opApplied d o)
        (∀ k, (o.kind ≠ k ∨ s.m.d.pw.cbFallow = true ∨ bankRoom s.fresh b o = false) → answers k s.fresh) ∧
        (s.m.d.pw.cbFallow = false → bankRoom s.fresh b o = true → opIllegal n o = false →
          (o.kind = .dec → answers .dec (after (testReady s.m.cfg (applied (setNode d o.g { n with pend := n.pend - 1 })) o.slot o.g))) ∧
          (o.kind = .evt → answers .evt (after (testReady s.m.cfg (setNode d o.g (setFlag n o.bit)) o.slot o.g))) ∧
          (o.kind = .decEvt → answers .decEvt (after
            (testReady s.m.cfg (applied (setNode d o.g { setFlag n o.bit with pend := n.pend - 1 })) o.slot o.g))) ∧
          (o.kind = .cancel → n.st.waiting = true → answers .cancel (after (cancelSkipped d o.slot o.g))) ∧
          (o.kind = .cancel → n.st.waiting = false → answers .cancel (after d)))))

/-- An operation that finds an idle node, a node of another launch or a PEND of 0 is not applied: it makes a CONSERVATION record
of MECH 0x05 against the launch that owns the row, which fails (R75). -/
def Obligations.IllegalOperationRecorded : Prop :=
  ∀ (s : State) (b : Nat) (hits : List Hit) (o : BankOp) (rest : List BankOp), s.part (bankUnit b) → Clean hits →
    nextOp 4 (bankQueue s.fresh b) = some (o, rest) → s.m.d.pw.cbFallow = false → bankRoom s.fresh b o = true →
    let n := getNode s.fresh o.g
    (n.st = .idle ∨ n.launch ≠ o.slot ∨ (n.pend = 0 ∧ (o.kind = .dec ∨ o.kind = .decEvt))) →
    let d := setBankQueue s.fresh b rest
    let slot := (rowOwner d o.g).getD o.slot
    let r : FRec := { frec 0x05 .conservation (bankUnit b) with
      ctx := (tget d.ls.slots slot).map (fun l => l.id.c), launch := some slot, node := some o.g }
    let i : Instr := match o.kind with
      | .dec => .dec b hits
      | .evt => .evt b hits
      | .decEvt => .decEvt b hits
      | .cancel => .cancel b hits
    exec i s = .next (s.served (settleAll (opApplied (failLaunch (fault s.m.cfg d r) slot .conservation) o)))

/-- START_SCAN of a running launch goes through its words, making each start node ready that its bank has room for and pausing the bank
otherwise; of any other slot it does nothing (R74). EDGE_WALK, when no record holds the walkers: a free walker takes one span of the oldest
completed node with edges left, and one with a span sends its operations, line by line, until one meets a full queue (R78, R80).
READY_ENTRY_ENTER: the first entry of an outbox that is not void enters its list when the list has room at its level and in the cycle, and
no other bank's head goes before it, and stays otherwise (R82 to R84, R99). DESCRIPTOR_FILL: the line that was asked for arrives, with the
record of an error response, which waits where it cannot enter; with none asked for, nothing (R99, R339). -/
def Obligations.ScanWalkAndReady : Prop :=
  ∀ (s : State), let k := s.m.cfg
    (s.serving →
      (∀ slot l, tget s.m.d.ls.slots slot = some l → l.phase = .running → exec (.startScan slot) s = .next (s.served
        (settle (l.indices.foldl (scanWord k slot) (s.fresh, [])).1 slot))) ∧
      (∀ slot, (∀ l, tget s.m.d.ls.slots slot = some l → l.phase ≠ .running) →
        exec (.startScan slot) s = .next (s.served s.fresh)) ∧
      (∀ off err, s.m.d.bus.reads.find? (fun j => j.use = .descFill off && j.shown) = none →
        exec (.descriptorFill off err) s = .next (s.served s.fresh)) ∧
      (∀ off j, s.m.d.bus.reads.find? (fun j => j.use = .descFill off && j.shown) = some j →
        exec (.descriptorFill off false) s = .next (s.served (dcFilled k s.fresh off false)) ∧
        (summaryFull s.fresh = true → exec (.descriptorFill off true) s = .next (s.served s.fresh)) ∧
        (summaryFull s.fresh = false → exec (.descriptorFill off true) s = .next (s.served
          (dcFilled k (fault k (useFree s.fresh 1) (responseRec s.fresh j)) off true))))) ∧
    (s.part (rootUnit 1) → ∀ w hits, Clean hits →
      let d := takeSpan w s.fresh
      let answers (d : Dyn) := exec (.edgeWalk w hits) s = .next (s.served d)
      (tget d.nb.walkers w = none → answers d) ∧
      (∀ x e l g, tget d.nb.walkers w = some x → d.nb.cq.find? (fun e => e.idx = x.cq) = some e →
        launchGraph d e.slot = some (l, g) → answers (settle (cqClear (walkLines w l g.key.toNat e 12 d x)) e.slot)) ∧
      (∀ x, tget d.nb.walkers w = some x → (∀ e, d.nb.cq.find? (fun e => e.idx = x.cq) = some e → launchGraph d e.slot = none) →
        answers d)) ∧
    (∀ b, s.part (bankUnit b) →
      let box := (outbox s.fresh b).dropWhile (·.void)
      let d := setOutbox s.fresh b box
      let answers (d : Dyn) := exec (.readyEntryEnter b) s = .next (s.served d)
      (box = [] → answers d) ∧
      (∀ e rest, box = e :: rest →
        let list := entryList k d e
        let enters := entryRoom k d e = true ∧ tookNow d list < listRate list ∧ outranked k d e = false
        (enters → answers (enterList k (setOutbox d b (offerHead d.fc rest)) e)) ∧ (¬ enters → answers d)))

/-- The end of a launch. The sweep of a running launch with no edge left to walk and every node terminal sums the PENDs that are left, and of
any other it does nothing (R88). The completion return of a swept launch waits while a record of a failed operation of the launch, or its
own, cannot enter; it has the launch's status, or CONSERVATION with a record when the sum fails; a child launch ends its GRAPH node and is
gone, another posts its return, and a service launch counts STEP (R57, R89, R161, R333). A GRAPH node that runs makes its child launch, waits
for room, or ends: CANCELLED when its launch has failed, BAD_DESCRIPTOR at depth 8, or with the status that refuses it (R60). -/
def Obligations.LaunchEnds : Prop :=
  ∀ (s : State), s.serving → let k := s.m.cfg
    (∀ slot,
      let quiet (l : Launch) := l.phase = .running ∧ launchQuiet s.fresh slot = true ∧ allTerminal s.fresh l = true
      (∀ l, tget s.m.d.ls.slots slot = some l → quiet l →
        exec (.conservationSweep slot) s = .next (s.served (modLaunch s.fresh slot (fun x =>
          { x with phase := .swept (listSum (l.indices.map (fun g => (getNode s.fresh g).pend))) })))) ∧
      ((∀ l, tget s.m.d.ls.slots slot = some l → ¬ quiet l) → exec (.conservationSweep slot) s = .next (s.served s.fresh)) ∧
      ((∀ l x, launchGraph s.fresh slot = some (l, x) → ∀ fin, l.phase ≠ .swept fin) →
        exec (.launchCompletionReturn slot) s = .next (s.served s.fresh)) ∧
      (∀ l x fin, launchGraph s.fresh slot = some (l, x) → l.phase = .swept fin →
        let good := l.initSum = l.applied + fin
        let waits := (¬ good ∧ summaryFull s.fresh = true) ∨
          s.m.d.fs.waiting.any (fun w => w.record.mech = 0x05 && w.record.launch = some slot) = true
        let r : FRec := { frec 0x05 .conservation (rootUnit 1) with
          ctx := some l.id.c, launch := some slot, detail := w64 (l.initSum + (l.applied + fin) * 2 ^ 32) }
        let d := if good then s.fresh else fault k s.fresh r
        let st := if good then l.failed.getD .ok else .conservation
        let answers (d : Dyn) := exec (.launchCompletionReturn slot) s = .next (s.served d)
        (waits → answers s.fresh) ∧
        (∀ p, ¬ waits → l.parent = some p →
          let d1 := launchSample k d slot true
          answers (childEnd (launchGone k (freeRows { d1 with ls := { d1.ls with slots := tdel d1.ls.slots slot } } l) l) p.1 p.2 st)) ∧
        (¬ waits → l.parent = none →
          let ret := launchRet d slot l x.prog st
          let done (d : Dyn) := modLaunch d slot (fun l => { l with phase := .returned, relReserved := 0 })
          let after (d : Dyn) := launchGone k (launchSample k d slot true) l
          let svc := done (pushRet d ret)
          (l.svc = false → answers (after (done (finishRet d ret)))) ∧
          (l.svc = true → answers (after { svc with step := svc.step + 1 }))))) ∧
    (∀ g,
      let node := s.m.d.dp.tasks.find? (fun t => t.g = g && t.op = kGraph && !t.ended)
      let answers (d : Dyn) := exec (.childLaunch g) s = .next (s.served d)
      let runs (t : Task) := hasChild s.fresh t.slot g = false ∧ (getNode s.fresh g).st = .running ∧
        (getNode s.fresh g).launch = t.slot
      ((∀ t l, node = some t → tget s.m.d.ls.slots t.slot = some l → ¬ runs t) → answers s.fresh) ∧
      (∀ t l, node = some t → tget s.m.d.ls.slots t.slot = some l → runs t →
        (l.failed.isSome = true → answers (internalEnd s.fresh t.slot g .cancelled)) ∧
        (l.failed = none → 8 ≤ nesting s.fresh 9 t.slot → answers (internalEnd s.fresh t.slot g .badDescriptor)) ∧
        (l.failed = none → nesting s.fresh 9 t.slot < 8 →
          let x := nodeDesc s.fresh t.slot g
          let w : Want := { id := l.id, svc := l.svc, gid := x.b 0 12, epsel := x.b 12 1 = 1, epoch := x.b 16 8, bases := l.bases,
                            seedidx := l.seedidx, wdigest := l.wdigest, idigest := l.idigest, parent := some (t.slot, g) }
          (admitLaunch k s.fresh w = .error .waits → answers s.fresh) ∧
          (∀ st, admitLaunch k s.fresh w = .error (.refused st) → answers (internalEnd s.fresh t.slot g st)) ∧
          (∀ gr e n row, admitLaunch k s.fresh w = .ok (gr, e, n, row) → answers (startLaunch k s.fresh w gr e n row 0)))))

/-- Check intervals. One closes 8,000 ticks after it began, and not before: counts, tallies and touch masks are latched and the next begins at
0, with the launches of the ledger a generation older (R87, R344). The comparison takes the comparisons that waited, then the stubs in the
order of their units, then the pairs of walker and bank; each that disagrees makes its record and fails its launches, and what was latched is
gone (R19, R87, R342). Where everything agrees and nothing waited, it finds nothing. -/
def Obligations.CheckIntervalsCompared : Prop :=
  ∀ (s : State), s.serving → let k := s.m.cfg
    (intervalOver s.fresh = false → exec .checkIntervalClose s = .next (s.served s.fresh)) ∧
    (intervalOver s.fresh = true →
      let stubs := tallyStubs s.fresh
      let slots := s.m.d.ls.slots.map (fun e => (e.1, { e.2 with touchPrev := e.2.touch, touch := 0 }))
      let ledger := (s.m.d.fe.ledger.filter (fun e => !e.old)).map (fun e => { e with old := true, banksPrev := e.banks, banks := 0 })
      let nb := { s.m.d.nb with latchedSent := s.m.d.nb.sent, latchedAcc := s.m.d.nb.accepted, sent := [], accepted := [],
                                tallies := stubs.map (fun x => (x, rootTally s.fresh x)),
                                reported := stubs.map (fun x => (x, stubTally s.fresh x)), intervalFrom := s.m.d.ts }
      exec .checkIntervalClose s = .next (s.served
        { s.fresh with nb := nb, ls := { s.m.d.ls with slots := slots }, fe := { s.m.d.fe with ledger := ledger } })) ∧
    (∀ accepted tallies,
      let nb := s.m.d.nb
      let acc := (accepted.filter (fun a => a.1 < 64 && a.2.1 < 64)).foldl (fun t a => tset t (64 * a.1 + a.2.1) a.2.2 0) nb.latchedAcc
      let pairs := isort pairOrder ((tkeys nb.latchedSent ++ tkeys acc).eraseDups.map (pairCompare s.fresh acc))
      let got (x : Nat) : Nat × Nat := (tallies.find? (fun t => t.1 = x)).elim (tgetD nb.reported x (0, 0)) (·.2)
      let d1 := nb.heldCmp.foldl (comparePair k) { s.fresh with nb := { nb with heldCmp := [] } }
      let d2 := nb.tallies.foldl (fun d t => tallyMismatch k d t.1 t.2 (got t.1)) d1
      let d3 := pairs.foldl (comparePair k) d2
      exec (.intervalCompare accepted tallies) s = .next (s.served (settleAll
        { d3 with nb := { d3.nb with latchedSent := [], latchedAcc := [], tallies := [], reported := [] } }))) ∧
    (s.m.d.nb.latchedAcc = s.m.d.nb.latchedSent → s.m.d.nb.heldCmp = [] →
      (∀ t ∈ s.m.d.nb.tallies, tgetD s.m.d.nb.reported t.1 (0, 0) = t.2) →
      exec (.intervalCompare [] []) s = .next (s.served (settleAll
        { s.fresh with nb := { s.m.d.nb with latchedSent := [], latchedAcc := [], tallies := [], reported := [] } })))

/-! ## Dispatch and work ports -/

/-- A dispatcher's cycle goes through its selectable entries and, at the root, the closed tiles and the cold fetches, in the order of priority
and age; where the candidates that it found conflict with one another, the cycle is the one in which the older hold the younger (R97, R111,
R235). With nothing to examine it only drops void entries and asks again for missing descriptors. A closed tile that is the one entry is
issued on a holder that is free, else on a free leaf, with a shadow copy where its ROUTE has SHADOW and a second unit lies in the set; a
cold fetch goes to a free DMA-class leaf. Without a free leaf, a second leaf that it needs, or a completion-queue entry, it stays (R131,
R234, R235, R237, R244). While a mismatch record of the dispatcher waits, PLACEMENT changes nothing (R341). -/
def Obligations.DispatcherCycle : Prop :=
  ∀ (s : State) (disp : Disp) (hits : List Hit),
    (s.serving → unitWaits s.fresh 0x03 (dispUnit disp) = true → exec (.placement disp hits) s = .next (s.served s.fresh)) ∧
    (s.part (dispUnit disp) → Clean hits →
      let k := s.m.cfg
      let list := (cycleBegin disp k s.fresh).1
      let d0 := (cycleBegin disp k s.fresh).2
      let answers (d : Dyn) := exec (.placement disp hits) s = .next (s.served d)
      let first := cyclePass disp k d0 list []
      let rivals := settleRivals first.seen
      (rivals.length = first.seen.length → answers first.d) ∧
      (rivals.length ≠ first.seen.length → answers (cyclePass disp k d0 list rivals).d) ∧
      (cycleItems disp d0 list = [] → answers d0) ∧
      (∀ slot chan j prio age, cycleItems disp d0 list = [.tile slot chan j prio age] →
        let tile (r : Route) := r.tiles.find? (fun t => t.j = j && t.st == .acked)
        ((synthFree k d0 slot chan false = false ∨ ∀ r, getRoute d0 slot chan = some r → tile r = none) → answers d0) ∧
        (∀ r t, synthFree k d0 slot chan false = true → getRoute d0 slot chan = some r → tile r = some t →
          let idx := lGbase r.e + t.expert
          let prio := (getNode d0 r.g).prio
          let all := leafSet k d0 (lTparcel r.e)
          let free := (synthEligible k d0 all (lTclass r.e) prio r.g).filter (leafFree k d0 kKernel 1)
          let hold := (holdersOf d0 idx).filter free.contains
          let choice := best .root (lTclass r.e) d0 (if hold.isEmpty then free else hold)
          let want := (getNode d0 r.g).shadow
          let body := lCode r.e + r.blockAddr j * p64 + (64 + 8 * t.recs.length) * 2 ^ 128
          ((choice = none ∨ cqFree d0 = none) → answers d0) ∧
          (∀ l d1 cq, choice = some (l, d1) → cqFree d0 = some cq →
            let multi := all.any (unitsDiffer l)
            let second := best .root (lTclass r.e) d1 (free.filter (unitsDiffer l))
            let issued (d : Dyn) (copies : List Copy) :=
              let d := commitSynth k d cq slot r.g kKernel prio (.tile chan j idx) copies body
              tileCommitted (modTile d slot chan j (fun t => { t with st := .issued })) idx l
            (want = false → answers (issued d1 [copyOf l false])) ∧
            (want = true → multi = false → answers (issued (count d1 cShadowSkip 1) [copyOf l false])) ∧
            (want = true → multi = true → second = none → answers d1) ∧
            (∀ m d2, want = true → multi = true → second = some (m, d2) → answers (issued d2 [copyOf l false, copyOf m true]))))) ∧
      (∀ slot chan idx prio, cycleItems disp d0 list = [.fetch slot chan idx prio] →
        ((synthFree k d0 slot chan true = false ∨ getRoute d0 slot chan = none) → answers d0) ∧
        (∀ r, synthFree k d0 slot chan true = true → getRoute d0 slot chan = some r →
          let prio := (getNode d0 r.g).prio
          let free := (synthEligible k d0 (leafSet k d0 65536) 5 prio r.g).filter (leafFree k d0 kColdfetch 1)
          ((best .root 5 d0 free = none ∨ cqFree d0 = none) → answers d0) ∧
          (∀ l d1 cq, best .root 5 d0 free = some (l, d1) → cqFree d0 = some cq →
            let e := gazEntry d1 idx
            let body := gCold e + gHot e * p64 + gSize e * 2 ^ 128 + idx * 2 ^ 160
            let d2 := commitSynth k d1 cq slot r.g kColdfetch prio (.fetch chan idx) [copyOf l false] body
            answers { d2 with rt := { d2.rt with fetchWait := d2.rt.fetchWait.filter (fun f => f ≠ (slot, chan, idx)) } }))))

/-- PLACEMENT of a dispatcher whose one selectable entry is the node `e`. A kind executed inside Denut is issued and runs at once when its
unit is free (ROUTE, STAT, HOST, GRAPH). A SECTION waits with its reservation until every member can take it, and is then issued on all of
them, with all their credit and the watch of its end. Any other kind runs on the leaf that `place` gives, with a second copy on another unit
where SHADOW is chosen; it waits for its affinity leaf, or stays, as `place` says. Before the commit a fallow bank, a full scoreboard or a
conflict turns it back, and without a completion-queue entry it stays (R94 to R101, R111 to R118, R157). AFFINITY_WAIT_EXPIRY ends a wait of
AFFWAIT cycles (R102). WAIT_TIMEOUT ends a live node of a running launch whose deadline the timestamp has reached, as timed out; before
that, and for any other node, it does nothing (R120 to R122, R172). -/
def Obligations.NodePlacedAndTimed : Prop :=
  (∀ (s : State) (disp : Disp) (hits : List Hit) (e : REntry), s.part (dispUnit disp) → Clean hits →
      let k := s.m.cfg
      let list := (cycleBegin disp k s.fresh).1
      let d0 := (cycleBegin disp k s.fresh).2
      let p := PState.start d0 (issueSlots disp) []
      let x := nodeDesc d0 e.slot e.g
      let d1 := dcTouch d0 (nodeDescOff d0 e.slot e.g)
      let answers (d : Dyn) := exec (.placement disp hits) s = .next (s.served d)
      let packet (d : Dyn) (idx l : Nat) (shadow : Bool) :=
        sendPacket k d l (pktHead d idx e.slot e.g x.op x.bodyWords) shadow x.body (bodyPtrOf k d e.slot e.g) false
      cycleItems disp d0 list = [.node e] →
      (onEngines x.op = false →
        (internalFree d0 e x = false → answers d0) ∧
        (internalFree d0 e x = true →
          (∀ d', turnBack .root list p d1 e x = some d' → answers d') ∧
          (turnBack .root list p d1 e x = none → cqFree d1 = none → answers d1) ∧
          (∀ idx, turnBack .root list p d1 e x = none → cqFree d1 = some idx →
            let d := issueNode d1 .root idx e x [] .running
            (x.op = kRoute → answers (routeIssue k d e.slot e.g x)) ∧
            (x.op = kStat → answers (statIssue k d e.slot e.g (((tget d.ls.slots e.slot).map (fun l => l.id.c)).getD 0) x)) ∧
            (x.op = kHost → answers (internalEnd (hostReturn d e.slot x) e.slot e.g .ok)) ∧
            (x.op = kGraph → answers d)))) ∧
      (x.op = kSection →
        let ms := sectionMembers k d0 x
        (sectionReady k d0 e x ms = false → answers (reserve d0 e x ms)) ∧
        (sectionReady k d0 e x ms = true →
          ((256 ≤ d1.ch.sect.length ∨ regionOpen disp [] (regionLeaves ms) = false) → answers d1) ∧
          (d1.ch.sect.length < 256 → regionOpen disp [] (regionLeaves ms) = true →
            (∀ d', turnBack disp list p d1 e x = some d' → answers d') ∧
            (turnBack disp list p d1 e x = none → cqFree d1 = none → answers d1) ∧
            (∀ idx, turnBack disp list p d1 e x = none → cqFree d1 = some idx →
              let w := sectionWatch d1 idx e x
              let d2 := issueNode d1 disp idx e x (ms.map (fun l => copyOf l false)) .issued
              let d3 := { d2 with ch := { d2.ch with sect := d2.ch.sect ++ [w] } }
              let h := pktHead d3 idx e.slot e.g x.op x.bodyWords
              let d4 := ms.foldl (fun d l =>
                let d := sendPacket k d l h false x.body (bodyPtrOf k d e.slot e.g) false
                let c := credit k d l
                modEng d l (fun en => { en with secHeld := en.secHeld + c, secTask := some idx })) d3
              (reached (chain d4 w.stream) w.target = true → answers (dueSection d4 idx)) ∧
              (reached (chain d4 w.stream) w.target = false → answers d4))))) ∧
      (onEngines x.op = true → x.op ≠ kSection →
        (someFree k d0 e x = false → answers d0) ∧
        (someFree k d0 e x = true →
          (place disp k d1 e x = .none → answers d1) ∧
          (∀ l, place disp k d1 e x = .wait l →
            let q := mapIf (fun q => q.g = e.g) (fun q => { q with affWait := true }) (readyList d1 disp)
            let d := setReadyList d1 disp q
            answers { d with dp := { d.dp with waits := d.dp.waits ++ [{ disp := disp, g := e.g, leaf := l, since := d.fc }] } }) ∧
          (∀ l d2, place disp k d1 e x = .leaf l d2 →
            let two := (leafSet k d2 x.target).any (fun a => (leafSet k d2 x.target).any (fun b => unitsDiffer a b))
            let one := (getNode d2 e.g).shadow = false ∨ x.pin = true ∨ two = false
            let d3 := if (getNode d2 e.g).shadow then modNode (count d2 cShadowSkip 1) e.g (fun n => { n with shadow := false }) else d2
            let free2 := (eligible k d2 e.g x).filter (fun m => unitsDiffer l m && leafFree k d2 x.op x.bodyWords m)
            (one →
              (∀ d', turnBack disp list p d3 e x = some d' → answers d') ∧
              (turnBack disp list p d3 e x = none → cqFree d3 = none → answers d3) ∧
              (∀ idx, turnBack disp list p d3 e x = none → cqFree d3 = some idx →
                answers (packet (issueNode d3 disp idx e x [copyOf l false] .issued) idx l false))) ∧
            (¬ one →
              (best disp x.cls d2 free2 = none → answers d2) ∧
              (∀ m d', best disp x.cls d2 free2 = some (m, d') →
                (∀ d', turnBack disp list p d2 e x = some d' → answers d') ∧
                (turnBack disp list p d2 e x = none → cqFree d2 = none → answers d2) ∧
                (∀ idx, turnBack disp list p d2 e x = none → cqFree d2 = some idx →
                  let d4 := issueNode d' disp idx e x [copyOf l false, copyOf m true] .issued
                  let h := pktHead d4 idx e.slot e.g x.op x.bodyWords
                  let d5 := sendPacket k d4 l h false x.body (bodyPtrOf k d4 e.slot e.g) false
                  answers (sendPacket k d5 m h true x.body (bodyPtrOf k d5 e.slot e.g) false)))))))) ∧
  (∀ (s : State) (g : Nat), s.serving →
      let n := getNode s.fresh g
      ((∀ w, s.m.d.dp.waits.find? (fun w => w.g = g) = some w →
          cyclesSince s.fresh w.since < (nodeDesc s.fresh n.launch g).affWait) →
        exec (.affinityWaitExpiry g) s = .next (s.served s.fresh)) ∧
      (∀ w, s.m.d.dp.waits.find? (fun w => w.g = g) = some w → (nodeDesc s.fresh n.launch g).affWait ≤ cyclesSince s.fresh w.since →
        exec (.affinityWaitExpiry g) s = .next (s.served (endWait s.fresh w true)))) ∧
  (∀ (s : State) (g : Nat), s.serving →
      let n := getNode s.fresh g
      let x := nodeDesc s.fresh n.launch g
      let due (l : Launch) := n.st ≠ .idle ∧ n.st.terminal = false ∧ l.phase = .running ∧ x.waitTo ≠ 0 ∧
        reached s.m.d.ts (l.instTs + w64 (x.waitTo * 1000)) = true
      ((∀ l, tget s.m.d.ls.slots n.launch = some l → ¬ due l) → exec (.waitTimeout g) s = .next (s.served s.fresh)) ∧
      (∀ l, tget s.m.d.ls.slots n.launch = some l → due l →
        let d0 := count s.fresh cNodeTmo 1
        let d1 := match taskOf d0 n.launch g with
          | some t => timeoutTask d0 t
          | none => dropWaiting d0 n.launch g
        let d2 := failLaunch (modNode d1 g (fun n => { n with st := .timedOut, start := false })) n.launch .timeout
        let d3 := if (nodeDesc d2 n.launch g).op = kGraph then cancelChildren d2 n.launch g else d2
        exec (.waitTimeout g) s = .next (s.served (settle d3 n.launch))))

/-- PACKET_NOTICE gives the oldest packet without a notice, once a synthesised body is written, the lowest PTAG that no noticed packet of the
port holds; those already noticed keep theirs, and points past the last packet move to it (R127, R131, R134). Without such a packet, or
while a mismatch record of the stub waits, it does nothing (R341). Of a task engine with no record of its own waiting: READ, with none
blocked, blocks with its time-out and its arrival, and answers at once with the word at the read point, else with the idle item of a
condition that stands; MARK saves the read point; REWIND restores it, and without a saved point returns NOMARK (R133, R135, R136, R139).
Of any other engine, and behind a waiting record, the three do nothing. IDLE_TIMEOUT ends a blocked READ once its time-out has passed, and
otherwise does nothing. -/
def Obligations.WorkPortOperations : Prop :=
  ∀ (s : State) (l : Nat), let k := s.m.cfg
    let e := getEng s.fresh l
    (s.serving → unitWaits s.fresh 0x03 (unitOf l) = true → exec (.packetNotice l) s = .next (s.served s.fresh)) ∧
    (s.part (unitOf l) →
      ((∀ p, e.pkts.find? (fun p => !p.noticed) = some p → p.bodyWait = true) → exec (.packetNotice l) s = .next (s.served s.fresh)) ∧
      (∀ p, e.pkts.find? (fun p => !p.noticed) = some p → p.bodyWait = false →
        ∃ tag, (∀ q ∈ e.pkts, q.noticed = true → q.ptag ≠ tag) ∧
          (∀ n < tag, ∃ q ∈ e.pkts, q.noticed = true ∧ q.ptag = n) ∧
          exec (.packetNotice l) s = .next (s.served (serveBlocked k (setEng s.fresh l { e with
            asm := p.words.getLastD e.asm,
            pkts := e.pkts.filter (·.noticed) ++ [{ p with noticed := true, ptag := tag, beats := 4 * p.words.length }]
              ++ dropFirst (fun q => !q.noticed) (e.pkts.filter (fun q => !q.noticed)),
            rp := e.rp.onNotice tag, sp := e.sp.map (fun p => p.onNotice tag) }) l)))) ∧
    (s.serving →
      ((k.taskEngine l = false ∨ opBlocked s.fresh l = true) →
        (∀ tmo, exec (.read l tmo) s = .next (s.served s.fresh)) ∧ exec (.mark l) s = .next (s.served s.fresh) ∧
        exec (.rewind l) s = .next (s.served s.fresh)) ∧
      (k.taskEngine l = true → opBlocked s.fresh l = false →
        (∀ tmo : BitVec 21, e.blocked = none →
          let d := modEng s.fresh l (fun e =>
            { e with blocked := some (BitVec.ofNat 21 (capTo tmo.toNat), s.m.d.fc), reqAge := s.m.d.rep.reqAge })
          let d := { d with rep := { d.rep with reqAge := d.rep.reqAge + 1 } }
          (∀ d', readWord k d l = some d' → exec (.read l tmo) s = .next (s.served d')) ∧
          (∀ r, readWord k d l = none → idleReason k d l = some r →
            exec (.read l tmo) s = .next (s.served (idleItem d l r (waited d (getEng d l))))) ∧
          (readWord k d l = none → idleReason k d l = none → exec (.read l tmo) s = .next (s.served d))) ∧
        exec (.mark l) s = .next (s.served (modEng s.fresh l (fun e => { e with sp := some e.rp }))) ∧
        (∀ p, e.sp = some p → exec (.rewind l) s = .next (s.served (serveBlocked k (modEng s.fresh l (fun e => { e with rp := p })) l))) ∧
        (e.sp = none → exec (.rewind l) s = .next (s.served (out s.fresh (.noMark l))))) ∧
      ((∀ b, e.blocked = some b → b.1 = 0 ∨ cyclesSince s.fresh b.2 < b.1.toNat) →
        exec (.idleTimeout l) s = .next (s.served s.fresh)) ∧
      (∀ b, e.blocked = some b → b.1 ≠ 0 → b.1.toNat ≤ cyclesSince s.fresh b.2 →
        exec (.idleTimeout l) s = .next (s.served (idleItem s.fresh l 1 (cyclesSince s.fresh b.2)))))

/-- A RELEASE whose PTAG names no packet or a packet that has not been taken, and a READ while one is blocked, leave every port
alone; PORT_ERR counts it, and a record of MECH 0x0B names the engine (R141). -/
def Obligations.PortProtocolErrors : Prop :=
  ∀ (s : State) (l : Nat) (i : Instr) (detail : Nat), s.serving → s.m.cfg.taskEngine l = true → opBlocked s.fresh l = false →
    ((∃ ptag status digest, i = .release l ptag status digest ∧ detail = 3 + status.toNat * 2 ^ 8 ∧
        ∀ p, (getEng s.fresh l).tagged ptag = some p → p.taken = false) ∨
     (∃ tmo, i = .read l tmo ∧ detail = 0 ∧ (getEng s.fresh l).blocked.isSome)) →
    ∃ d, exec i s = .next (s.served d) ∧ d.en = s.m.d.en ∧
      (tgetD d.cnt cPortErr 0).toNat = min max64 ((tgetD s.m.d.cnt cPortErr 0).toNat + 1) ∧
      d = fault s.m.cfg (count s.fresh cPortErr 1)
        { frec 0x0B .badDescriptor (unitOf l) with eng := some (leafSlot l), detail := w64 detail }

/-- RELEASE of a taken packet takes its words from the port and sends its credit and its report; a status that no engine may use makes a
record; from an engine that is no task engine, or behind a waiting record, it does nothing (R140 to R143). HEARTBEAT ends a silence. HANG, of an
engine that holds taken packets and has been silent for HANG_LIMIT × 65,536 cycles, makes one record and reports HANG for each packet, and
otherwise does nothing (R346). TAKEN_REPORT: the node runs once every copy of its packet is taken; CREDIT_RETURN gives the words and the
thread context back and serves what waits for them (R96, R102, R107, R144). COMPLETION_REPORT, when it is not early, nothing of the part
waits and its own record can enter, is sampled: one that names no copy not released yet is stray; one of a task that is over is discarded;
the others give the task its verdict, and the one packet's OK ends it (R77, R117, R143, R342, R350, R361). -/
def Obligations.PacketReleasedAndReported : Prop :=
  (∀ (s : State) (l : Nat), s.serving → let k := s.m.cfg
      let e := getEng s.fresh l
      ((k.taskEngine l = false ∨ opBlocked s.fresh l = true) → ∀ ptag status digest,
        exec (.release l ptag status digest) s = .next (s.served s.fresh)) ∧
      (∀ ptag (status : Byte) digest p, k.taskEngine l = true → opBlocked s.fresh l = false → e.tagged ptag = some p → p.taken = true →
        let d := dropPkt s.fresh l p
        let r : Report := { task := p.task, slot := p.slot, g := p.g, leaf := l,
                            code := if p.fallow && status = 0 then BitVec.ofNat 8 Status.bankFallow.code else status,
                            digest := digest, tokdig := p.tokdig, hang := false }
        let d := { d with rep := { d.rep with
          credits := d.rep.credits ++ [(l, p.words.length, if p.op = kThread then 1 else 0, p.task)], reports := d.rep.reports ++ [r] } }
        (status.toNat ∈ releaseCodes → exec (.release l ptag status digest) s = .next (s.served d)) ∧
        (status.toNat ∉ releaseCodes → exec (.release l ptag status digest) s = .next (s.served (fault k d
          { frec 0x0B .badDescriptor (unitOf l) with ctx := some p.ctx, launch := some p.slot, node := some p.g,
                                                     eng := some (leafSlot l), detail := w64 (3 + status.toNat * 2 ^ 8) })))) ∧
      (k.taskEngine l = false → exec (.heartbeat l) s = .next (s.served s.fresh)) ∧
      (k.taskEngine l = true →
        exec (.heartbeat l) s = .next (s.served (modEng s.fresh l (fun e => { e with silence := 0, hung := false })))) ∧
      ((e.holdsTaken = false ∨ e.hung = true ∨ summaryFull s.fresh = true ∨ e.silence < k.hangLimit.toNat * 65536) →
        exec (.hang l) s = .next (s.served s.fresh)) ∧
      (e.holdsTaken = true → e.hung = false → summaryFull s.fresh = false → k.hangLimit.toNat * 65536 ≤ e.silence →
        let rs : List Report := (e.pkts.filter (fun p => p.taken && !p.hung)).map (fun p =>
          { task := p.task, slot := p.slot, g := p.g, leaf := l, code := BitVec.ofNat 8 Status.hang.code, digest := 0, tokdig := 0,
            hang := true })
        let d := setEng s.fresh l { e with pkts := mapIf (fun p => p.taken && !p.hung) (fun p => { p with hung := true }) e.pkts, hung := true }
        exec (.hang l) s = .next (s.served (fault k { d with rep := { d.rep with reports := d.rep.reports ++ rs } }
          { frec 0x07 .hang (unitOf l) with eng := some (leafSlot l), detail := w64 e.silence })))) ∧
  (∀ (s : State) (l : Nat), s.serving → let k := s.m.cfg
      (s.m.d.rep.takens.find? (fun t => t.1 = l) = none → exec (.takenReport l) s = .next (s.served s.fresh)) ∧
      (∀ t, s.m.d.rep.takens.find? (fun t => t.1 = l) = some t →
        let d := { s.fresh with rep := { s.m.d.rep with takens := dropFirst (fun x => x = t) s.m.d.rep.takens } }
        let d := modTask d t.2 (fun x => x.setCopy l (fun c => { c with taken := true }))
        let runs (x : Task) := x.kind = .node ∧ x.ended = false ∧ x.copies.all (·.taken) = true ∧ (getNode d x.g).st = .issued
        (∀ x, taskAt d t.2 = some x → runs x →
          exec (.takenReport l) s = .next (s.served (modNode d x.g (fun n => { n with st := .running })))) ∧
        ((∀ x, taskAt d t.2 = some x → ¬ runs x) → exec (.takenReport l) s = .next (s.served d))) ∧
      (s.m.d.rep.credits.find? (fun c => c.1 = l) = none → exec (.creditReturn l) s = .next (s.served s.fresh)) ∧
      (∀ c, s.m.d.rep.credits.find? (fun c => c.1 = l) = some c →
        let d := { s.fresh with rep := { s.m.d.rep with credits := dropFirst (fun x => x = c) s.m.d.rep.credits } }
        let d := modEng d l (fun e => { e with used := e.used - c.2.1, threads := e.threads - c.2.2.1,
                                               secHeld := if e.secTask.isSome then e.secHeld + c.2.1 else e.secHeld })
        exec (.creditReturn l) s = .next (s.served (sectionCredit k (serveWaits k d l) c.2.2.2)))) ∧
  (∀ (s : State) (i : Nat), let k := s.m.cfg
      let answers (d : Dyn) := exec (.completionReport i) s = .next (s.served d)
      (s.serving → unitWaits s.fresh 0x03 (rootUnit 1) = true → answers s.fresh) ∧
      (s.part (rootUnit 1) →
        (s.m.d.rep.reports[i]? = none → answers s.fresh) ∧
        (∀ r, s.m.d.rep.reports[i]? = some r →
          let early := (∃ x ∈ s.m.d.rep.reports.take i, x.leaf = r.leaf) ∨ (r.leaf, r.task) ∈ s.m.d.rep.takens ∨
            (r.hang = false ∧ ∃ x ∈ s.m.d.rep.credits, x.1 = r.leaf ∧ x.2.2.2 = r.task)
          let judged := mechWaits s.fresh 0x0D = true ∧ (taskAt s.fresh r.task).any (fun t => t.op = kSurvey) = true
          let d := { s.fresh with rep := { s.m.d.rep with reports := s.m.d.rep.reports.eraseIdx i } }
          ((early ∨ judged ∨ s.m.d.fs.waiting.length < (sampleReport k d r).fs.waiting.length) → answers s.fresh) ∧
          (¬ early → ¬ judged → (sampleReport k d r).fs.waiting.length ≤ s.m.d.fs.waiting.length → answers (sampleReport k d r)) ∧
          ((∀ t, taskAt d r.task = some t → t.copies.find? (fun c => c.leaf = r.leaf && !c.released) = none) →
            sampleReport k d r = failLaunch (fault k d { frec 0x06 .conservation (unitOf r.leaf) with
              launch := some r.slot, node := some r.g, eng := some (leafSlot r.leaf),
              detail := w64 (2 ^ 16 + (r.slot * 2 ^ 20 + r.g) % p32 * p32) }) r.slot .conservation) ∧
          (∀ t c, taskAt d r.task = some t → t.copies.find? (fun c => c.leaf = r.leaf && !c.released) = some c →
            let st : Status := if r.hang then .hang else releaseStatus r.code.toNat
            let rep := if c.report.isSome then c.report else some (st, r.digest.toNat, r.tokdig)
            let t' := t.setCopy r.leaf (fun c =>
              { c with report := rep, failAt := if c.report.isSome then c.failAt else s.m.d.fc.toNat, released := !r.hang })
            let d' := surveyJudge k (eccReport k (modTask d r.task (fun _ => t')) t' r st) t' c st r.digest.toNat
            let gone := match t.kind with
              | .tile _ _ idx =>
                if (taskVerdict k d' t).isNone && (taskVerdict k d' t').isSome then modGaz d' idx (fun x => { x with use := x.use - 1 }) else d'
              | _ => d'
            (t.ended = true → sampleReport k d r = discardReport gone t') ∧
            (t.ended = false →
              (taskVerdict k d' t' = none → sampleReport k d r = d') ∧
              (∀ v, taskVerdict k d' t' = some v → sampleReport k d r = finishTask k v.2.2 t' v.1 v.2.1)) ∧
            (t.copies = [c] → c.report = none → t.ended = false → r.hang = false → r.code = 0 →
              sampleReport k d r = finishTask k d' t' .ok r.digest.toNat)))))

/-! ## Tokens -/

/-- CLAIM opens the queues of its mask for the packet, as one group, unless one is held by another, which answers FULL; an empty mask
answers BAD_DESCRIPTOR. UNCLAIM closes the packet's own queues and answers CLOSED when it does not hold them all. RECV takes its slot and is
served at once or waits. For a shadow copy the three answer BAD_DESCRIPTOR. RECV_TIMEOUT of a pending RECV whose time-out has passed
answers TIMEOUT, and otherwise does nothing (R180, R181, R184, R348). -/
def Obligations.ReceiveQueueOperations : Prop :=
  (∀ (s : State) (l ptag j : Nat) (p : Pkt) (hits : List Hit), Presents s l ptag j p → Clean hits →
    (∀ (qmask : Byte) (sel : Bool),
      let answers (d : Dyn) := exec (.claim l ptag qmask sel) s = .next (s.served d)
      let qs := ones 8 qmask.toNat
      let own (q : Nat) : Bool := (getQ s.fresh (qKey l q)).ownedBy l p.slot p.g p.epoch
      ((p.shadow = true ∨ qs = []) → answers (ans s.fresh l j p.slot .badDescriptor 0)) ∧
      (p.shadow = false → qs ≠ [] → (∀ q ∈ qs, (getQ s.fresh (qKey l q)).isOpen = true → own q = true) →
        let d1 := (upFrom 0 8).foldl (fun d' q => if own q && !qs.contains q then
            setQ d' (qKey l q) { getQ d' (qKey l q) with group := (getQ d' (qKey l q)).group &&& ~~~qmask } else d') s.fresh
        let d2 := qs.foldl (fun d' q => setQ d' (qKey l q)
          { isOpen := true, sel := sel, leaf := l, slot := p.slot, g := p.g, epoch := p.epoch, group := qmask, last := none,
            toks := (getQ d' (qKey l q)).toks }) d1
        answers (serveStub (ans d2 l j p.slot .ok 0) (l / 16))) ∧
      (∀ q ∈ qs, p.shadow = false → (getQ s.fresh (qKey l q)).isOpen = true → own q = false →
        answers (ans s.fresh l j p.slot .full 0))) ∧
    (∀ qmask : Byte, let mine := (ones 8 qmask.toNat).filter (fun q => (getQ s.fresh (qKey l q)).ownedBy l p.slot p.g p.epoch)
      let answers (d : Dyn) := exec (.unclaim l ptag qmask) s = .next (s.served d)
      (p.shadow = true → answers (ans s.fresh l j p.slot .badDescriptor 0)) ∧
      (p.shadow = false → answers (closeQueues (ans s.fresh l j p.slot
        (if mine.length = (ones 8 qmask.toNat).length then .ok else .closed) 0) (mine.map (qKey l))))) ∧
    (∀ (q : Nat) (tmo : BitVec 21),
      (p.shadow = true → exec (.recv l ptag q tmo hits) s = .next (s.served (ans s.fresh l j p.slot .badDescriptor 0))) ∧
      (p.shadow = false → exec (.recv l ptag q tmo hits) s = .next (s.served (serveRecv
        (putOp s.fresh l j (newOp s.fresh p 3 0 0 (q % 8 + capTo tmo.toNat * 2 ^ 32))) l j))))) ∧
  (∀ (s : State) (l i : Nat), s.serving →
    (∀ o, getOp s.fresh l i = some o → o.code = 3 → recvTo o ≠ 0 → recvTo o ≤ cyclesSince s.fresh o.fc →
      exec (.recvTimeout l i) s = .next (s.served (ans s.fresh l i o.slot .timeout 0))) ∧
    ((∀ o, getOp s.fresh l i = some o → o.code ≠ 3 ∨ recvTo o = 0 ∨ cyclesSince s.fresh o.fc < recvTo o) →
      exec (.recvTimeout l i) s = .next (s.served s.fresh)))

/-- An operation of the token interface, of any kind, that an engine cannot present now (no task engine, a waiting record, no free slot, for
RAISE and TAKE a waiting NO_ROUTE record) changes nothing; presented for no taken packet, or with a malformed operand word, or with a
reserved code, it is a protocol error with its code (R141, R177, R178). SEND of one token: a malformed header answers BAD_DESCRIPTOR, a
header without a route NO_ROUTE, both counted in REG_NAK; the SEND of a shadow copy is digested and answered OK; any other takes its slot and
leaves when its pair is free. SEND to a group does the same for every target that it names, and an undefined group answers NO_ROUTE (R174,
R176, R185 to R192, R348, R378). A code of another operation presented through SEND's row does nothing: it has a row of its own. -/
def Obligations.TokenSent : Prop :=
  (∀ (s : State) (l ptag : Nat) (hits : List Hit) (hdr : W64) (payload : W256) (tmask : W32) (qmask : Byte) (sel : Bool) (q creg : Nat)
      (n sig : W16) (v : W32) (tmo : BitVec 21) (i : Instr) (code : Nat), s.serving → Clean hits →
      let sigs := i = .raise l ptag sig n hits ∨ i = .take l ptag sig n tmo hits
      let reserved := ∃ c : BitVec 4, 10 ≤ c.toNat ∧ i = .send l ⟨c, ptag⟩ hdr payload tmask ∧ code = c.toNat
      let malformed := i = .send l ⟨0, ptag⟩ hdr payload tmask ∧ code = 0 ∧ hMc hdr = false ∧ tmask ≠ 0
      let untaken := ∀ p, (getEng s.fresh l).tagged ptag = some p → p.taken = false
      (i = .send l ⟨0, ptag⟩ hdr payload tmask ∧ code = 0 ∨ i = .claim l ptag qmask sel ∧ code = 1 ∨ i = .unclaim l ptag qmask ∧ code = 2 ∨
        i = .recv l ptag q tmo hits ∧ code = 3 ∨ i = .raise l ptag sig n hits ∧ code = 4 ∨ i = .take l ptag sig n tmo hits ∧ code = 5 ∨
        i = .crAcquire l ptag creg n hits ∧ code = 6 ∨
        i = .crCommit l ptag creg n hits ∧ code = 7 ∨ i = .crWait l ptag creg v tmo hits ∧ code = 8 ∨
        i = .crDrain l ptag creg n hits ∧ code = 9 ∨ reserved) →
      ((s.m.cfg.taskEngine l = false ∨ opBlocked s.fresh l = true ∨ firstFree 8 0 (tkeys (getEng s.fresh l).ops) = none ∨
          (sigs ∧ unitWaits s.fresh 0x10 (rootUnit 7) = true)) → exec i s = .next (s.served s.fresh)) ∧
      (∀ j, s.m.cfg.taskEngine l = true → opBlocked s.fresh l = false → firstFree 8 0 (tkeys (getEng s.fresh l).ops) = some j →
        (sigs → unitWaits s.fresh 0x10 (rootUnit 7) = false) → untaken ∨ malformed ∨ reserved →
        exec i s = .next (s.served (protoError s.m.cfg s.fresh l code 0 [.tokRsp l j .badDescriptor 0 0 0 0])))) ∧
  (∀ (s : State) (l ptag : Nat) (hdr : W64) (payload : W256) (tmask : W32) (c : BitVec 4), s.serving → 1 ≤ c.toNat → c.toNat < 10 →
      exec (.send l ⟨c, ptag⟩ hdr payload tmask) s = .next (s.served s.fresh)) ∧
  (∀ (s : State) (l ptag j : Nat) (p : Pkt) (hdr : W64) (payload : W256) (tmask : W32), Presents s l ptag j p →
    hMc hdr = true ∨ tmask = 0 →
    let k := s.m.cfg
    let pay := w256 (bits payload.toNat 0 (8 * hLen hdr))
    let answers (d : Dyn) := exec (.send l ⟨0, ptag⟩ hdr payload tmask) s = .next (s.served d)
    let refused (st : Status) := ans (count s.fresh (cRegNak (leafRegion l)) 1) l j p.slot st 0
    (sendFormOk hdr = false → answers (refused .badDescriptor)) ∧
    (sendFormOk hdr = true → hMc hdr = false →
      (noRoute k s.fresh l hdr = true → answers (refused .noRoute)) ∧
      (noRoute k s.fresh l hdr = false → p.shadow = true → answers (shadowSend s.fresh l j p pay [hdr])) ∧
      (noRoute k s.fresh l hdr = false → p.shadow = false → answers (tryOp k (putOp s.fresh l j
        { newOp s.fresh p 0 hdr pay 0 with tgts := [{ i := 0, hdr := hdr, st := .held }] }) l j))) ∧
    (sendFormOk hdr = true → hMc hdr = true → tget s.m.d.tk.groups (hGroup hdr) = none → answers (refused .noRoute)) ∧
    (sendFormOk hdr = true → hMc hdr = true → ∀ ts, tget s.m.d.tk.groups (hGroup hdr) = some ts →
      let named := (((upFrom 0 ts.length).zip ts).filter (fun x => bit tmask.toNat x.1)).map (fun x => (x.1, targetHdr hdr x.2))
      (named = [] → answers (ans s.fresh l j p.slot .ok 0)) ∧
      (named ≠ [] → p.shadow = true → answers (shadowSend s.fresh l j p pay (named.map (·.2)))) ∧
      (named ≠ [] → p.shadow = false →
        let o := newOp s.fresh p 0 hdr pay tmask.toNat
        let d := putOp s.fresh l j { o with tgts := named.map (fun x => { i := x.1, hdr := x.2, st := .held }) }
        let d := named.foldl (fun d x => match targetRefused k d l x.2 with
          | some st => tgtStatus (count d (cRegNak (leafRegion l)) 1) l j x.1 st
          | none => d) d
        answers (sendDone k (tryOp k d l j) l j none))))

/-- A token on the fabric that ends at this chip is decided at its destination: TOKEN_ARRIVAL at a receive queue or the combining intake,
LOGIT_CHUNK at the routing intake, EVAL_REQUEST at the SFU intake, each of the last two while no record of its part waits. A receive queue
that is open for the leaf and has room takes the token, signals its engine and serves its RECVs; otherwise it answers CLOSED or FULL; a
token from a link for an absent destination is refused with NO_ROUTE. TOKEN_ARRIVAL forwards one for another chip by the route table: without
a route or with the port down it is refused, with 64 frames unconfirmed it waits. A command that names no token of its intake changes
nothing. TOKEN_ACK brings an acknowledgement back to its sender, over the link when it came over one and the endpoint can send (R176, R182,
R183, R187, R193, R194, R226, R265, R341). -/
def Obligations.TokenArrivesAndIsAcknowledged : Prop :=
  ∀ (s : State) (i : Nat), s.serving → let k := s.m.cfg
    let after (c : Instr) (d : Dyn) := exec c s = .next (s.served d)
    let ready (unit : Nat) := unitWaits s.fresh 0x03 unit = false
    (s.m.d.tk.flight[i]? = none →
      after (.tokenArrival i) s.fresh ∧ after (.logitChunk i) s.fresh ∧ after (.evalRequest i) s.fresh) ∧
    (unitWaits s.fresh 0x03 (rootUnit 5) = true → after (.logitChunk i) s.fresh) ∧
    (unitWaits s.fresh 0x03 (rootUnit 6) = true → after (.evalRequest i) s.fresh) ∧
    (∀ t, s.m.d.tk.flight[i]? = some t →
      let d := { s.fresh with tk := { s.m.d.tk with flight := s.m.d.tk.flight.eraseIdx i } }
      let q := qKey (hDest t.hdr) (hQ t.hdr)
      let x := getQ d q
      let log := stubLog (hDest t.hdr / 16)
      let mask := (tgetD s.m.d.tk.routes (hChip t.hdr) 0).toNat
      let p := portOfPair s.m.d.lk.key.toNat (sLeaf t.src) (hChip t.hdr) (hDest t.hdr) (hQ t.hdr) mask
      (endsHere k t = true →
        (intakeOf t = 0 → after (.tokenArrival i) (decideHere k d t)) ∧ (intakeOf t ≠ 0 → after (.tokenArrival i) s.fresh) ∧
        (ready (rootUnit 5) →
          (intakeOf t = 1 → after (.logitChunk i) (decideHere k d t)) ∧ (intakeOf t ≠ 1 → after (.logitChunk i) s.fresh)) ∧
        (ready (rootUnit 6) →
          (intakeOf t = 2 → after (.evalRequest i) (decideHere k d t)) ∧ (intakeOf t ≠ 2 → after (.evalRequest i) s.fresh)) ∧
        (∀ p, linkRefused k t = some p → decideHere k d t = decided d (linkLog p) t .noRoute) ∧
        (linkRefused k t = none → isRootRef (hDest t.hdr) = false →
          (x.isOpen = false ∨ x.leaf ≠ hDest t.hdr → decideHere k d t = decided d log t .closed) ∧
          (x.isOpen = true → x.leaf = hDest t.hdr → 8 ≤ x.toks.length → decideHere k d t = decided d log t .full) ∧
          (x.isOpen = true → x.leaf = hDest t.hdr → x.toks.length < 8 → decideHere k d t =
            decided (serveRecvs (out (setQ d q { x with toks := x.toks ++ [t] }) (.qWake x.leaf (hQ t.hdr))) x.leaf) log t .ok))) ∧
      (endsHere k t = false →
        after (.logitChunk i) s.fresh ∧ after (.evalRequest i) s.fresh ∧
        (mask = 0 → after (.tokenArrival i) (pushAck (count d cTokNak 1) t .noRoute)) ∧
        (mask ≠ 0 → linkOk k d p = false → after (.tokenArrival i) (decided d (linkLog p) t .noRoute)) ∧
        (mask ≠ 0 → linkOk k d p = true → 64 ≤ (getLink d p).unconf.length → after (.tokenArrival i) s.fresh) ∧
        (mask ≠ 0 → linkOk k d p = true → (getLink d p).unconf.length < 64 →
          after (.tokenArrival i) (linkSend (logPut d (linkLog p) t 0xFF) p (tokFrame t (senderSlot t.sender)) true)))) ∧
    (s.m.d.tk.acks[i]? = none → after (.tokenAck i) s.fresh) ∧
    (∀ a, s.m.d.tk.acks[i]? = some a →
      let d := { s.fresh with tk := { s.m.d.tk with acks := s.m.d.tk.acks.eraseIdx i } }
      (∀ l j n, a.tok.sender = .engine l j n → after (.tokenAck i) (sendAcked k d l j n a.status)) ∧
      (∀ q tag part, a.tok.sender = .comb q tag part → after (.tokenAck i) (combAcked k d q tag part a.status)) ∧
      (∀ slot chan j, a.tok.sender = .tally slot chan j → after (.tokenAck i) (tallyAcked k d slot chan j a.status)) ∧
      (∀ n, a.tok.sender = .sfu n → after (.tokenAck i) (sfuAcked k d n a.status)) ∧
      (∀ p n, a.tok.sender = .link p n → linkOk k d p = true → (getLink d p).unconf.length < 64 →
        after (.tokenAck i) (linkSend d p (ackFrame a.tok a.status n) false)) ∧
      (∀ p n, a.tok.sender = .link p n → linkOk k d p = false ∨ 64 ≤ (getLink d p).unconf.length → after (.tokenAck i) s.fresh))

/-! ## Signals and circular regions -/

/-- RAISE and TAKE take their slot and look the identifier up in the context's map: a miss makes them wait for the read of its line; an entry
that is not valid answers NO_ROUTE with a record; else they are decided at the counter. While a rebase holds it they wait; a counter in error
answers ECC_UNCORR; N = 0 answers OK; RAISE adds N to RAISED and serves the waiting TAKEs, or is refused with RANGE_FAULT where RAISED − TAKEN
would reach 2^32; TAKE enters the order of the pending ones and is served from it, or is refused with FULL where it would have to wait behind
4,096 (R171, R213, R214). Of a shadow copy RAISE answers OK and TAKE BAD_DESCRIPTOR (R348). TAKE_TIMEOUT of a pending TAKE whose time-out
has passed answers TIMEOUT and serves those behind it, and otherwise does nothing. -/
def Obligations.SignalOperations : Prop :=
  (∀ (s : State) (l ptag j : Nat) (p : Pkt) (sig n : W16) (tmo : BitVec 21) (hits : List Hit), Presents s l ptag j p → Clean hits →
    unitWaits s.fresh 0x10 (rootUnit 7) = false →
    let o (code timeout : Nat) : OpSlot := newOp s.fresh p code 0 0 (sig.toNat + n.toNat * 2 ^ 16 + timeout * 2 ^ 32)
    let look (code timeout : Nat) := mapLookup s.m.cfg false (putOp s.fresh l j (o code timeout)) (mapKey p.ctx sig.toNat)
    let raised (d : Dyn) := exec (.raise l ptag sig n hits) s = .next (s.served d)
    let taken (d : Dyn) := exec (.take l ptag sig n tmo hits) s = .next (s.served d)
    let waits (d : Dyn) : Dyn := { d with sg := { d.sg with mapWaits := d.sg.mapWaits ++
      [{ ctx := p.ctx, id := sig.toNat, leaf := l, opslot := j, own := none }] } }
    let held (d : Dyn) (i : Nat) : Dyn := { d with sg := { d.sg with held := d.sg.held ++
      [{ obj := .signal i, leaf := l, opslot := j, own := none }] } }
    (p.shadow = true → raised (ans s.fresh l j p.slot .ok 0) ∧ taken (ans s.fresh l j p.slot .badDescriptor 0)) ∧
    (p.shadow = false →
      (∀ d, look 4 0 = (none, d) → raised (waits d)) ∧ (∀ d, look 5 (capTo tmo.toNat) = (none, d) → taken (waits d)) ∧
      (∀ v d, look 4 0 = (some v, d) → sigOf v = none → raised (ans (sigFault s.m.cfg d p.ctx sig.toNat) l j p.slot .noRoute 0)) ∧
      (∀ v d, look 5 (capTo tmo.toNat) = (some v, d) → sigOf v = none →
        taken (ans (sigFault s.m.cfg d p.ctx sig.toNat) l j p.slot .noRoute 0)) ∧
      (∀ v d i, look 4 0 = (some v, d) → sigOf v = some i → let x := getSig d i
        (rebasing d (.signal i) = true → raised (held d i)) ∧
        (rebasing d (.signal i) = false →
          (x.ecc = true → raised (ans d l j p.slot .eccUncorr 0)) ∧
          (x.ecc = false → n = 0 → raised (ans d l j p.slot .ok 0)) ∧
          (x.ecc = false → n ≠ 0 →
            (dist32 x.taken x.raised + n.toNat < 2 ^ 32 → raised
              (ans (serveSig (setSig d i { x with raised := x.raised + n.setWidth 32 }) i) l j p.slot .ok 0)) ∧
            (2 ^ 32 ≤ dist32 x.taken x.raised + n.toNat → raised (ans d l j p.slot .rangeFault 0))))) ∧
      (∀ v d i, look 5 (capTo tmo.toNat) = (some v, d) → sigOf v = some i → let x := getSig d i
        (rebasing d (.signal i) = true → taken (held d i)) ∧
        (rebasing d (.signal i) = false →
          (x.ecc = true → taken (ans d l j p.slot .eccUncorr 0)) ∧
          (x.ecc = false → n = 0 → taken (ans d l j p.slot .ok 0)) ∧
          (x.ecc = false → n ≠ 0 →
            let full := 4096 ≤ d.sg.takes.length ∧ takeWaits d i n.toNat = true
            (full → taken (ans d l j p.slot .full 0)) ∧
            (¬ full → taken (serveSig { d with sg := { d.sg with takes := d.sg.takes ++
              [{ ctr := i, leaf := l, opslot := j, n := n.toNat, timed := capTo tmo.toNat ≠ 0, since := d.fc }] } } i))))))) ∧
  (∀ (s : State) (l q : Nat), s.serving →
    let expired (t : PendTake) (w : OpSlot) := s.m.d.sg.takes.find? (fun t => t.leaf = l && t.opslot = q && t.timed) = some t ∧
      getOp s.fresh l q = some w ∧ bits w.arg.toNat 32 21 ≤ cyclesSince s.fresh t.since
    (∀ t w, expired t w → exec (.takeTimeout l q) s = .next (s.served (serveSig (ans
      { s.fresh with sg := { s.m.d.sg with takes := dropFirst (fun y => y = t) s.m.d.sg.takes } } l q w.slot .timeout 0) t.ctr))) ∧
    ((∀ t w, ¬ expired t w) → exec (.takeTimeout l q) s = .next (s.served s.fresh)))

/-- CR_COMMIT, CR_DRAIN, CR_ACQUIRE and CR_WAIT take their slot and are decided at their region: a rebase holds them; a region in error
answers ECC_UNCORR, one not valid or not the context's BAD_DESCRIPTOR; CR_COMMIT adds N to P and CR_DRAIN adds N to C, each refused with
RANGE_FAULT where P would pass V or C would pass P; CR_ACQUIRE of 0 answers V and CR_WAIT answers OK once P has reached its target; otherwise
the two enter the region's order, or are held at their stub behind 64 pending (R216, R217). Of a shadow copy the first two answer OK, the
others BAD_DESCRIPTOR (R348). CR_WAIT_TIMEOUT after its time-out is RANGE_FAULT, and before it nothing. REBASE takes a pair whose consumer
count has reached 2^31 and REBASE_SWEEP one that has reached 2^24 when none waits that must be, while fewer than 16 are in flight: the
amount goes down the barrier tree; at its end it leaves both counts and every pending target, also those held (R168 to R170). -/
def Obligations.CircularRegionsAndRebase : Prop :=
  (∀ (s : State) (l ptag j creg : Nat) (p : Pkt) (n : W16) (target : W32) (tmo : BitVec 21) (hits : List Hit), Presents s l ptag j p →
      Clean hits →
      let i := creg % 4096
      let x := getCr s.fresh i
      let d (code v timeout : Nat) : Dyn :=
        putOp s.fresh l j { newOp s.fresh p code 0 0 (crArg i v (min (2 ^ 20 - 1) timeout)) with timeout := timeout }
      let acquires (d : Dyn) := exec (.crAcquire l ptag creg n hits) s = .next (s.served d)
      let commits (d : Dyn) := exec (.crCommit l ptag creg n hits) s = .next (s.served d)
      let waits (d : Dyn) := exec (.crWait l ptag creg target tmo hits) s = .next (s.served d)
      let drains (d : Dyn) := exec (.crDrain l ptag creg n hits) s = .next (s.served d)
      let each (f : Dyn → Dyn) := acquires (f (d 6 n.toNat 0)) ∧ commits (f (d 7 n.toNat 0)) ∧
        waits (f (d 8 target.toNat (capTo tmo.toNat))) ∧ drains (f (d 9 n.toNat 0))
      let pends (d : Dyn) (wait : Bool) (n : Nat) (timed : Bool) : Dyn := { d with sg := { d.sg with crWaits := d.sg.crWaits ++
          [{ creg := i, leaf := l, opslot := j, wait := wait, n := n, timed := timed, since := s.m.d.fc }] } }
      (p.shadow = true → let refused := ans s.fresh l j p.slot .badDescriptor 0
        acquires refused ∧ commits (ans s.fresh l j p.slot .ok 0) ∧ waits refused ∧ drains (ans s.fresh l j p.slot .ok 0)) ∧
      (p.shadow = false →
        (rebasing s.fresh (.creg i) = true → each (fun d => serveHeld (holdOp d (.creg i) l j))) ∧
        (rebasing s.fresh (.creg i) = false → x.ecc = true → each (fun d => serveHeld (ans d l j p.slot .eccUncorr 0))) ∧
        (rebasing s.fresh (.creg i) = false → x.ecc = false → x.valid = false ∨ x.ctx ≠ p.ctx →
          each (fun d => serveHeld (ans d l j p.slot .badDescriptor 0))) ∧
        (rebasing s.fresh (.creg i) = false → x.ecc = false → x.valid = true → x.ctx = p.ctx →
          (n.toNat ≤ dist32 x.p x.v → commits (serveHeld (serveCr (ans
            (setCr (d 7 n.toNat 0) i { x with p := x.p + n.setWidth 32 }) l j p.slot .ok 0) i))) ∧
          (dist32 x.p x.v < n.toNat → commits (serveHeld (ans (d 7 n.toNat 0) l j p.slot .rangeFault 0))) ∧
          (n.toNat ≤ dist32 x.c x.p → drains (serveHeld (serveCr (ans
            (setCr (d 9 n.toNat 0) i { x with c := x.c + n.setWidth 32 }) l j p.slot .ok 0) i))) ∧
          (dist32 x.c x.p < n.toNat → drains (serveHeld (ans (d 9 n.toNat 0) l j p.slot .rangeFault 0))) ∧
          (n = 0 → acquires (serveHeld (ans (d 6 0 0) l j p.slot .ok x.v.toNat))) ∧
          (n ≠ 0 → let behind := 64 ≤ crPending s.fresh i ∧ acquireWaits s.fresh i n.toNat = true
            (behind → acquires (serveHeld (holdOp (d 6 n.toNat 0) (.creg i) l j))) ∧
            (¬ behind → acquires (serveHeld (serveCr (pends (d 6 n.toNat 0) false n.toNat false) i)))) ∧
          (target.toNat ≤ x.p.toNat → waits (serveHeld (ans (d 8 target.toNat (capTo tmo.toNat)) l j p.slot .ok 0))) ∧
          (x.p.toNat < target.toNat → let d := d 8 target.toNat (capTo tmo.toNat)
            (64 ≤ crPending s.fresh i → waits (serveHeld (holdOp d (.creg i) l j))) ∧
            (crPending s.fresh i < 64 → waits (serveHeld (serveCr (pends d true target.toNat (capTo tmo.toNat ≠ 0)) i))))))) ∧
  (∀ (s : State) (l q : Nat), s.serving →
      let expired (w : PendCr) (o : OpSlot) := s.m.d.sg.crWaits.find? (fun w => w.leaf = l && w.opslot = q && w.timed) = some w ∧
        getOp s.fresh l q = some o ∧ o.timeout ≤ cyclesSince s.fresh w.since
      (∀ w o, expired w o → exec (.crWaitTimeout l q) s = .next (s.served (serveHeld (ans
        { s.fresh with sg := { s.m.d.sg with crWaits := dropFirst (fun y => y = w) s.m.d.sg.crWaits } } l q o.slot .rangeFault 0)))) ∧
      ((∀ w o, ¬ expired w o) → exec (.crWaitTimeout l q) s = .next (s.served s.fresh))) ∧
  (∀ (s : State) (o : PairObj), s.serving →
      (pairTaken s.fresh o = none → exec (.rebase o) s = .next (s.served s.fresh) ∧ exec (.rebaseSweep o) s = .next (s.served s.fresh)) ∧
      (∀ t, pairTaken s.fresh o = some t →
        let amount := w32 (t - t % pairGranule s.fresh o)
        let d := out { s.fresh with sg := { s.m.d.sg with rebases := s.m.d.sg.rebases ++ [(o, amount)] } } (.rebase o amount)
        let room := rebasing s.fresh o = false ∧ s.m.d.sg.rebases.length < 16
        (2 ^ 31 ≤ t ∧ room → exec (.rebase o) s = .next (s.served d)) ∧
        (¬ (2 ^ 31 ≤ t ∧ room) → exec (.rebase o) s = .next (s.served s.fresh)) ∧
        (2 ^ 24 ≤ t ∧ room ∧ rebaseUrgent s.fresh o = false → exec (.rebaseSweep o) s = .next (s.served d)) ∧
        (¬ (2 ^ 24 ≤ t ∧ room ∧ rebaseUrgent s.fresh o = false) → exec (.rebaseSweep o) s = .next (s.served s.fresh))) ∧
      (s.m.d.sg.rebases.find? (fun r => r.1 = o) = none → exec (.rebaseComplete o) s = .next (s.served s.fresh)) ∧
      (∀ r, s.m.d.sg.rebases.find? (fun r => r.1 = o) = some r →
        let d := { s.fresh with sg := { s.m.d.sg with rebases := s.m.d.sg.rebases.filter (fun x => x.1 ≠ o) } }
        (∀ i, o = .signal i → let x := getSig d i
          exec (.rebaseComplete o) s = .next (s.served (serveHeld (serveSig
            (setSig d i { x with raised := x.raised - r.2, taken := x.taken - r.2 }) i)))) ∧
        (∀ i, o = .creg i → let x := getCr d i
          let d := setCr d i { x with v := x.v - r.2, p := x.p - r.2, c := x.c - r.2 }
          let ws := mapIf (fun w => w.creg = i && w.wait) (fun w => { w with n := w.n - r.2.toNat }) d.sg.crWaits
          exec (.rebaseComplete o) s = .next (s.served (serveHeld (serveCr
            (rebaseHeld { d with sg := { d.sg with crWaits := ws } } i r.2.toNat) i))))))

/-! ## Combining, routing, the function unit -/

/-- CONTRIBUTION_APPLY takes the intake's oldest token: its elements enter the tags of its queue in order, or its CLOSE closes its tag, and
the tags that have reached EXPECT or been closed go through their close; with no token, or while no record can enter, nothing changes.
RESULT_DELIVERY of a closed tag writes its result to memory, or sends it as a token: one without a route is discarded with a record; while a
token of the queue is on its way, while a record of a delivery waits, or toward another chip while a written LINK_KEY waits, the tag stays.
Where it names no closed tag, or a token of the queue is on its way, it sends the queue's token that a LINK_KEY held, once the key is
applied, and otherwise changes nothing. Both wait while the part's own mismatch record waits (R187, R195, R203, R204, R209, R211, R341). -/
def Obligations.ContributionsAndResults : Prop :=
  ∀ (s : State) (hits : List Hit) (q tag : Nat), let k := s.m.cfg
    let applied (d : Dyn) := exec (.contributionApply hits) s = .next (s.served d)
    let delivered (d : Dyn) := exec (.resultDelivery q tag) s = .next (s.served d)
    (s.serving → unitWaits s.fresh 0x03 (rootUnit 4) = true → applied s.fresh ∧ delivered s.fresh) ∧
    (s.part (rootUnit 4) → Clean hits →
      (s.m.d.cb.intake = [] ∨ summaryFull s.fresh = true → applied s.fresh) ∧
      (∀ t rest, s.m.d.cb.intake = t :: rest → summaryFull s.fresh = false →
        let e := qEntry s.fresh (combQueue (hDest t.hdr) (hQ t.hdr))
        let tags := applyTok k.boot.chipId e s.m.d.cb.tags t
        applied (closeTags k { s.fresh with cb := { s.m.d.cb with intake := rest, tags := tags } }
          (s.m.d.cb.tags.filter (fun x => x.st == .closed))))) ∧
    (s.part (rootUnit 4) →
      let closed := s.m.d.cb.tags.find? (fun t => t.q = q && t.tag = tag && t.st == .closed)
      let keyed := s.m.d.cb.tags.find? (fun t => t.q = q && t.st.isKeyHeld)
      let e := qEntry s.fresh q
      let free := unitWaits s.fresh 0x10 (rootUnit 4) = false
      let busy := ∃ x ∈ s.m.d.cb.tags, x.q = q ∧ x.st.isSending = true
      let toward (t : Tag) := (resultTok k e t 0).hdr
      (∀ t, closed = some t →
        (unitWaits s.fresh 0x10 (rootUnit 4) = true → delivered s.fresh) ∧
        (free → qDeliver e = 0 → delivered (busWrite k (modTag s.fresh q tag (· == .closed) (fun t => { t with st := .writing }))
          ((qRbase e + tag * outWidth (qOutfmt e)) % p64) (t.bytes e) (.result q tag))) ∧
        (free → qDeliver e ≠ 0 → ¬ busy →
          (k.local (toward t) = false → s.m.d.lk.pendKey ≠ none → delivered s.fresh) ∧
          (k.local (toward t) = true ∨ s.m.d.lk.pendKey = none →
            (noRoute k s.fresh (combRef q) (toward t) = false → delivered (sendResult k s.fresh q tag 0)) ∧
            (noRoute k s.fresh (combRef q) (toward t) = true → delivered (resultRefused k s.fresh q tag .noRoute))))) ∧
      (closed = none ∨ (closed ≠ none ∧ free ∧ qDeliver e ≠ 0 ∧ busy) →
        (keyed = none ∨ s.m.d.lk.pendKey ≠ none → delivered s.fresh) ∧
        (∀ t, keyed = some t → s.m.d.lk.pendKey = none → delivered (sendResult k s.fresh q t.tag t.st.part))))

/-- STAT_CONTROL_BLOCK, once the block's read is back: a read error fails the STAT with ECC_UNCORR, a bad block with BAD_DESCRIPTOR, a good
one is kept. ROW_FINISH consumes the STAT's held tags; a component whose tag failed fails the STAT with that status; else the first row
whose components are all there is written as its outputs (`rowOutputs`, whose open results are free values of the operands, log 16), but
a fast STAT with a component from another chip fails with BAD_DESCRIPTOR; with no such row nothing more happens. STAT_END ends it done once
every row is written and acknowledged, and otherwise does nothing. EVAL_RESULT sends the result of the oldest request whose pair is free,
or discards it with a record where it has no route; with none, or while a record of a delivery waits, nothing changes. A command for a node
with no STAT changes nothing, nor does one of the part's (all but STAT_END) while the part's own mismatch record waits (R187, R256 to R260,
R263, R265, R266, R341, R353). -/
def Obligations.StatAndFunctionResults : Prop :=
  ∀ (s : State) (g : Nat), let k := s.m.cfg
    let block (d : Dyn) := exec (.statControlBlock g) s = .next (s.served d)
    let row (d : Dyn) := exec (.rowFinish g) s = .next (s.served d)
    let ended (d : Dyn) := exec (.statEnd g) s = .next (s.served d)
    let result (d : Dyn) := exec .evalResult s = .next (s.served d)
    let stat := getStat s.fresh g
    (s.serving → unitWaits s.fresh 0x03 (rootUnit 6) = true → block s.fresh ∧ row s.fresh ∧ result s.fresh) ∧
    (s.part (rootUnit 6) →
      (stat = none → block s.fresh ∧ row s.fresh) ∧
      (∀ x, stat = some x → readDone s.fresh (.statBlock x.slot g) = none → block s.fresh) ∧
      (∀ x j, stat = some x → readDone s.fresh (.statBlock x.slot g) = some j →
        let d := dropRead s.fresh (.statBlock x.slot g)
        let b := leAt (j.data.getD []) 0 32
        (j.err = true → block (statFail d x .eccUncorr)) ∧
        (j.err = false → statBlockOk x b = true → block (modStat d x.slot g (fun s => { s with block := some (w256 b) }))) ∧
        (j.err = false → statBlockOk x b = false → block (statFail d { x with block := some (w256 b) } .badDescriptor))) ∧
      (∀ x0, stat = some x0 → let d := consumeAll s.fresh x0.slot g
        (getStat d g = none → row d) ∧
        (∀ x, getStat d g = some x →
          (∀ v, (tvals x.got).find? (fun v => v.2.2.2 ≠ .ok) = some v → row (statFail d x v.2.2.2)) ∧
          ((∀ v ∈ tvals x.got, v.2.2.2 = .ok) →
            (x.ready = [] → row d) ∧
            (∀ r rest, x.ready = r :: rest →
              let remote := ∃ j < x.comps.length, (tgetD x.got (3 * r + j) (0, 0, false, .ok)).2.2.1 = true
              (x.fast = true ∧ remote → row (statFail d x .badDescriptor)) ∧
              (x.fast = false ∨ ¬ remote →
                let o := rowOutputs x d r
                let w := fmtWidth (bOutfmt x.b)
                row (busWrite k (modStat d x.slot g (fun s =>
                  { s with ready := rest, finished := s.finished + 1, writesOut := s.writesOut + 1 }))
                  ((x.dst.toNat + 32 + o.length * r * w) % p64) (o.flatMap (leBytes w)) (.statRow x.slot g))))))) ∧
      (let free (r : EvalReq) := r.sent = false ∧ ∀ y ∈ s.m.d.sf.intake, y.sent = true → samePair (resultHdr k y.tok) (resultHdr k r.tok) = false
       (unitWaits s.fresh 0x10 (rootUnit 6) = true ∨ (∀ r ∈ s.m.d.sf.intake, ¬ free r) → result s.fresh) ∧
        (∀ r before after, s.m.d.sf.intake = before ++ r :: after → free r → (∀ y ∈ before, ¬ free y) →
          unitWaits s.fresh 0x10 (rootUnit 6) = false →
          let h := resultHdr k r.tok
          let unit := mkLeaf 0 0xF9 (leafSlot (hDest r.tok.hdr))
          (noRoute k s.fresh unit h = true → result (evalRefused k s.fresh r .noRoute)) ∧
          (noRoute k s.fresh unit h = false → result (evalSend k s.fresh r))))) ∧
    (s.serving →
      (stat = none → ended s.fresh) ∧
      (∀ x, stat = some x →
        (x.finished = x.rows ∧ x.writesOut = 0 → ended (internalEnd (statRemove s.fresh x) x.slot g .ok)) ∧
        (¬ (x.finished = x.rows ∧ x.writesOut = 0) → ended s.fresh)))

/-- TOKEN_SCORE scores a ROUTE's first complete token: a logit that is NaN or plus infinity fails the ROUTE; else its experts are selected,
the selection row is written, the records enter the tile lists and the missing gazetteer entries are read, tiles close, and after the last
token of a layer that tallies the counts leave; with no complete token, or while the part's own mismatch record waits, nothing changes
(R228 to R232, R238, R341). GAZETTEER_LOOKUP of an entry that some list needs: one that is not cached is read unless it is on its way or its
set is full of held entries; an invalid one fails those ROUTEs with NO_ROUTE; a valid one lets their tiles close (R223, R235, R241).
TILE_BLOCK_ACK of a block write that is out makes its tile a candidate (R233). STAGING_SLOT_TAKE gives a COLD expert that a tile waits for the
slot R243 chooses, whose old owner is COLD again; its fetch waits for issue, or fails where the instance has no DMA engine, which waits for
its record's place; with no such tile, slot or expert nothing changes (R243, R245, Table 12.12). -/
def Obligations.ExpertRouting : Prop :=
  ∀ (s : State), let k := s.m.cfg
  (∀ slot chan : Nat,
    let scored (d : Dyn) := exec (.tokenScore slot chan) s = .next (s.served d)
    (s.serving → unitWaits s.fresh 0x03 (rootUnit 5) = true → scored s.fresh) ∧
    (s.part (rootUnit 5) →
      (getRoute s.fresh slot chan = none → scored s.fresh) ∧
      (∀ r, getRoute s.fresh slot chan = some r →
        (r.complete = [] → scored s.fresh) ∧
        (∀ t rest, r.complete = t :: rest →
          let result := scores s.fresh (lSoftmax r.e) (tvals (tgetD r.bufs t []))
          (result = none → scored (routeFail k s.fresh slot chan .badDescriptor)) ∧
          (∀ ss, result = some ss →
            let cand := ((upFrom 0 ss.length).zip ss).filterMap (fun e => e.2.map (fun s => (e.1, s)))
            let theta := match elemValue 2 (lTheta r.e) with
              | .num a _ => a
              | _ => 0
            let recs := tokenRecords (lRenorm r.e) t (selectExperts cand theta (lKmin r.e) (lKmax r.e))
            let half := if t < half0 r.batch then 0 else 1
            let lists := recs.foldl (fun l e => tput l (2 * e.1 + half) (tgetD l (2 * e.1 + half) [] ++ [e.2])) r.lists
            let counts := if lTally r.e then recs.foldl (fun c e => tput c e.1 (tgetD c e.1 0 + 1)) r.counts else r.counts
            let row := (recs.map (fun e => e.2.toNat)) ++ List.replicate (16 - recs.length) (2 ^ 64 - 1)
            let d := modRoute s.fresh slot chan (fun r =>
              { r with complete := rest, bufs := tdel r.bufs t, rowsOut := r.rowsOut + 1, lists := lists, counts := counts,
                       scored0 := r.scored0 + (1 - half), scored1 := r.scored1 + half })
            let d := busWrite k d ((r.outBase.toNat + 128 * t) % p64) (row.flatMap (leBytes 8)) (.selRow slot chan)
            let d := closeReady k (recs.foldl (fun d e => gazRead k d (lGbase r.e + e.1)) d) slot chan
            let last := r.scored0 + r.scored1 + 1 = r.batch ∧ lTally r.e = true
            (last → scored (sendTally k (modRoute d slot chan (fun r =>
              { r with tallyLeft := upFrom 0 ((lExperts r.e + 7) / 8) })) slot chan)) ∧
            (¬ last → scored d)))))) ∧
  (∀ (base expert : Nat) (hits : List Hit), s.serving → Clean hits →
    let idx := base + expert
    let looked (d : Dyn) := exec (.gazetteerLookup base expert hits) s = .next (s.served d)
    let needy := s.m.d.rt.routes.filter (fun r => r.needs idx)
    (needy = [] → looked s.fresh) ∧
    (needy ≠ [] → gazOf s.fresh idx = none →
      (gazReading s.fresh idx = true ∨ gazSetFull s.fresh idx = true → looked s.fresh) ∧
      (gazReading s.fresh idx = false → gazSetFull s.fresh idx = false →
        looked (busRead k s.fresh ((k.gazBase.toNat + 64 * (idx / 2)) % p64) 64 (.gazLine (idx / 2) true true)))) ∧
    (∀ x, needy ≠ [] → gazOf s.fresh idx = some x →
      (gValid x.entry.toNat = false → looked (needy.foldl (fun d r => routeFail k d r.slot r.chan .noRoute) s.fresh)) ∧
      (gValid x.entry.toNat = true → looked (needy.foldl (fun d r => closeReady k (modRoute d r.slot r.chan (fun r =>
        { r with looked := if r.looked.contains idx then r.looked else idx :: r.looked })) r.slot r.chan) s.fresh)))) ∧
  (∀ slot chan j : Nat, s.serving →
    let acked (d : Dyn) := exec (.tileBlockAck slot chan j) s = .next (s.served d)
    let job := s.m.d.bus.writes.find? (fun w => w.use = .tile slot chan j)
    (job = none → acked s.fresh) ∧
    (∀ w, job = some w →
      let d := { s.fresh with bus := { s.m.d.bus with writes := dropFirst (fun x => x = w) s.m.d.bus.writes } }
      acked (showReads (tileBlockAck slot chan j d)))) ∧
  (∀ idx : Nat, s.serving →
    let taken (d : Dyn) := exec (.stagingSlotTake idx) s = .next (s.served d)
    let cold := gTier (gazEntry s.fresh idx) = 1 ∧ (hasDma k = true ∨ summaryFull s.fresh = false)
    (waitingOn s.fresh idx = [] ∨ stageChoice k s.fresh = none ∨ ¬ cold → taken s.fresh) ∧
    (∀ a c more i, waitingOn s.fresh idx = (a, c) :: more → stageChoice k s.fresh = some i → cold →
      let d := match tget s.m.d.rt.stages i with
        | none => s.fresh
        | some old => gazWrite k s.fresh old.idx (gSet old.entry.toNat 1 0)
      let e := gSet (gazEntry d idx) 2 ((k.stageBase.toNat + i * k.stageSlot.toNat) % p64)
      let d := gazWrite k (modGaz d idx (fun x => { x with use := x.use + 1 })) idx e
      let d := { d with rt := { d.rt with
        stages := tput d.rt.stages i { idx := idx, entry := w256 e, last := d.rt.clock }, clock := d.rt.clock + 1 } }
      (hasDma k = true → taken { d with rt := { d.rt with fetchWait := d.rt.fetchWait ++ [(a, c, idx)] } }) ∧
      (hasDma k = false → taken (fetchFail k d idx (rootUnit 5) 0 none (some a)))))

/-! ## Chainage, the timestamp, the standing service -/

/-- CHAIN_ADVANCE of a stream, outside reset and freeze, adds n modulo 2^64 to its counter and tests every watch entry; in DOZE one that this
finds reached wakes the block. In reset, while frozen, or for another number it changes nothing (R148, R151, R160, R406). A watch fires what
it finds reached in order: the cycle that found it, descending distance, stream, index (R153). RELEASE_WATCH_FIRE makes up to 8 nodes
ready, one after another, passing over the entries of a bank once one of them has no room (R155, R454); SECTION_END_FIRE raises the notices of
up to 4 tasks; EXPIRY_FIRE and ADMISSION_FIRE mark up to 4 requests, as many as have room for their CHAIN_MARKs, which are recorded in
ascending stream; the admission reports besides (R153 to R159, R327, R328). TS_BACK of a timestamp that runs back counts and records it, and
takes it over once its record has entered; one that does not, or while such a record waits, changes nothing, nor does one in reset or
while frozen (R167, R172). -/
def Obligations.ChainageAndWatches : Prop :=
  ∀ s : State, let k := s.m.cfg
  (∀ (i : Nat) (n : W16), let advanced (t : State) := exec (.chainAdvance i n) s = .next t
    let d := watchTest { s.fresh with ch := { s.m.d.ch with chain := tset s.m.d.ch.chain i (chain s.fresh i + n.setWidth 64) 0 } }
    (16 ≤ i ∨ k.inReset = true ∨ k.frozen = true → advanced (s.served s.fresh)) ∧
    (i < 16 → k.inReset = false → k.frozen = false →
      (k.doze = .awake ∨ foundCount d ≤ foundCount s.m.d → advanced (s.served d)) ∧
      (k.doze ≠ .awake → foundCount s.m.d < foundCount d → advanced (s.servedBlock (wake { s.m with d := d }))))) ∧
  (∀ l : List Watch, (∀ w, w ∈ firing l ↔ w ∈ l ∧ w.found.isSome = true ∧ w.fired = false) ∧
    (firing l).Pairwise (fun a b => fireBefore a.key b.key = true)) ∧
  (∀ l : List SvcWatch, (∀ w, w ∈ svcFiring l ↔ w ∈ l ∧ w.found.isSome = true) ∧
    (svcFiring l).Pairwise (fun a b => fireBefore a.key b.key = true)) ∧
  (s.serving → let d := watchTest s.fresh
    exec .releaseWatchFire s = .next (s.served (settleAll (fireReleases k 8 (firing d.ch.release) [] d))) ∧
    (∀ (n : Nat) (w : Watch) (t : List Watch) (shut : List Nat) (d : Dyn),
      let bank := nodeBank d w.slot w.g
      fireReleases k n [] shut d = d ∧ fireReleases k 0 (w :: t) shut d = d ∧
      (bank ∈ shut ∨ readyRoom d w.slot w.g = false →
        fireReleases k (n + 1) (w :: t) shut d = fireReleases k (n + 1) t (bank :: shut) d) ∧
      (bank ∉ shut → readyRoom d w.slot w.g = true → fireReleases k (n + 1) (w :: t) shut d = fireReleases k n t shut (becomeReady k
        { d with ch := { d.ch with release := d.ch.release.filter (fun x => !(x.slot = w.slot && x.g = w.g)) } } w.slot w.g))) ∧
    exec .sectionEndFire s = .next (s.served (((firing d.ch.sect).take 4).foldl (fun d w => raiseSectEnd { d with ch := { d.ch with
      sect := mapIf (fun x => x.task = w.task) (fun x => { x with fired := true }) d.ch.sect } } w.task) d)) ∧
    (∀ l, firingNow d l = (svcFiring l).take ((upFrom 1 4).filter (fun n => rpRoom d n false)).length) ∧
    (let ws := firingNow d d.ch.expiry
     exec .expiryFire s = .next (s.served (ws.foldl (fun d w => modWindow { d with ch := { d.ch with
       expiry := d.ch.expiry.filter (fun x => x.order ≠ w.order) } } w.order (fun r => { r with expired := true })) (markAll d 2 ws)))) ∧
    (let ws := firingNow d d.ch.admission
     exec .admissionFire s = .next (s.served (ws.foldl (fun d w => admissionReport (modWindow { d with ch := { d.ch with
       admission := d.ch.admission.filter (fun x => x.order ≠ w.order) } } w.order (fun r => { r with admissible := true })) w)
       (markAll d 1 ws))))) ∧
  (∀ ts : W64,
    (k.inReset = true ∨ k.frozen = true → exec (.tsBack ts) s = .next (s.with s.fresh)) ∧
    (k.inReset = false → k.frozen = false →
      (reached ts s.m.d.ts = true ∨ tsHeld s.fresh = true → exec (.tsBack ts) s = .next (s.served s.fresh)) ∧
      (reached ts s.m.d.ts = false → tsHeld s.fresh = false →
        let d := fault k (count s.fresh cTsBack 1) { frec 0x0E .timeout (7 * 4096 + 4) with
          detail := w64 (s.m.d.ts.toNat % p32 + ts.toNat % p32 * p32) }
        (tsHeld d = true → exec (.tsBack ts) s = .next (s.served d)) ∧
        (tsHeld d = false → exec (.tsBack ts) s = .next (s.served { d with ts := ts })))))

/-- The standing service. SERVICE_REQUEST_TAKE first takes a snapshot of TAIL where one is due and its record has room (R284, R326); the
request at HEAD is then taken, unless the service does not run, HEAD is at the snapshot, 64 requests are pending, a stopping service's
batch has not ended, or its record has no room: a malformed one ends with BAD_DESCRIPTOR, one of a stopping service with CANCELLED, any
other enters the window (R306, R307, R310). STEP_BOUNDARY, at a boundary with no result waiting and room for a record: expired requests
end with TIMEOUT, free slots are filled unless the service is stopping, and the batch table is written, or with an empty batch a stopping
service may end; otherwise nothing changes (R307, R308). BATCH_TABLE_ACK posts the step's launch once its table is written, no
result waits and a request has room. STEP_COMPLETION of the step in flight gives every slot its outcome and posts the results; with none it
changes nothing (R309, R310). -/
def Obligations.ServiceSteps : Prop :=
  ∀ (s : State) (w : BitVec 512) (dones : List Byte), s.firmware →
    let k := s.m.cfg
    let sv := s.m.d.sv
    let took (d : Dyn) := exec (.serviceRequestTake w) s = .next (s.served d)
    let bound (d : Dyn) := exec .stepBoundary s = .next (s.served d)
    let written (d : Dyn) := exec .batchTableAck s = .next (s.served (showReads d))
    let stepped (d : Dyn) := exec (.stepCompletion dones) s = .next (s.served d)
    (let d := svcSnap s.fresh
     let stays := d.sv.run = false ∨ d.sv.reqHead = d.sv.reqSnap ∨ 64 ≤ d.sv.window.length ∨
       (d.sv.stopping.isSome = true ∧ d.sv.idle = false) ∨ rpRoom d 3 false = false
     (sv.snapDue = false ∨ rpRoom s.fresh 1 false = false → d = s.fresh) ∧
     (sv.snapDue = true → rpRoom s.fresh 1 false = true → d = modSv (rpPut s.fresh 0x04 false sv.ctx 0 (sv.reqTail.toNat + 2 ^ 32) [] none)
       (fun x => { x with reqSnap := x.reqTail, reqPend := false })) ∧
     (stays → took d) ∧
     (¬ stays →
       let e := modSv (rpPut d 0x07 false d.sv.ctx 0 (qRseq w + d.sv.reqHead.toNat * 2 ^ 32) [w256 w.toNat, w256 (w.toNat >>> 256)] none)
         (fun x => { x with reqHead := x.reqHead + 1 })
       let after (d : Dyn) := took (svcTryEnd k (flushResults k d.sv.results d))
       (svcReqOk w = false → after (endUnadmitted e w .badDescriptor)) ∧
       (svcReqOk w = true → d.sv.stopping ≠ none → after (endUnadmitted e w .cancelled)) ∧
       (svcReqOk w = true → d.sv.stopping = none → after (enterWindow e w)))) ∧
    (sv.atBoundary = false ∨ sv.results ≠ [] ∨ rpRoom s.fresh 1 false = false → bound s.fresh) ∧
    (sv.atBoundary = true → sv.results = [] → rpRoom s.fresh 1 false = true →
      let d := modSv s.fresh (fun x => { x with stepDone := false })
      let d := (d.sv.window.filter (·.expired)).foldl (fun d r => endPending d r .timeout) d
      let d := if sv.stopping.isSome = true then d else fillBatch d
      let d := flushResults k d.sv.results d
      (d.sv.batch = [] → bound (svcTryEnd k d)) ∧
      (d.sv.batch ≠ [] → bound (busWrite k (modSv d (fun x => { x with writing := true })) d.sv.batchTab (batchBytes d.sv) .batchTab))) ∧
    (let job := ∃ j ∈ s.m.d.bus.writes, j.use = .batchTab
     let d := { s.fresh with bus := { s.m.d.bus with writes := dropFirst (fun j => j.use = .batchTab) s.m.d.bus.writes } }
     (job → written (svcTryEnd k (batchWritten d))) ∧ (¬ job → written (batchWritten s.fresh)) ∧
     (∀ d : Dyn,
       (d.sv.run = false ∨ d.sv.writing = false ∨ d.sv.results ≠ [] ∨ reqRoom d = false → batchWritten d = d) ∧
       (d.sv.run = true → d.sv.writing = true → d.sv.results = [] → reqRoom d = true → batchWritten d =
         postReq (modSv d (fun x => { x with writing := false, inFlight := true })) (stepReq d.sv)))) ∧
    (stepReturn s.fresh = none ∨ sv.run = false ∨ sv.inFlight = false → stepped s.fresh) ∧
    (∀ r, stepReturn s.fresh = some r → sv.run = true → sv.inFlight = true →
      let c := w256 (cairn r.prog (w64 sv.wdigest) 0 r.stepv sv.seedidx k.ftv.toNat r.mode)
      let d := modSv (markRet s.fresh r) (fun x => { x with inFlight := false, stepDone := true, lastStep := r.stepv, lastCairn := c })
      let d := d.sv.batch.foldl (slotOutcome r.status dones) d
      let d := if d.sv.stopping = some false then cancelBatch d else d
      stepped (svcTryEnd k (flushResults k d.sv.results d)))

/-! ## Links, the memory ports, observation -/

/-- Over a link that is up, LINK_FRAME asks for a frame with a bad CHECK again, takes one in sequence (a token to its destination, NO_ROUTE
where that is another chip; an acknowledgement to its sender, if there is one), asks again for one out of sequence unless it is discarding,
and lets KIND 3 act as LINK_RETRANSMIT_REQUEST and KIND 4 as LINK_CONFIRMATION. A request for retransmission confirms the frames below it and
sends the rest again; a frame that has failed three times is given up, which waits while no record can enter. LINK_CONFIRM_SEND confirms what
has been owed for 256 cycles. Over a link that is down, or while the port's record waits, nothing is received. LINK_CONFIRM_TIMEOUT drops the
frames sent 4,096 cycles ago; LINK_UP_CHANGE sets the state of a port that is built (R193, R196, R445; the details of a retransmission are the
model's reading, log 32). MEMORY_READ_RESPONSE of a presented read gives data of its length to what the read was for; an error makes a
record first (its DETAIL is free, log 8), which waits for its place; in phase 4 it brings the firmware's header and then its rest, which is
then as FW_IMAGE_READ. WRITE_ACK lets what the write was for go on; an error is no acknowledgement, but fails a STAT. What names no job
changes nothing (R338, R399, R440 to R442, R456). -/
def Obligations.LinksAndMemoryPorts : Prop :=
  ∀ s : State, let k := s.m.cfg
  (s.serving → ∀ p : Nat, let x := getLink s.fresh p
    let after (c : Instr) (d : Dyn) := exec c s = .next (s.served d)
    let resent (seq : W32) (after : Dyn → Prop) := let d := confirmTo s.fresh p seq
      ((getLink d p).unconf = [] → after d) ∧
      (∀ u rest, (getLink d p).unconf = u :: rest →
        (u.2.1 < 3 → after (resend d p)) ∧
        (3 ≤ u.2.1 → summaryFull s.fresh = true → after s.fresh) ∧
        (3 ≤ u.2.1 → summaryFull s.fresh = false → after (resend (giveUp k d p u.1) p)))
    (linkOk k s.fresh p = false → (∀ f, after (.linkFrame p f) s.fresh) ∧ (∀ seq, after (.linkRetransmitRequest p seq) s.fresh) ∧
      (∀ a, after (.linkConfirmation p a) s.fresh) ∧ after (.linkConfirmSend p) s.fresh) ∧
    (linkOk k s.fresh p = true →
      (∀ f : BitVec 576, let d := confirmTo s.fresh p (fAckseq f)
        let frame := after (.linkFrame p f)
        (linkWaits k s.fresh p = true → frame s.fresh) ∧
        (linkWaits k s.fresh p = false →
          (fCheck f ≠ frameCheck f.toNat → frame (askAgain s.fresh p)) ∧
          (fCheck f = frameCheck f.toNat →
            (fKind f = 3 → resent (fAckseq f) frame) ∧
            (fKind f = 1 ∨ fKind f = 2 →
              (fSeq f = (getLink d p).rxSeq → frame (takeFrame k d p f)) ∧
              (fSeq f ≠ (getLink d p).rxSeq → (getLink d p).discarding = true → frame d) ∧
              (fSeq f ≠ (getLink d p).rxSeq → (getLink d p).discarding = false → frame (askAgain d p))) ∧
            (fKind f ≠ 1 → fKind f ≠ 2 → fKind f ≠ 3 → frame d)))) ∧
      (∀ seq, resent seq (after (.linkRetransmitRequest p seq))) ∧
      (∀ a, after (.linkConfirmation p a) (confirmTo s.fresh p a)) ∧
      (x.owed = true ∧ 256 ≤ cyclesSince s.fresh x.owedFrom →
        after (.linkConfirmSend p) (out (setLink s.fresh p { x with owed := false }) (.linkTx p (ctlFrame 4 x.rxSeq)))) ∧
      (¬ (x.owed = true ∧ 256 ≤ cyclesSince s.fresh x.owedFrom) → after (.linkConfirmSend p) s.fresh)) ∧
    (tget k.boot.links p = none → after (.linkConfirmTimeout p) s.fresh) ∧
    (tget k.boot.links p ≠ none → after (.linkConfirmTimeout p)
      (setLink s.fresh p { x with unconf := x.unconf.filter (fun u => cyclesSince s.fresh u.2.2 < 4096) })) ∧
    (∀ up, (p < k.build.linkMax → after (.linkUpChange p up) (setLink s.fresh p { x with up := up })) ∧
      (k.build.linkMax ≤ p → after (.linkUpChange p up) s.fresh)) ∧
    (∀ (d0 : Dyn) (f : BitVec 576), let y := getLink d0 p
      let t : Tok := { hdr := fHdr f, src := fSrc f, payload := fPay f, ddig := fDdig f, sender := .link p (fOpslot f) }
      (fKind f = 1 →
        let d := setLink d0 p { y.owes d0.fc with rxSeq := y.rxSeq + 1, discarding := false, tokRcvd := y.tokRcvd + 1 }
        (hChip t.hdr ≠ k.boot.chipId → takeFrame k d0 p f = decided d (linkLog p) t .noRoute) ∧
        (hChip t.hdr = k.boot.chipId → takeFrame k d0 p f = { d with tk := { d.tk with flight := d.tk.flight ++ [t] } })) ∧
      (fKind f ≠ 1 →
        let d := setLink d0 p { y.owes d0.fc with rxSeq := y.rxSeq + 1, discarding := false, ackRcvd := y.ackRcvd + 1 }
        (∀ a st, ackSender d (fHdr f) (fSrc f) (fOpslot f) = some a → Status.ofCode (fStatus f) = some st →
          takeFrame k d0 p f = pushAck d { t with sender := a } st) ∧
        (ackSender d (fHdr f) (fSrc f) (fOpslot f) = none ∨ Status.ofCode (fStatus f) = none → takeFrame k d0 p f = d)))) ∧
  (∀ (port : Port) (tag : Nat) (data : List Byte), s.serving →
    let back (err : Bool) (d : Dyn) := exec (.memoryReadResponse port tag data err) s = .next (s.served d)
    let job := s.m.d.bus.reads.find? (fun j => j.port = port && j.tag = tag && j.shown && j.data.isNone)
    (job = none → back false s.fresh ∧ back true s.fresh) ∧
    (∀ j, job = some j →
      let got (err : Bool) : RdJob := { j with data := some data, err := err }
      let d (err : Bool) : Dyn :=
        { s.fresh with bus := { s.m.d.bus with reads := mapIf (fun x => x = j) (fun _ => got err) s.m.d.bus.reads } }
      (data.length ≠ j.len → back false s.fresh) ∧
      (data.length = j.len → back false (readReturned k (d false) (got false))) ∧
      (summaryFull s.fresh = true → back true s.fresh) ∧
      (summaryFull s.fresh = false →
        back true (readReturned k (fault k (useFree (d true) 1) (responseRec (d true) j)) (got true))))) ∧
  (∀ (port : Port) (tag : Nat) (data : List Byte) (err : Bool), k.serving = false →
    let back (b : Block) := exec (.memoryReadResponse port tag data err) s = .next { s with m := b }
    let job := s.m.d.bus.reads.find? (fun j => j.port = port && j.tag = tag && j.use = .fwImage)
    (job = none ∨ k.booting .p4 = false → back s.block) ∧
    (∀ j, job = some j → k.booting .p4 = true →
      let image := k.fwImage ++ data
      let head := err = false ∧ image.length = 64 ∧ imageLenOk image = true ∧ 64 < leAt image 8 4
      (err = false → data.length ≠ j.len → back s.block) ∧
      (head → data.length = j.len →
        let d := busReadOn .memory (dropRead s.fresh .fwImage) (k.boot.fwAddr.toNat + 64) (leAt image 8 4 - 64) .fwImage
        back { cfg := { k with fwImage := image }, d := d }) ∧
      (err = true ∨ data.length = j.len → ¬ head → back (fwImageRead image err s.block)))) ∧
  (∀ (port : Port) (tag : Nat), s.serving →
    let acked (err : Bool) (d : Dyn) := exec (.writeAck port tag err) s = .next (s.served d)
    let job := s.m.d.bus.writes.find? (fun j => j.port = port && j.tag = tag)
    (job = none → acked false s.fresh ∧ acked true s.fresh) ∧
    (∀ j, job = some j → acked false (writeAcked k s.fresh j false) ∧
      ((∃ slot g, j.use = .statRow slot g) → acked true (writeAcked k s.fresh j true)) ∧
      ((∀ slot g, j.use ≠ .statRow slot g) → acked true s.fresh)))

/-- INSPECT answers with the parts of its object, one return each, or with BAD_DESCRIPTOR for one that Table 13.23 does not have (R390). A
SAMPLING_TICK in a cycle that is a multiple of the interval samples the task engines, where PCS_CTL.EN is 1, and every launch in flight that
was not taken in that cycle (R415 to R417, R420). LOSS_RECORD writes the LOSS record of what was dropped, once the buffer has room (R422).
TRACE_SPILL_WRITE acknowledges the spill write that is out, and presents the write of the oldest record while spilling is on and the ring
has room for it (R421). REPLAY_DRAIN acknowledges the record that is out, and presents the writes of the oldest staged record, one per slot,
once its IMGDIG is known and while recording is enabled; where the ring lacks room it sets FULL instead (R325, R328, R370). Where there is
no request, tick, loss, record or room, nothing changes. -/
def Obligations.Observation : Prop :=
  ∀ (s : State) (hits : List Hit), s.serving → Clean hits →
    let k := s.m.cfg
    let after (c : Instr) (d : Dyn) := exec c s = .next (s.served d)
    (frontOp s.fresh 0 cInspect = none → after .inspect s.fresh) ∧
    (∀ q, frontOp s.fresh 0 cInspect = some q →
      let d := useFree (takeReq s.fresh q) 1
      let parts := inspectParts k s.fresh (opn q.ops 16 1) (opn q.ops 20 4)
      (parts = none → after .inspect (pushRet d (inspectRet q .badDescriptor 0 true 0))) ∧
      (∀ ps, parts = some ps → after .inspect
        ((ps.zip (upFrom 0 ps.length)).foldl (fun d x => pushRet d (inspectRet q .ok x.2 (x.2 + 1 = ps.length) x.1)) d))) ∧
    (∀ taps, let engines := k.allLeaves.filter k.taskEngine
      let d := if k.pcsEn = true then engines.foldl (pcSample k taps) s.fresh else s.fresh
      let runs := (launchesInFlight d).filter (fun e => !(tget d.ls.counts e.1).any (fun c => c.fc = d.fc))
      (s.m.d.fc.toNat % 2 ^ k.pcsLog2.toNat = 0 → after (.samplingTick taps) (runs.foldl (fun d e => launchSample k d e.1 false) d)) ∧
      (s.m.d.fc.toNat % 2 ^ k.pcsLog2.toNat ≠ 0 → after (.samplingTick taps) s.fresh)) ∧
    (s.m.d.tr.dropped = 0 ∨ traceRoom k s.fresh = false → after .lossRecord s.fresh) ∧
    (s.m.d.tr.dropped ≠ 0 → traceRoom k s.fresh = true →
      let d := tracePush s.fresh (traceRec s.m.d.ts 0x01 2 (s.m.d.tr.dropped + s.m.d.tr.firstTs.toNat * 2 ^ 64))
      after .lossRecord { d with tr := { d.tr with dropped := 0, firstTs := 0 } }) ∧
    ((∀ j ∈ s.m.d.bus.writes, isSpill j = false) → after (.traceSpillWrite hits) (spillNext k s.fresh)) ∧
    (∀ j, s.m.d.bus.writes.find? isSpill = some j → after (.traceSpillWrite hits) (spillNext k (showReads (spillAck
      { s.fresh with bus := { s.m.d.bus with writes := dropFirst isSpill s.m.d.bus.writes } } j.data.length)))) ∧
    ((∀ j ∈ s.m.d.bus.writes, isReplay j = false) → after .replayDrain (replayNext k s.fresh)) ∧
    (∀ j n, s.m.d.bus.writes.find? isReplay = some j → j.use = .replay n → after .replayDrain (replayNext k (showReads (replayAck
      { s.fresh with bus := { s.m.d.bus with writes := s.m.d.bus.writes.filter (fun x => !isReplay x) } } n)))) ∧
    (∀ d : Dyn,
      let used := dist32 d.tr.spillHead d.tr.spillTail + d.tr.spillOut
      (d.tr.buf = [] ∨ k.traceSpill = false ∨ 2 ^ k.spillLog2.toNat < used + 32 → spillNext k d = d) ∧
      (∀ w t, d.tr.buf = w :: t → k.traceSpill = true → used + 32 ≤ 2 ^ k.spillLog2.toNat →
        let a := (k.spillBase.toNat + (d.tr.spillTail.toNat + d.tr.spillOut) % 2 ^ k.spillLog2.toNat) % p64
        spillNext k d = traceLoss k (busWrite k { d with tr := { d.tr with buf := t, spillOut := d.tr.spillOut + 32 } } a
          (leBytes 32 w.toNat) (.spill 32))) ∧
      (d.rp.stage = [] → replayNext k d = d) ∧
      (∀ r t, d.rp.stage = r :: t →
        (r.img ≠ none ∨ (∃ j ∈ d.bus.writes, isReplay j = true) ∨ k.replayEn = false → replayNext k d = d) ∧
        (r.img = none → (∀ j ∈ d.bus.writes, isReplay j = false) → k.replayEn = true →
          let n := r.slots.length
          let slot (i : Nat) : Nat := (k.replayBase.toNat + 32 * ((d.rp.tail.toNat + i) % 2 ^ k.replayLog2.toNat)) % p64
          (2 ^ k.replayLog2.toNat < dist32 d.rp.head d.rp.tail + n → replayNext k d = { d with rp := { d.rp with full := true } }) ∧
          (dist32 d.rp.head d.rp.tail + n ≤ 2 ^ k.replayLog2.toNat →
            replayNext k d = (r.slots.zip (upFrom 0 n)).foldl (fun d w => busWrite k d (slot w.2) (leBytes 32 w.1.toNat) (.replay n))
              { d with rp := { d.rp with stage := t, full := false } }))))

/-! ## The whole block -/

/-- Right after reset no command waits, the block is at boot phase 1 in SERVICE and not frozen or in DOZE, DET is 0, CBLK 2,
SHFRAC 0, HANG_LIMIT 16 and TOK_STALL 256, FC, STEP, every chainage counter and every register counter are 0, no context is
open, no launch, graph, fault record or trace record is there, the configuration side is legal, and the addressed stores are in their
canonical form (R150, R163, R391, R416; the Reset columns of chapter 13). -/
def Obligations.ResetState : Prop :=
  let s := State.reset
  s.pending = [] ∧ s.m.cfg.phase = .p1 ∧ s.m.cfg.health = .service ∧ s.m.cfg.frozen = false ∧ s.m.cfg.doze = .awake ∧
  s.m.cfg.det = false ∧ s.m.cfg.cblk = 2 ∧ s.m.cfg.shfrac = 0 ∧ s.m.cfg.hangLimit = 16 ∧ s.m.cfg.tokStall = 256 ∧
  s.m.d.fc = 0 ∧ s.m.d.step = 0 ∧ (∀ i, chain s.m.d i = 0) ∧ (∀ off, tgetD s.m.d.cnt off 0 = 0) ∧ s.m.d.fe.ctxs = [] ∧
  s.m.d.ls.slots = [] ∧ s.m.d.gs.graphs = [] ∧ s.m.d.fs.recs = [] ∧ s.m.d.tr.buf = [] ∧ Cfg.Legal s.m.cfg ∧
  Memory.wf s.m.d = true

/-- Every step keeps the configuration side legal: CBLK at most 8, SHFRAC at most 5, HANG_LIMIT at least 2, the sampling
interval between 2^8 and 2^24, a rate of Table 15.7, DET only with the replay log enabled, the replay log and the trace spill
only with a ring of a legal size, DOZE only of a booted chip (R295, R317, R346, R378, R379, R405, R421, R429). -/
def Obligations.ConfigurationStaysLegal : Prop :=
  ∀ s t : State, Cfg.Legal s.m.cfg → step s = .next t → Cfg.Legal t.m.cfg

/-- No command but a reset changes DNT_HEALTH.STATE otherwise than Table 12.7 gives (SURVEY_END makes two of its changes at
once), and nothing but a reset leaves FLAGGED (R354). -/
def Obligations.HealthChangesOnlyAsTheTableGives : Prop :=
  ∀ (c : Instr) (s t : State), c ≠ .por → c ≠ .sysReset → c ≠ .dntReset → exec c s = .next t →
    HealthEdge s.m.cfg.health t.m.cfg.health

/-- The frame of the configuration side: every command but those that `WritesConfig` names leaves all of it alone, and every
command leaves the waiting commands alone. -/
def Obligations.ConfigurationKept : Prop :=
  ∀ (c : Instr) (s t : State), exec c s = .next t → t.pending = s.pending ∧ (¬ WritesConfig c → t.m.cfg = s.m.cfg)
end

