-- ==== Sys2Proof/Laws/State.lean ====
section
/-! SUPPORT. Reads of one part of the running side after an update of another: each update changes its own part alone. -/
namespace Sys2Proof.Machine

@[simp] theorem out_fc (d : Dyn) (o : PortOut) : (out d o).fc = d.fc := rfl
@[simp] theorem out_ts (d : Dyn) (o : PortOut) : (out d o).ts = d.ts := rfl
@[simp] theorem out_free (d : Dyn) (o : PortOut) : (out d o).free = d.free := rfl
@[simp] theorem out_step (d : Dyn) (o : PortOut) : (out d o).step = d.step := rfl
@[simp] theorem out_held (d : Dyn) (o : PortOut) : (out d o).held = d.held := rfl
@[simp] theorem out_latch (d : Dyn) (o : PortOut) : (out d o).latch = d.latch := rfl
@[simp] theorem out_cnt (d : Dyn) (o : PortOut) : (out d o).cnt = d.cnt := rfl
@[simp] theorem out_bankTally (d : Dyn) (o : PortOut) : (out d o).bankTally = d.bankTally := rfl
@[simp] theorem out_bus (d : Dyn) (o : PortOut) : (out d o).bus = d.bus := rfl
@[simp] theorem out_fe (d : Dyn) (o : PortOut) : (out d o).fe = d.fe := rfl
@[simp] theorem out_lt (d : Dyn) (o : PortOut) : (out d o).lt = d.lt := rfl
@[simp] theorem out_gs (d : Dyn) (o : PortOut) : (out d o).gs = d.gs := rfl
@[simp] theorem out_ls (d : Dyn) (o : PortOut) : (out d o).ls = d.ls := rfl
@[simp] theorem out_nb (d : Dyn) (o : PortOut) : (out d o).nb = d.nb := rfl
@[simp] theorem out_dp (d : Dyn) (o : PortOut) : (out d o).dp = d.dp := rfl
@[simp] theorem out_en (d : Dyn) (o : PortOut) : (out d o).en = d.en := rfl
@[simp] theorem out_rep (d : Dyn) (o : PortOut) : (out d o).rep = d.rep := rfl
@[simp] theorem out_tk (d : Dyn) (o : PortOut) : (out d o).tk = d.tk := rfl
@[simp] theorem out_cb (d : Dyn) (o : PortOut) : (out d o).cb = d.cb := rfl
@[simp] theorem out_sg (d : Dyn) (o : PortOut) : (out d o).sg = d.sg := rfl
@[simp] theorem out_rt (d : Dyn) (o : PortOut) : (out d o).rt = d.rt := rfl
@[simp] theorem out_sf (d : Dyn) (o : PortOut) : (out d o).sf = d.sf := rfl
@[simp] theorem out_sv (d : Dyn) (o : PortOut) : (out d o).sv = d.sv := rfl
@[simp] theorem out_fs (d : Dyn) (o : PortOut) : (out d o).fs = d.fs := rfl
@[simp] theorem out_tr (d : Dyn) (o : PortOut) : (out d o).tr = d.tr := rfl
@[simp] theorem out_rp (d : Dyn) (o : PortOut) : (out d o).rp = d.rp := rfl
@[simp] theorem out_mn (d : Dyn) (o : PortOut) : (out d o).mn = d.mn := rfl
@[simp] theorem out_lk (d : Dyn) (o : PortOut) : (out d o).lk = d.lk := rfl
@[simp] theorem out_ch (d : Dyn) (o : PortOut) : (out d o).ch = d.ch := rfl
@[simp] theorem out_pw (d : Dyn) (o : PortOut) : (out d o).pw = d.pw := rfl
@[simp] theorem out_ram (d : Dyn) (o : PortOut) : (out d o).ram = d.ram := rfl

@[simp] theorem useFree_outs (d : Dyn) (n : Nat) : (useFree d n).outs = d.outs := rfl
@[simp] theorem useFree_fc (d : Dyn) (n : Nat) : (useFree d n).fc = d.fc := rfl
@[simp] theorem useFree_ts (d : Dyn) (n : Nat) : (useFree d n).ts = d.ts := rfl
@[simp] theorem useFree_step (d : Dyn) (n : Nat) : (useFree d n).step = d.step := rfl
@[simp] theorem useFree_held (d : Dyn) (n : Nat) : (useFree d n).held = d.held := rfl
@[simp] theorem useFree_latch (d : Dyn) (n : Nat) : (useFree d n).latch = d.latch := rfl
@[simp] theorem useFree_cnt (d : Dyn) (n : Nat) : (useFree d n).cnt = d.cnt := rfl
@[simp] theorem useFree_bankTally (d : Dyn) (n : Nat) : (useFree d n).bankTally = d.bankTally := rfl
@[simp] theorem useFree_bus (d : Dyn) (n : Nat) : (useFree d n).bus = d.bus := rfl
@[simp] theorem useFree_fe (d : Dyn) (n : Nat) : (useFree d n).fe = d.fe := rfl
@[simp] theorem useFree_lt (d : Dyn) (n : Nat) : (useFree d n).lt = d.lt := rfl
@[simp] theorem useFree_gs (d : Dyn) (n : Nat) : (useFree d n).gs = d.gs := rfl
@[simp] theorem useFree_ls (d : Dyn) (n : Nat) : (useFree d n).ls = d.ls := rfl
@[simp] theorem useFree_nb (d : Dyn) (n : Nat) : (useFree d n).nb = d.nb := rfl
@[simp] theorem useFree_dp (d : Dyn) (n : Nat) : (useFree d n).dp = d.dp := rfl
@[simp] theorem useFree_en (d : Dyn) (n : Nat) : (useFree d n).en = d.en := rfl
@[simp] theorem useFree_rep (d : Dyn) (n : Nat) : (useFree d n).rep = d.rep := rfl
@[simp] theorem useFree_tk (d : Dyn) (n : Nat) : (useFree d n).tk = d.tk := rfl
@[simp] theorem useFree_cb (d : Dyn) (n : Nat) : (useFree d n).cb = d.cb := rfl
@[simp] theorem useFree_sg (d : Dyn) (n : Nat) : (useFree d n).sg = d.sg := rfl
@[simp] theorem useFree_rt (d : Dyn) (n : Nat) : (useFree d n).rt = d.rt := rfl
@[simp] theorem useFree_sf (d : Dyn) (n : Nat) : (useFree d n).sf = d.sf := rfl
@[simp] theorem useFree_sv (d : Dyn) (n : Nat) : (useFree d n).sv = d.sv := rfl
@[simp] theorem useFree_fs (d : Dyn) (n : Nat) : (useFree d n).fs = d.fs := rfl
@[simp] theorem useFree_tr (d : Dyn) (n : Nat) : (useFree d n).tr = d.tr := rfl
@[simp] theorem useFree_rp (d : Dyn) (n : Nat) : (useFree d n).rp = d.rp := rfl
@[simp] theorem useFree_mn (d : Dyn) (n : Nat) : (useFree d n).mn = d.mn := rfl
@[simp] theorem useFree_lk (d : Dyn) (n : Nat) : (useFree d n).lk = d.lk := rfl
@[simp] theorem useFree_ch (d : Dyn) (n : Nat) : (useFree d n).ch = d.ch := rfl
@[simp] theorem useFree_pw (d : Dyn) (n : Nat) : (useFree d n).pw = d.pw := rfl
@[simp] theorem useFree_ram (d : Dyn) (n : Nat) : (useFree d n).ram = d.ram := rfl

@[simp] theorem count_outs (d : Dyn) (off n : Nat) : (count d off n).outs = d.outs := rfl
@[simp] theorem count_fc (d : Dyn) (off n : Nat) : (count d off n).fc = d.fc := rfl
@[simp] theorem count_ts (d : Dyn) (off n : Nat) : (count d off n).ts = d.ts := rfl
@[simp] theorem count_free (d : Dyn) (off n : Nat) : (count d off n).free = d.free := rfl
@[simp] theorem count_step (d : Dyn) (off n : Nat) : (count d off n).step = d.step := rfl
@[simp] theorem count_held (d : Dyn) (off n : Nat) : (count d off n).held = d.held := rfl
@[simp] theorem count_latch (d : Dyn) (off n : Nat) : (count d off n).latch = d.latch := rfl
@[simp] theorem count_bankTally (d : Dyn) (off n : Nat) : (count d off n).bankTally = d.bankTally := rfl
@[simp] theorem count_bus (d : Dyn) (off n : Nat) : (count d off n).bus = d.bus := rfl
@[simp] theorem count_fe (d : Dyn) (off n : Nat) : (count d off n).fe = d.fe := rfl
@[simp] theorem count_lt (d : Dyn) (off n : Nat) : (count d off n).lt = d.lt := rfl
@[simp] theorem count_gs (d : Dyn) (off n : Nat) : (count d off n).gs = d.gs := rfl
@[simp] theorem count_ls (d : Dyn) (off n : Nat) : (count d off n).ls = d.ls := rfl
@[simp] theorem count_nb (d : Dyn) (off n : Nat) : (count d off n).nb = d.nb := rfl
@[simp] theorem count_dp (d : Dyn) (off n : Nat) : (count d off n).dp = d.dp := rfl
@[simp] theorem count_en (d : Dyn) (off n : Nat) : (count d off n).en = d.en := rfl
@[simp] theorem count_rep (d : Dyn) (off n : Nat) : (count d off n).rep = d.rep := rfl
@[simp] theorem count_tk (d : Dyn) (off n : Nat) : (count d off n).tk = d.tk := rfl
@[simp] theorem count_cb (d : Dyn) (off n : Nat) : (count d off n).cb = d.cb := rfl
@[simp] theorem count_sg (d : Dyn) (off n : Nat) : (count d off n).sg = d.sg := rfl
@[simp] theorem count_rt (d : Dyn) (off n : Nat) : (count d off n).rt = d.rt := rfl
@[simp] theorem count_sf (d : Dyn) (off n : Nat) : (count d off n).sf = d.sf := rfl
@[simp] theorem count_sv (d : Dyn) (off n : Nat) : (count d off n).sv = d.sv := rfl
@[simp] theorem count_fs (d : Dyn) (off n : Nat) : (count d off n).fs = d.fs := rfl
@[simp] theorem count_tr (d : Dyn) (off n : Nat) : (count d off n).tr = d.tr := rfl
@[simp] theorem count_rp (d : Dyn) (off n : Nat) : (count d off n).rp = d.rp := rfl
@[simp] theorem count_mn (d : Dyn) (off n : Nat) : (count d off n).mn = d.mn := rfl
@[simp] theorem count_lk (d : Dyn) (off n : Nat) : (count d off n).lk = d.lk := rfl
@[simp] theorem count_ch (d : Dyn) (off n : Nat) : (count d off n).ch = d.ch := rfl
@[simp] theorem count_pw (d : Dyn) (off n : Nat) : (count d off n).pw = d.pw := rfl
@[simp] theorem count_ram (d : Dyn) (off n : Nat) : (count d off n).ram = d.ram := rfl

@[simp] theorem setEng_outs (d : Dyn) (l : Nat) (e : Engine) : (setEng d l e).outs = d.outs := rfl
@[simp] theorem setEng_fc (d : Dyn) (l : Nat) (e : Engine) : (setEng d l e).fc = d.fc := rfl
@[simp] theorem setEng_ts (d : Dyn) (l : Nat) (e : Engine) : (setEng d l e).ts = d.ts := rfl
@[simp] theorem setEng_free (d : Dyn) (l : Nat) (e : Engine) : (setEng d l e).free = d.free := rfl
@[simp] theorem setEng_step (d : Dyn) (l : Nat) (e : Engine) : (setEng d l e).step = d.step := rfl
@[simp] theorem setEng_held (d : Dyn) (l : Nat) (e : Engine) : (setEng d l e).held = d.held := rfl
@[simp] theorem setEng_latch (d : Dyn) (l : Nat) (e : Engine) : (setEng d l e).latch = d.latch := rfl
@[simp] theorem setEng_cnt (d : Dyn) (l : Nat) (e : Engine) : (setEng d l e).cnt = d.cnt := rfl
@[simp] theorem setEng_bankTally (d : Dyn) (l : Nat) (e : Engine) : (setEng d l e).bankTally = d.bankTally := rfl
@[simp] theorem setEng_bus (d : Dyn) (l : Nat) (e : Engine) : (setEng d l e).bus = d.bus := rfl
@[simp] theorem setEng_fe (d : Dyn) (l : Nat) (e : Engine) : (setEng d l e).fe = d.fe := rfl
@[simp] theorem setEng_lt (d : Dyn) (l : Nat) (e : Engine) : (setEng d l e).lt = d.lt := rfl
@[simp] theorem setEng_gs (d : Dyn) (l : Nat) (e : Engine) : (setEng d l e).gs = d.gs := rfl
@[simp] theorem setEng_ls (d : Dyn) (l : Nat) (e : Engine) : (setEng d l e).ls = d.ls := rfl
@[simp] theorem setEng_nb (d : Dyn) (l : Nat) (e : Engine) : (setEng d l e).nb = d.nb := rfl
@[simp] theorem setEng_dp (d : Dyn) (l : Nat) (e : Engine) : (setEng d l e).dp = d.dp := rfl
@[simp] theorem setEng_rep (d : Dyn) (l : Nat) (e : Engine) : (setEng d l e).rep = d.rep := rfl
@[simp] theorem setEng_tk (d : Dyn) (l : Nat) (e : Engine) : (setEng d l e).tk = d.tk := rfl
@[simp] theorem setEng_cb (d : Dyn) (l : Nat) (e : Engine) : (setEng d l e).cb = d.cb := rfl
@[simp] theorem setEng_sg (d : Dyn) (l : Nat) (e : Engine) : (setEng d l e).sg = d.sg := rfl
@[simp] theorem setEng_rt (d : Dyn) (l : Nat) (e : Engine) : (setEng d l e).rt = d.rt := rfl
@[simp] theorem setEng_sf (d : Dyn) (l : Nat) (e : Engine) : (setEng d l e).sf = d.sf := rfl
@[simp] theorem setEng_sv (d : Dyn) (l : Nat) (e : Engine) : (setEng d l e).sv = d.sv := rfl
@[simp] theorem setEng_fs (d : Dyn) (l : Nat) (e : Engine) : (setEng d l e).fs = d.fs := rfl
@[simp] theorem setEng_tr (d : Dyn) (l : Nat) (e : Engine) : (setEng d l e).tr = d.tr := rfl
@[simp] theorem setEng_rp (d : Dyn) (l : Nat) (e : Engine) : (setEng d l e).rp = d.rp := rfl
@[simp] theorem setEng_mn (d : Dyn) (l : Nat) (e : Engine) : (setEng d l e).mn = d.mn := rfl
@[simp] theorem setEng_lk (d : Dyn) (l : Nat) (e : Engine) : (setEng d l e).lk = d.lk := rfl
@[simp] theorem setEng_ch (d : Dyn) (l : Nat) (e : Engine) : (setEng d l e).ch = d.ch := rfl
@[simp] theorem setEng_pw (d : Dyn) (l : Nat) (e : Engine) : (setEng d l e).pw = d.pw := rfl
@[simp] theorem setEng_ram (d : Dyn) (l : Nat) (e : Engine) : (setEng d l e).ram = d.ram := rfl

@[simp] theorem setNode_outs (d : Dyn) (g : Nat) (n : NodeRec) : (setNode d g n).outs = d.outs := rfl
@[simp] theorem setNode_fc (d : Dyn) (g : Nat) (n : NodeRec) : (setNode d g n).fc = d.fc := rfl
@[simp] theorem setNode_ts (d : Dyn) (g : Nat) (n : NodeRec) : (setNode d g n).ts = d.ts := rfl
@[simp] theorem setNode_free (d : Dyn) (g : Nat) (n : NodeRec) : (setNode d g n).free = d.free := rfl
@[simp] theorem setNode_step (d : Dyn) (g : Nat) (n : NodeRec) : (setNode d g n).step = d.step := rfl
@[simp] theorem setNode_held (d : Dyn) (g : Nat) (n : NodeRec) : (setNode d g n).held = d.held := rfl
@[simp] theorem setNode_latch (d : Dyn) (g : Nat) (n : NodeRec) : (setNode d g n).latch = d.latch := rfl
@[simp] theorem setNode_cnt (d : Dyn) (g : Nat) (n : NodeRec) : (setNode d g n).cnt = d.cnt := rfl
@[simp] theorem setNode_bankTally (d : Dyn) (g : Nat) (n : NodeRec) : (setNode d g n).bankTally = d.bankTally := rfl
@[simp] theorem setNode_bus (d : Dyn) (g : Nat) (n : NodeRec) : (setNode d g n).bus = d.bus := rfl
@[simp] theorem setNode_fe (d : Dyn) (g : Nat) (n : NodeRec) : (setNode d g n).fe = d.fe := rfl
@[simp] theorem setNode_lt (d : Dyn) (g : Nat) (n : NodeRec) : (setNode d g n).lt = d.lt := rfl
@[simp] theorem setNode_gs (d : Dyn) (g : Nat) (n : NodeRec) : (setNode d g n).gs = d.gs := rfl
@[simp] theorem setNode_ls (d : Dyn) (g : Nat) (n : NodeRec) : (setNode d g n).ls = d.ls := rfl
@[simp] theorem setNode_dp (d : Dyn) (g : Nat) (n : NodeRec) : (setNode d g n).dp = d.dp := rfl
@[simp] theorem setNode_en (d : Dyn) (g : Nat) (n : NodeRec) : (setNode d g n).en = d.en := rfl
@[simp] theorem setNode_rep (d : Dyn) (g : Nat) (n : NodeRec) : (setNode d g n).rep = d.rep := rfl
@[simp] theorem setNode_tk (d : Dyn) (g : Nat) (n : NodeRec) : (setNode d g n).tk = d.tk := rfl
@[simp] theorem setNode_cb (d : Dyn) (g : Nat) (n : NodeRec) : (setNode d g n).cb = d.cb := rfl
@[simp] theorem setNode_sg (d : Dyn) (g : Nat) (n : NodeRec) : (setNode d g n).sg = d.sg := rfl
@[simp] theorem setNode_rt (d : Dyn) (g : Nat) (n : NodeRec) : (setNode d g n).rt = d.rt := rfl
@[simp] theorem setNode_sf (d : Dyn) (g : Nat) (n : NodeRec) : (setNode d g n).sf = d.sf := rfl
@[simp] theorem setNode_sv (d : Dyn) (g : Nat) (n : NodeRec) : (setNode d g n).sv = d.sv := rfl
@[simp] theorem setNode_fs (d : Dyn) (g : Nat) (n : NodeRec) : (setNode d g n).fs = d.fs := rfl
@[simp] theorem setNode_tr (d : Dyn) (g : Nat) (n : NodeRec) : (setNode d g n).tr = d.tr := rfl
@[simp] theorem setNode_rp (d : Dyn) (g : Nat) (n : NodeRec) : (setNode d g n).rp = d.rp := rfl
@[simp] theorem setNode_mn (d : Dyn) (g : Nat) (n : NodeRec) : (setNode d g n).mn = d.mn := rfl
@[simp] theorem setNode_lk (d : Dyn) (g : Nat) (n : NodeRec) : (setNode d g n).lk = d.lk := rfl
@[simp] theorem setNode_ch (d : Dyn) (g : Nat) (n : NodeRec) : (setNode d g n).ch = d.ch := rfl
@[simp] theorem setNode_pw (d : Dyn) (g : Nat) (n : NodeRec) : (setNode d g n).pw = d.pw := rfl
@[simp] theorem setNode_ram (d : Dyn) (g : Nat) (n : NodeRec) : (setNode d g n).ram = d.ram := rfl

@[simp] theorem modLaunch_outs (d : Dyn) (s : Nat) (f : Launch → Launch) : (modLaunch d s f).outs = d.outs := rfl
@[simp] theorem modLaunch_fc (d : Dyn) (s : Nat) (f : Launch → Launch) : (modLaunch d s f).fc = d.fc := rfl
@[simp] theorem modLaunch_ts (d : Dyn) (s : Nat) (f : Launch → Launch) : (modLaunch d s f).ts = d.ts := rfl
@[simp] theorem modLaunch_free (d : Dyn) (s : Nat) (f : Launch → Launch) : (modLaunch d s f).free = d.free := rfl
@[simp] theorem modLaunch_step (d : Dyn) (s : Nat) (f : Launch → Launch) : (modLaunch d s f).step = d.step := rfl
@[simp] theorem modLaunch_held (d : Dyn) (s : Nat) (f : Launch → Launch) : (modLaunch d s f).held = d.held := rfl
@[simp] theorem modLaunch_latch (d : Dyn) (s : Nat) (f : Launch → Launch) : (modLaunch d s f).latch = d.latch := rfl
@[simp] theorem modLaunch_cnt (d : Dyn) (s : Nat) (f : Launch → Launch) : (modLaunch d s f).cnt = d.cnt := rfl
@[simp] theorem modLaunch_bankTally (d : Dyn) (s : Nat) (f : Launch → Launch) : (modLaunch d s f).bankTally = d.bankTally := rfl
@[simp] theorem modLaunch_bus (d : Dyn) (s : Nat) (f : Launch → Launch) : (modLaunch d s f).bus = d.bus := rfl
@[simp] theorem modLaunch_fe (d : Dyn) (s : Nat) (f : Launch → Launch) : (modLaunch d s f).fe = d.fe := rfl
@[simp] theorem modLaunch_lt (d : Dyn) (s : Nat) (f : Launch → Launch) : (modLaunch d s f).lt = d.lt := rfl
@[simp] theorem modLaunch_gs (d : Dyn) (s : Nat) (f : Launch → Launch) : (modLaunch d s f).gs = d.gs := rfl
@[simp] theorem modLaunch_nb (d : Dyn) (s : Nat) (f : Launch → Launch) : (modLaunch d s f).nb = d.nb := rfl
@[simp] theorem modLaunch_dp (d : Dyn) (s : Nat) (f : Launch → Launch) : (modLaunch d s f).dp = d.dp := rfl
@[simp] theorem modLaunch_en (d : Dyn) (s : Nat) (f : Launch → Launch) : (modLaunch d s f).en = d.en := rfl
@[simp] theorem modLaunch_rep (d : Dyn) (s : Nat) (f : Launch → Launch) : (modLaunch d s f).rep = d.rep := rfl
@[simp] theorem modLaunch_tk (d : Dyn) (s : Nat) (f : Launch → Launch) : (modLaunch d s f).tk = d.tk := rfl
@[simp] theorem modLaunch_cb (d : Dyn) (s : Nat) (f : Launch → Launch) : (modLaunch d s f).cb = d.cb := rfl
@[simp] theorem modLaunch_sg (d : Dyn) (s : Nat) (f : Launch → Launch) : (modLaunch d s f).sg = d.sg := rfl
@[simp] theorem modLaunch_rt (d : Dyn) (s : Nat) (f : Launch → Launch) : (modLaunch d s f).rt = d.rt := rfl
@[simp] theorem modLaunch_sf (d : Dyn) (s : Nat) (f : Launch → Launch) : (modLaunch d s f).sf = d.sf := rfl
@[simp] theorem modLaunch_sv (d : Dyn) (s : Nat) (f : Launch → Launch) : (modLaunch d s f).sv = d.sv := rfl
@[simp] theorem modLaunch_fs (d : Dyn) (s : Nat) (f : Launch → Launch) : (modLaunch d s f).fs = d.fs := rfl
@[simp] theorem modLaunch_tr (d : Dyn) (s : Nat) (f : Launch → Launch) : (modLaunch d s f).tr = d.tr := rfl
@[simp] theorem modLaunch_rp (d : Dyn) (s : Nat) (f : Launch → Launch) : (modLaunch d s f).rp = d.rp := rfl
@[simp] theorem modLaunch_mn (d : Dyn) (s : Nat) (f : Launch → Launch) : (modLaunch d s f).mn = d.mn := rfl
@[simp] theorem modLaunch_lk (d : Dyn) (s : Nat) (f : Launch → Launch) : (modLaunch d s f).lk = d.lk := rfl
@[simp] theorem modLaunch_ch (d : Dyn) (s : Nat) (f : Launch → Launch) : (modLaunch d s f).ch = d.ch := rfl
@[simp] theorem modLaunch_pw (d : Dyn) (s : Nat) (f : Launch → Launch) : (modLaunch d s f).pw = d.pw := rfl
@[simp] theorem modLaunch_ram (d : Dyn) (s : Nat) (f : Launch → Launch) : (modLaunch d s f).ram = d.ram := rfl

@[simp] theorem setSig_outs (d : Dyn) (i : Nat) (x : Sig) : (setSig d i x).outs = d.outs := rfl
@[simp] theorem setSig_fc (d : Dyn) (i : Nat) (x : Sig) : (setSig d i x).fc = d.fc := rfl
@[simp] theorem setSig_ts (d : Dyn) (i : Nat) (x : Sig) : (setSig d i x).ts = d.ts := rfl
@[simp] theorem setSig_free (d : Dyn) (i : Nat) (x : Sig) : (setSig d i x).free = d.free := rfl
@[simp] theorem setSig_step (d : Dyn) (i : Nat) (x : Sig) : (setSig d i x).step = d.step := rfl
@[simp] theorem setSig_held (d : Dyn) (i : Nat) (x : Sig) : (setSig d i x).held = d.held := rfl
@[simp] theorem setSig_latch (d : Dyn) (i : Nat) (x : Sig) : (setSig d i x).latch = d.latch := rfl
@[simp] theorem setSig_cnt (d : Dyn) (i : Nat) (x : Sig) : (setSig d i x).cnt = d.cnt := rfl
@[simp] theorem setSig_bankTally (d : Dyn) (i : Nat) (x : Sig) : (setSig d i x).bankTally = d.bankTally := rfl
@[simp] theorem setSig_bus (d : Dyn) (i : Nat) (x : Sig) : (setSig d i x).bus = d.bus := rfl
@[simp] theorem setSig_fe (d : Dyn) (i : Nat) (x : Sig) : (setSig d i x).fe = d.fe := rfl
@[simp] theorem setSig_lt (d : Dyn) (i : Nat) (x : Sig) : (setSig d i x).lt = d.lt := rfl
@[simp] theorem setSig_gs (d : Dyn) (i : Nat) (x : Sig) : (setSig d i x).gs = d.gs := rfl
@[simp] theorem setSig_ls (d : Dyn) (i : Nat) (x : Sig) : (setSig d i x).ls = d.ls := rfl
@[simp] theorem setSig_nb (d : Dyn) (i : Nat) (x : Sig) : (setSig d i x).nb = d.nb := rfl
@[simp] theorem setSig_dp (d : Dyn) (i : Nat) (x : Sig) : (setSig d i x).dp = d.dp := rfl
@[simp] theorem setSig_en (d : Dyn) (i : Nat) (x : Sig) : (setSig d i x).en = d.en := rfl
@[simp] theorem setSig_rep (d : Dyn) (i : Nat) (x : Sig) : (setSig d i x).rep = d.rep := rfl
@[simp] theorem setSig_tk (d : Dyn) (i : Nat) (x : Sig) : (setSig d i x).tk = d.tk := rfl
@[simp] theorem setSig_cb (d : Dyn) (i : Nat) (x : Sig) : (setSig d i x).cb = d.cb := rfl
@[simp] theorem setSig_rt (d : Dyn) (i : Nat) (x : Sig) : (setSig d i x).rt = d.rt := rfl
@[simp] theorem setSig_sf (d : Dyn) (i : Nat) (x : Sig) : (setSig d i x).sf = d.sf := rfl
@[simp] theorem setSig_sv (d : Dyn) (i : Nat) (x : Sig) : (setSig d i x).sv = d.sv := rfl
@[simp] theorem setSig_fs (d : Dyn) (i : Nat) (x : Sig) : (setSig d i x).fs = d.fs := rfl
@[simp] theorem setSig_tr (d : Dyn) (i : Nat) (x : Sig) : (setSig d i x).tr = d.tr := rfl
@[simp] theorem setSig_rp (d : Dyn) (i : Nat) (x : Sig) : (setSig d i x).rp = d.rp := rfl
@[simp] theorem setSig_mn (d : Dyn) (i : Nat) (x : Sig) : (setSig d i x).mn = d.mn := rfl
@[simp] theorem setSig_lk (d : Dyn) (i : Nat) (x : Sig) : (setSig d i x).lk = d.lk := rfl
@[simp] theorem setSig_ch (d : Dyn) (i : Nat) (x : Sig) : (setSig d i x).ch = d.ch := rfl
@[simp] theorem setSig_pw (d : Dyn) (i : Nat) (x : Sig) : (setSig d i x).pw = d.pw := rfl
@[simp] theorem setSig_ram (d : Dyn) (i : Nat) (x : Sig) : (setSig d i x).ram = d.ram := rfl

@[simp] theorem setCr_outs (d : Dyn) (i : Nat) (x : CReg) : (setCr d i x).outs = d.outs := rfl
@[simp] theorem setCr_fc (d : Dyn) (i : Nat) (x : CReg) : (setCr d i x).fc = d.fc := rfl
@[simp] theorem setCr_ts (d : Dyn) (i : Nat) (x : CReg) : (setCr d i x).ts = d.ts := rfl
@[simp] theorem setCr_free (d : Dyn) (i : Nat) (x : CReg) : (setCr d i x).free = d.free := rfl
@[simp] theorem setCr_step (d : Dyn) (i : Nat) (x : CReg) : (setCr d i x).step = d.step := rfl
@[simp] theorem setCr_held (d : Dyn) (i : Nat) (x : CReg) : (setCr d i x).held = d.held := rfl
@[simp] theorem setCr_latch (d : Dyn) (i : Nat) (x : CReg) : (setCr d i x).latch = d.latch := rfl
@[simp] theorem setCr_cnt (d : Dyn) (i : Nat) (x : CReg) : (setCr d i x).cnt = d.cnt := rfl
@[simp] theorem setCr_bankTally (d : Dyn) (i : Nat) (x : CReg) : (setCr d i x).bankTally = d.bankTally := rfl
@[simp] theorem setCr_bus (d : Dyn) (i : Nat) (x : CReg) : (setCr d i x).bus = d.bus := rfl
@[simp] theorem setCr_fe (d : Dyn) (i : Nat) (x : CReg) : (setCr d i x).fe = d.fe := rfl
@[simp] theorem setCr_lt (d : Dyn) (i : Nat) (x : CReg) : (setCr d i x).lt = d.lt := rfl
@[simp] theorem setCr_gs (d : Dyn) (i : Nat) (x : CReg) : (setCr d i x).gs = d.gs := rfl
@[simp] theorem setCr_ls (d : Dyn) (i : Nat) (x : CReg) : (setCr d i x).ls = d.ls := rfl
@[simp] theorem setCr_nb (d : Dyn) (i : Nat) (x : CReg) : (setCr d i x).nb = d.nb := rfl
@[simp] theorem setCr_dp (d : Dyn) (i : Nat) (x : CReg) : (setCr d i x).dp = d.dp := rfl
@[simp] theorem setCr_en (d : Dyn) (i : Nat) (x : CReg) : (setCr d i x).en = d.en := rfl
@[simp] theorem setCr_rep (d : Dyn) (i : Nat) (x : CReg) : (setCr d i x).rep = d.rep := rfl
@[simp] theorem setCr_tk (d : Dyn) (i : Nat) (x : CReg) : (setCr d i x).tk = d.tk := rfl
@[simp] theorem setCr_cb (d : Dyn) (i : Nat) (x : CReg) : (setCr d i x).cb = d.cb := rfl
@[simp] theorem setCr_rt (d : Dyn) (i : Nat) (x : CReg) : (setCr d i x).rt = d.rt := rfl
@[simp] theorem setCr_sf (d : Dyn) (i : Nat) (x : CReg) : (setCr d i x).sf = d.sf := rfl
@[simp] theorem setCr_sv (d : Dyn) (i : Nat) (x : CReg) : (setCr d i x).sv = d.sv := rfl
@[simp] theorem setCr_fs (d : Dyn) (i : Nat) (x : CReg) : (setCr d i x).fs = d.fs := rfl
@[simp] theorem setCr_tr (d : Dyn) (i : Nat) (x : CReg) : (setCr d i x).tr = d.tr := rfl
@[simp] theorem setCr_rp (d : Dyn) (i : Nat) (x : CReg) : (setCr d i x).rp = d.rp := rfl
@[simp] theorem setCr_mn (d : Dyn) (i : Nat) (x : CReg) : (setCr d i x).mn = d.mn := rfl
@[simp] theorem setCr_lk (d : Dyn) (i : Nat) (x : CReg) : (setCr d i x).lk = d.lk := rfl
@[simp] theorem setCr_ch (d : Dyn) (i : Nat) (x : CReg) : (setCr d i x).ch = d.ch := rfl
@[simp] theorem setCr_pw (d : Dyn) (i : Nat) (x : CReg) : (setCr d i x).pw = d.pw := rfl
@[simp] theorem setCr_ram (d : Dyn) (i : Nat) (x : CReg) : (setCr d i x).ram = d.ram := rfl

@[simp] theorem setQ_outs (d : Dyn) (i : Nat) (x : RQueue) : (setQ d i x).outs = d.outs := rfl
@[simp] theorem setQ_fc (d : Dyn) (i : Nat) (x : RQueue) : (setQ d i x).fc = d.fc := rfl
@[simp] theorem setQ_ts (d : Dyn) (i : Nat) (x : RQueue) : (setQ d i x).ts = d.ts := rfl
@[simp] theorem setQ_free (d : Dyn) (i : Nat) (x : RQueue) : (setQ d i x).free = d.free := rfl
@[simp] theorem setQ_step (d : Dyn) (i : Nat) (x : RQueue) : (setQ d i x).step = d.step := rfl
@[simp] theorem setQ_held (d : Dyn) (i : Nat) (x : RQueue) : (setQ d i x).held = d.held := rfl
@[simp] theorem setQ_latch (d : Dyn) (i : Nat) (x : RQueue) : (setQ d i x).latch = d.latch := rfl
@[simp] theorem setQ_cnt (d : Dyn) (i : Nat) (x : RQueue) : (setQ d i x).cnt = d.cnt := rfl
@[simp] theorem setQ_bankTally (d : Dyn) (i : Nat) (x : RQueue) : (setQ d i x).bankTally = d.bankTally := rfl
@[simp] theorem setQ_bus (d : Dyn) (i : Nat) (x : RQueue) : (setQ d i x).bus = d.bus := rfl
@[simp] theorem setQ_fe (d : Dyn) (i : Nat) (x : RQueue) : (setQ d i x).fe = d.fe := rfl
@[simp] theorem setQ_lt (d : Dyn) (i : Nat) (x : RQueue) : (setQ d i x).lt = d.lt := rfl
@[simp] theorem setQ_gs (d : Dyn) (i : Nat) (x : RQueue) : (setQ d i x).gs = d.gs := rfl
@[simp] theorem setQ_ls (d : Dyn) (i : Nat) (x : RQueue) : (setQ d i x).ls = d.ls := rfl
@[simp] theorem setQ_nb (d : Dyn) (i : Nat) (x : RQueue) : (setQ d i x).nb = d.nb := rfl
@[simp] theorem setQ_dp (d : Dyn) (i : Nat) (x : RQueue) : (setQ d i x).dp = d.dp := rfl
@[simp] theorem setQ_en (d : Dyn) (i : Nat) (x : RQueue) : (setQ d i x).en = d.en := rfl
@[simp] theorem setQ_rep (d : Dyn) (i : Nat) (x : RQueue) : (setQ d i x).rep = d.rep := rfl
@[simp] theorem setQ_cb (d : Dyn) (i : Nat) (x : RQueue) : (setQ d i x).cb = d.cb := rfl
@[simp] theorem setQ_sg (d : Dyn) (i : Nat) (x : RQueue) : (setQ d i x).sg = d.sg := rfl
@[simp] theorem setQ_rt (d : Dyn) (i : Nat) (x : RQueue) : (setQ d i x).rt = d.rt := rfl
@[simp] theorem setQ_sf (d : Dyn) (i : Nat) (x : RQueue) : (setQ d i x).sf = d.sf := rfl
@[simp] theorem setQ_sv (d : Dyn) (i : Nat) (x : RQueue) : (setQ d i x).sv = d.sv := rfl
@[simp] theorem setQ_fs (d : Dyn) (i : Nat) (x : RQueue) : (setQ d i x).fs = d.fs := rfl
@[simp] theorem setQ_tr (d : Dyn) (i : Nat) (x : RQueue) : (setQ d i x).tr = d.tr := rfl
@[simp] theorem setQ_rp (d : Dyn) (i : Nat) (x : RQueue) : (setQ d i x).rp = d.rp := rfl
@[simp] theorem setQ_mn (d : Dyn) (i : Nat) (x : RQueue) : (setQ d i x).mn = d.mn := rfl
@[simp] theorem setQ_lk (d : Dyn) (i : Nat) (x : RQueue) : (setQ d i x).lk = d.lk := rfl
@[simp] theorem setQ_ch (d : Dyn) (i : Nat) (x : RQueue) : (setQ d i x).ch = d.ch := rfl
@[simp] theorem setQ_pw (d : Dyn) (i : Nat) (x : RQueue) : (setQ d i x).pw = d.pw := rfl
@[simp] theorem setQ_ram (d : Dyn) (i : Nat) (x : RQueue) : (setQ d i x).ram = d.ram := rfl

@[simp] theorem setLink_outs (d : Dyn) (p : Nat) (x : Link) : (setLink d p x).outs = d.outs := rfl
@[simp] theorem setLink_fc (d : Dyn) (p : Nat) (x : Link) : (setLink d p x).fc = d.fc := rfl
@[simp] theorem setLink_ts (d : Dyn) (p : Nat) (x : Link) : (setLink d p x).ts = d.ts := rfl
@[simp] theorem setLink_free (d : Dyn) (p : Nat) (x : Link) : (setLink d p x).free = d.free := rfl
@[simp] theorem setLink_step (d : Dyn) (p : Nat) (x : Link) : (setLink d p x).step = d.step := rfl
@[simp] theorem setLink_held (d : Dyn) (p : Nat) (x : Link) : (setLink d p x).held = d.held := rfl
@[simp] theorem setLink_latch (d : Dyn) (p : Nat) (x : Link) : (setLink d p x).latch = d.latch := rfl
@[simp] theorem setLink_cnt (d : Dyn) (p : Nat) (x : Link) : (setLink d p x).cnt = d.cnt := rfl
@[simp] theorem setLink_bankTally (d : Dyn) (p : Nat) (x : Link) : (setLink d p x).bankTally = d.bankTally := rfl
@[simp] theorem setLink_bus (d : Dyn) (p : Nat) (x : Link) : (setLink d p x).bus = d.bus := rfl
@[simp] theorem setLink_fe (d : Dyn) (p : Nat) (x : Link) : (setLink d p x).fe = d.fe := rfl
@[simp] theorem setLink_lt (d : Dyn) (p : Nat) (x : Link) : (setLink d p x).lt = d.lt := rfl
@[simp] theorem setLink_gs (d : Dyn) (p : Nat) (x : Link) : (setLink d p x).gs = d.gs := rfl
@[simp] theorem setLink_ls (d : Dyn) (p : Nat) (x : Link) : (setLink d p x).ls = d.ls := rfl
@[simp] theorem setLink_nb (d : Dyn) (p : Nat) (x : Link) : (setLink d p x).nb = d.nb := rfl
@[simp] theorem setLink_dp (d : Dyn) (p : Nat) (x : Link) : (setLink d p x).dp = d.dp := rfl
@[simp] theorem setLink_en (d : Dyn) (p : Nat) (x : Link) : (setLink d p x).en = d.en := rfl
@[simp] theorem setLink_rep (d : Dyn) (p : Nat) (x : Link) : (setLink d p x).rep = d.rep := rfl
@[simp] theorem setLink_tk (d : Dyn) (p : Nat) (x : Link) : (setLink d p x).tk = d.tk := rfl
@[simp] theorem setLink_cb (d : Dyn) (p : Nat) (x : Link) : (setLink d p x).cb = d.cb := rfl
@[simp] theorem setLink_sg (d : Dyn) (p : Nat) (x : Link) : (setLink d p x).sg = d.sg := rfl
@[simp] theorem setLink_rt (d : Dyn) (p : Nat) (x : Link) : (setLink d p x).rt = d.rt := rfl
@[simp] theorem setLink_sf (d : Dyn) (p : Nat) (x : Link) : (setLink d p x).sf = d.sf := rfl
@[simp] theorem setLink_sv (d : Dyn) (p : Nat) (x : Link) : (setLink d p x).sv = d.sv := rfl
@[simp] theorem setLink_fs (d : Dyn) (p : Nat) (x : Link) : (setLink d p x).fs = d.fs := rfl
@[simp] theorem setLink_tr (d : Dyn) (p : Nat) (x : Link) : (setLink d p x).tr = d.tr := rfl
@[simp] theorem setLink_rp (d : Dyn) (p : Nat) (x : Link) : (setLink d p x).rp = d.rp := rfl
@[simp] theorem setLink_mn (d : Dyn) (p : Nat) (x : Link) : (setLink d p x).mn = d.mn := rfl
@[simp] theorem setLink_ch (d : Dyn) (p : Nat) (x : Link) : (setLink d p x).ch = d.ch := rfl
@[simp] theorem setLink_pw (d : Dyn) (p : Nat) (x : Link) : (setLink d p x).pw = d.pw := rfl
@[simp] theorem setLink_ram (d : Dyn) (p : Nat) (x : Link) : (setLink d p x).ram = d.ram := rfl

@[simp] theorem modSv_outs (d : Dyn) (f : Service → Service) : (modSv d f).outs = d.outs := rfl
@[simp] theorem modSv_fc (d : Dyn) (f : Service → Service) : (modSv d f).fc = d.fc := rfl
@[simp] theorem modSv_ts (d : Dyn) (f : Service → Service) : (modSv d f).ts = d.ts := rfl
@[simp] theorem modSv_free (d : Dyn) (f : Service → Service) : (modSv d f).free = d.free := rfl
@[simp] theorem modSv_step (d : Dyn) (f : Service → Service) : (modSv d f).step = d.step := rfl
@[simp] theorem modSv_held (d : Dyn) (f : Service → Service) : (modSv d f).held = d.held := rfl
@[simp] theorem modSv_latch (d : Dyn) (f : Service → Service) : (modSv d f).latch = d.latch := rfl
@[simp] theorem modSv_cnt (d : Dyn) (f : Service → Service) : (modSv d f).cnt = d.cnt := rfl
@[simp] theorem modSv_bankTally (d : Dyn) (f : Service → Service) : (modSv d f).bankTally = d.bankTally := rfl
@[simp] theorem modSv_bus (d : Dyn) (f : Service → Service) : (modSv d f).bus = d.bus := rfl
@[simp] theorem modSv_fe (d : Dyn) (f : Service → Service) : (modSv d f).fe = d.fe := rfl
@[simp] theorem modSv_lt (d : Dyn) (f : Service → Service) : (modSv d f).lt = d.lt := rfl
@[simp] theorem modSv_gs (d : Dyn) (f : Service → Service) : (modSv d f).gs = d.gs := rfl
@[simp] theorem modSv_ls (d : Dyn) (f : Service → Service) : (modSv d f).ls = d.ls := rfl
@[simp] theorem modSv_nb (d : Dyn) (f : Service → Service) : (modSv d f).nb = d.nb := rfl
@[simp] theorem modSv_dp (d : Dyn) (f : Service → Service) : (modSv d f).dp = d.dp := rfl
@[simp] theorem modSv_en (d : Dyn) (f : Service → Service) : (modSv d f).en = d.en := rfl
@[simp] theorem modSv_rep (d : Dyn) (f : Service → Service) : (modSv d f).rep = d.rep := rfl
@[simp] theorem modSv_tk (d : Dyn) (f : Service → Service) : (modSv d f).tk = d.tk := rfl
@[simp] theorem modSv_cb (d : Dyn) (f : Service → Service) : (modSv d f).cb = d.cb := rfl
@[simp] theorem modSv_sg (d : Dyn) (f : Service → Service) : (modSv d f).sg = d.sg := rfl
@[simp] theorem modSv_rt (d : Dyn) (f : Service → Service) : (modSv d f).rt = d.rt := rfl
@[simp] theorem modSv_sf (d : Dyn) (f : Service → Service) : (modSv d f).sf = d.sf := rfl
@[simp] theorem modSv_fs (d : Dyn) (f : Service → Service) : (modSv d f).fs = d.fs := rfl
@[simp] theorem modSv_tr (d : Dyn) (f : Service → Service) : (modSv d f).tr = d.tr := rfl
@[simp] theorem modSv_rp (d : Dyn) (f : Service → Service) : (modSv d f).rp = d.rp := rfl
@[simp] theorem modSv_mn (d : Dyn) (f : Service → Service) : (modSv d f).mn = d.mn := rfl
@[simp] theorem modSv_lk (d : Dyn) (f : Service → Service) : (modSv d f).lk = d.lk := rfl
@[simp] theorem modSv_ch (d : Dyn) (f : Service → Service) : (modSv d f).ch = d.ch := rfl
@[simp] theorem modSv_pw (d : Dyn) (f : Service → Service) : (modSv d f).pw = d.pw := rfl
@[simp] theorem modSv_ram (d : Dyn) (f : Service → Service) : (modSv d f).ram = d.ram := rfl

@[simp] theorem pushRet_outs (d : Dyn) (r : Ret) : (pushRet d r).outs = d.outs := rfl
@[simp] theorem pushRet_fc (d : Dyn) (r : Ret) : (pushRet d r).fc = d.fc := rfl
@[simp] theorem pushRet_ts (d : Dyn) (r : Ret) : (pushRet d r).ts = d.ts := rfl
@[simp] theorem pushRet_free (d : Dyn) (r : Ret) : (pushRet d r).free = d.free := rfl
@[simp] theorem pushRet_step (d : Dyn) (r : Ret) : (pushRet d r).step = d.step := rfl
@[simp] theorem pushRet_held (d : Dyn) (r : Ret) : (pushRet d r).held = d.held := rfl
@[simp] theorem pushRet_latch (d : Dyn) (r : Ret) : (pushRet d r).latch = d.latch := rfl
@[simp] theorem pushRet_cnt (d : Dyn) (r : Ret) : (pushRet d r).cnt = d.cnt := rfl
@[simp] theorem pushRet_bankTally (d : Dyn) (r : Ret) : (pushRet d r).bankTally = d.bankTally := rfl
@[simp] theorem pushRet_bus (d : Dyn) (r : Ret) : (pushRet d r).bus = d.bus := rfl
@[simp] theorem pushRet_fe (d : Dyn) (r : Ret) : (pushRet d r).fe = d.fe := rfl
@[simp] theorem pushRet_gs (d : Dyn) (r : Ret) : (pushRet d r).gs = d.gs := rfl
@[simp] theorem pushRet_ls (d : Dyn) (r : Ret) : (pushRet d r).ls = d.ls := rfl
@[simp] theorem pushRet_nb (d : Dyn) (r : Ret) : (pushRet d r).nb = d.nb := rfl
@[simp] theorem pushRet_dp (d : Dyn) (r : Ret) : (pushRet d r).dp = d.dp := rfl
@[simp] theorem pushRet_en (d : Dyn) (r : Ret) : (pushRet d r).en = d.en := rfl
@[simp] theorem pushRet_rep (d : Dyn) (r : Ret) : (pushRet d r).rep = d.rep := rfl
@[simp] theorem pushRet_tk (d : Dyn) (r : Ret) : (pushRet d r).tk = d.tk := rfl
@[simp] theorem pushRet_cb (d : Dyn) (r : Ret) : (pushRet d r).cb = d.cb := rfl
@[simp] theorem pushRet_sg (d : Dyn) (r : Ret) : (pushRet d r).sg = d.sg := rfl
@[simp] theorem pushRet_rt (d : Dyn) (r : Ret) : (pushRet d r).rt = d.rt := rfl
@[simp] theorem pushRet_sf (d : Dyn) (r : Ret) : (pushRet d r).sf = d.sf := rfl
@[simp] theorem pushRet_sv (d : Dyn) (r : Ret) : (pushRet d r).sv = d.sv := rfl
@[simp] theorem pushRet_fs (d : Dyn) (r : Ret) : (pushRet d r).fs = d.fs := rfl
@[simp] theorem pushRet_tr (d : Dyn) (r : Ret) : (pushRet d r).tr = d.tr := rfl
@[simp] theorem pushRet_rp (d : Dyn) (r : Ret) : (pushRet d r).rp = d.rp := rfl
@[simp] theorem pushRet_mn (d : Dyn) (r : Ret) : (pushRet d r).mn = d.mn := rfl
@[simp] theorem pushRet_lk (d : Dyn) (r : Ret) : (pushRet d r).lk = d.lk := rfl
@[simp] theorem pushRet_ch (d : Dyn) (r : Ret) : (pushRet d r).ch = d.ch := rfl
@[simp] theorem pushRet_pw (d : Dyn) (r : Ret) : (pushRet d r).pw = d.pw := rfl
@[simp] theorem pushRet_ram (d : Dyn) (r : Ret) : (pushRet d r).ram = d.ram := rfl

@[simp] theorem State.block_cfg (s : State) : s.block.cfg = s.m.cfg := rfl
@[simp] theorem State.block_d (s : State) : s.block.d = s.fresh := rfl
@[simp] theorem State.with_cfg (s : State) (d : Dyn) : (s.with d).m.cfg = s.m.cfg := rfl
@[simp] theorem State.with_d (s : State) (d : Dyn) : (s.with d).m.d = d := rfl
@[simp] theorem State.with_pending (s : State) (d : Dyn) : (s.with d).pending = s.pending := rfl
@[simp] theorem State.served_pending (s : State) (d : Dyn) : (s.served d).pending = s.pending := rfl
@[simp] theorem State.servedBlock_pending (s : State) (b : Block) : (s.servedBlock b).pending = s.pending := rfl
@[simp] theorem State.fresh_fc (s : State) : s.fresh.fc = s.m.d.fc := rfl
@[simp] theorem State.fresh_ts (s : State) : s.fresh.ts = s.m.d.ts := rfl
@[simp] theorem State.fresh_free (s : State) : s.fresh.free = s.m.d.free := rfl
@[simp] theorem State.fresh_step (s : State) : s.fresh.step = s.m.d.step := rfl
@[simp] theorem State.fresh_held (s : State) : s.fresh.held = s.m.d.held := rfl
@[simp] theorem State.fresh_latch (s : State) : s.fresh.latch = s.m.d.latch := rfl
@[simp] theorem State.fresh_cnt (s : State) : s.fresh.cnt = s.m.d.cnt := rfl
@[simp] theorem State.fresh_bankTally (s : State) : s.fresh.bankTally = s.m.d.bankTally := rfl
@[simp] theorem State.fresh_bus (s : State) : s.fresh.bus = s.m.d.bus := rfl
@[simp] theorem State.fresh_fe (s : State) : s.fresh.fe = s.m.d.fe := rfl
@[simp] theorem State.fresh_lt (s : State) : s.fresh.lt = s.m.d.lt := rfl
@[simp] theorem State.fresh_gs (s : State) : s.fresh.gs = s.m.d.gs := rfl
@[simp] theorem State.fresh_ls (s : State) : s.fresh.ls = s.m.d.ls := rfl
@[simp] theorem State.fresh_nb (s : State) : s.fresh.nb = s.m.d.nb := rfl
@[simp] theorem State.fresh_dp (s : State) : s.fresh.dp = s.m.d.dp := rfl
@[simp] theorem State.fresh_en (s : State) : s.fresh.en = s.m.d.en := rfl
@[simp] theorem State.fresh_rep (s : State) : s.fresh.rep = s.m.d.rep := rfl
@[simp] theorem State.fresh_tk (s : State) : s.fresh.tk = s.m.d.tk := rfl
@[simp] theorem State.fresh_cb (s : State) : s.fresh.cb = s.m.d.cb := rfl
@[simp] theorem State.fresh_sg (s : State) : s.fresh.sg = s.m.d.sg := rfl
@[simp] theorem State.fresh_rt (s : State) : s.fresh.rt = s.m.d.rt := rfl
@[simp] theorem State.fresh_sf (s : State) : s.fresh.sf = s.m.d.sf := rfl
@[simp] theorem State.fresh_sv (s : State) : s.fresh.sv = s.m.d.sv := rfl
@[simp] theorem State.fresh_fs (s : State) : s.fresh.fs = s.m.d.fs := rfl
@[simp] theorem State.fresh_tr (s : State) : s.fresh.tr = s.m.d.tr := rfl
@[simp] theorem State.fresh_rp (s : State) : s.fresh.rp = s.m.d.rp := rfl
@[simp] theorem State.fresh_mn (s : State) : s.fresh.mn = s.m.d.mn := rfl
@[simp] theorem State.fresh_lk (s : State) : s.fresh.lk = s.m.d.lk := rfl
@[simp] theorem State.fresh_ch (s : State) : s.fresh.ch = s.m.d.ch := rfl
@[simp] theorem State.fresh_pw (s : State) : s.fresh.pw = s.m.d.pw := rfl
@[simp] theorem State.fresh_outs (s : State) : s.fresh.outs = [] := rfl

/-! ### Sorting -/

theorem mem_insertBy {α : Type} {le : α → α → Bool} {a x : α} {l : List α} : x ∈ insertBy le a l ↔ x = a ∨ x ∈ l := by
  induction l with
  | nil => simp [insertBy]
  | cons b t ih =>
    unfold insertBy
    split
    · simp
    · simp [ih, or_left_comm]

/-- A sorted list has the elements of the list. -/
@[simp] theorem mem_isort {α : Type} {le : α → α → Bool} {x : α} {l : List α} : x ∈ isort le l ↔ x ∈ l := by
  induction l with
  | nil => simp [isort]
  | cons b t ih => simp [isort, mem_insertBy, ih]

/-- A sorted list is in order, for a total and transitive order. -/
theorem isort_sorted {α : Type} {le : α → α → Bool} (total : ∀ a b, le a b = true ∨ le b a = true)
    (trans : ∀ a b c, le a b = true → le b c = true → le a c = true) (l : List α) :
    (isort le l).Pairwise (fun a b => le a b = true) := by
  induction l with
  | nil => exact List.Pairwise.nil
  | cons a t ih =>
    show (insertBy le a (isort le t)).Pairwise _
    generalize isort le t = u at ih
    induction u with
    | nil => simp [insertBy]
    | cons b r ih' =>
      unfold insertBy
      split
      · rename_i h
        refine List.Pairwise.cons (fun x hx => ?_) ih
        rcases List.mem_cons.mp hx with rfl | hx
        · exact h
        · exact trans _ _ _ h (List.rel_of_pairwise_cons ih hx)
      · rename_i h
        refine List.Pairwise.cons (fun x hx => ?_) (ih' ih.of_cons)
        rcases mem_insertBy.mp hx with rfl | hx
        · exact (total b x).resolve_right h
        · exact List.rel_of_pairwise_cons ih hx

end Sys2Proof.Machine
end

