-- ==== Sys2Proof/Laws/Run.lean ====
section
/-! SUPPORT. What the gates do: one lemma per gate, which says what a command leaves when the gate is open, and that it leaves the block
alone when it is shut. -/
namespace Sys2Proof.Machine

theorem runBlock_eq (f : Block → Block) (s : State) : runBlock f s = .next { s with m := f s.block } := rfl


theorem tidy_cfg (b : Block) : (tidy b).cfg = b.cfg := by
  unfold tidy; split <;> rfl

@[simp] theorem State.served_cfg (s : State) (d : Dyn) : (s.served d).m.cfg = s.m.cfg := by
  simp [State.served, tidy_cfg]

/-- A data-plane command of a serving block. -/
theorem runSrv_open {s : State} (h : s.serving) (f : Cfg → Dyn → Dyn) :
    runSrv f s = .next (s.served (f s.m.cfg s.fresh)) := by
  unfold State.serving at h
  simp [runSrv, runSrvBlock, runBlock_eq, onD, State.served, h]

/-- A data-plane command of a block that does not serve changes nothing. -/
theorem runSrv_shut {s : State} (h : s.m.cfg.serving = false) (f : Cfg → Dyn → Dyn) :
    runSrv f s = .next (s.with s.fresh) := by
  simp [runSrv, runSrvBlock, runBlock_eq, State.with, State.block, h]

/-- A command of a duplicated part that holds nothing back. -/
theorem runPart_open {s : State} {unit : Nat} (h : s.part unit) (f : Cfg → Dyn → Dyn) :
    runPart unit f s = .next (s.served (f s.m.cfg s.fresh)) := by
  simp [runPart, runSrv_open h.1, h.2]

/-- A duplicated part whose mismatch record waits takes no input. -/
theorem runPart_held {s : State} {unit : Nat} (h : s.serving) (w : unitWaits s.fresh 0x03 unit = true) (f : Cfg → Dyn → Dyn) :
    runPart unit f s = .next (s.served s.fresh) := by
  simp [runPart, runSrv_open h, w]

theorem runPart_shut {s : State} {unit : Nat} (h : s.m.cfg.serving = false) (f : Cfg → Dyn → Dyn) :
    runPart unit f s = .next (s.with s.fresh) := by
  unfold runPart; exact runSrv_shut h _

theorem runSrvBlock_open {s : State} (h : s.serving) (f : Block → Block) :
    runSrvBlock f s = .next (s.servedBlock (f s.block)) := by
  unfold State.serving at h
  simp [runSrvBlock, runBlock_eq, State.servedBlock, h]

theorem runSrvBlock_shut {s : State} (h : s.m.cfg.serving = false) (f : Block → Block) :
    runSrvBlock f s = .next (s.with s.fresh) := by
  simp [runSrvBlock, runBlock_eq, State.with, State.block, h]

theorem runSrvFw_open {s : State} (h : s.firmware) (f : Cfg → Dyn → Dyn) :
    runSrvFw f s = .next (s.served (f s.m.cfg s.fresh)) := by
  simp [runSrvFw, runSrvFwBlock, runSrvBlock, runBlock_eq, onD, State.served, h.1, h.2]

theorem runSrvFwBlock_open {s : State} (h : s.firmware) (f : Block → Block) :
    runSrvFwBlock f s = .next (s.servedBlock (f s.block)) := by
  simp [runSrvFwBlock, runSrvBlock, runBlock_eq, State.servedBlock, h.1, h.2]

theorem runSrvFwBlock_shut {s : State} (h : s.m.cfg.serving = false) (f : Block → Block) :
    runSrvFwBlock f s = .next (s.with s.fresh) := by
  unfold runSrvFwBlock; exact runSrvBlock_shut h _

theorem runSrvFw_shut {s : State} (h : s.m.cfg.serving = false) (f : Cfg → Dyn → Dyn) :
    runSrvFw f s = .next (s.with s.fresh) := by
  unfold runSrvFw; exact runSrvFwBlock_shut h _

theorem runFw_open {s : State} (h : s.m.cfg.fwRuns = true) (f : Cfg → Dyn → Dyn) :
    runFw f s = .next (s.with (f s.m.cfg s.fresh)) := by
  simp [runFw, runDyn, runBlock_eq, State.with, h]

theorem runFwBlock_open {s : State} (h : s.m.cfg.fwRuns = true) (f : Block → Block) :
    runFwBlock f s = .next { s with m := f s.block } := by
  simp [runFwBlock, runBlock_eq, h]

theorem runMgt_open {s : State} (h : s.m.cfg.mgtRuns = true) (f : Block → Block) :
    runMgt f s = .next { s with m := f s.block } := by
  simp [runMgt, runBlock_eq, h]

/-- A command whose words are clean has its own effect alone. -/
theorem readHits_clean {hits : List Hit} (h : Clean hits) (k : Cfg) (d : Dyn) : hits.foldl (readHit k) d = d := by
  induction hits with
  | nil => rfl
  | cons a t ih =>
    have ha : a.res = .clean := h a (by simp)
    have : readHit k d a = d := by simp [readHit, ha]
    simp only [List.foldl_cons, this]
    exact ih (fun x hx => h x (by simp [hx]))

theorem withHits_clean {reads : Stored → Bool} {hits : List Hit} (h : Clean hits) (f : Cfg → Dyn → Dyn) (k : Cfg) (d : Dyn) :
    withHits reads hits f k d = f k d := by
  have h' : Clean (isort (hitOrder d) (hits.filter (fun x => reads x.word))) := fun x hx => h x (List.mem_filter.mp (mem_isort.mp hx)).1
  have hn : (isort (hitOrder d) (hits.filter (fun x => reads x.word))).any (fun x => x.res == .uncorrectable) = false := by
    rw [List.any_eq_false]
    intro x hx
    simp [h' x hx]
  unfold withHits
  simp only [hn, Bool.false_and, Bool.false_eq_true, if_false, readHits_clean h']

/-- A host access of an open port takes effect at once. -/
theorem hostAccess_open {s : State} (h : s.hostOpen) (a : HostAccess) (w : waitsReplay s.m.d a = false) :
    hostAccess a s.block = tidy (access s.block a) := by
  obtain ⟨hs, hh, hp⟩ := h
  have hc := hs
  simp only [Cfg.serving, Cfg.clocked, Bool.and_eq_true, Bool.not_eq_true', beq_iff_eq] at hc
  obtain ⟨⟨⟨hr, hf⟩, hd⟩, hb⟩ := hc
  have hp' : ∀ l o, portBlocked { s.m.d with outs := o, held := l } = false := fun l o => hp
  have hw' : ∀ l o, waitsReplay { s.m.d with outs := o, held := l } a = false := by
    intro l o; rw [← w]; cases a <;> rfl
  simp only [hostAccess, State.block_cfg, hr, hf, hd, hb, serveHeldHost, Bool.false_eq_true, if_false, ne_eq, not_true_eq_false]
  simp only [State.block, State.fresh, hh, List.nil_append, List.length_singleton, serveHost, Cfg.clocked, hr, hf, hd, hb, hp', hw',
    Bool.not_false, Bool.and_true, Bool.not_true, Bool.or_self, Bool.false_eq_true, if_false, ne_eq, not_true_eq_false, beq_self_eq_true]

theorem hostWrite_open {s : State} (h : s.hostOpen) {off size : Nat} {v : W64} (al : aligned off size = true)
    (w : waitsReplay s.m.d (.write off size v) = false) :
    hostWrite off size v s = .next (s.servedBlock (applyWrite s.block off size v)) := by
  simp [hostWrite, runBlock_eq, hostAccess_open h _ w, access, al, State.servedBlock]

theorem hostRead_open {s : State} (h : s.hostOpen) (off size rid : Nat) :
    hostRead off size rid s = .next (s.served (answerRead s.m.cfg s.fresh off size rid)) := by
  simp [hostRead, runBlock_eq, hostAccess_open h (.read off size rid) rfl, access, onD, State.served]

end Sys2Proof.Machine
end

