-- ==== Sys2Proof/Laws/Config.lean ====
section
/-! SUPPORT. The configuration side: for each function that writes it, one lemma that says what it can do to what `Cfg.Legal` and `HealthEdge` speak of. -/
namespace Sys2Proof.Machine

/-- What a host access can do to the configuration side: it stays legal, and its health stays, or a survey begins in DRAINED. -/
def Cfg.Held (k k' : Cfg) : Prop := (k.Legal → k'.Legal) ∧ (k'.health = k.health ∨ (k.health = .drained ∧ k'.health = .survey))
theorem Cfg.Held.refl (k : Cfg) : Cfg.Held k k := ⟨id, .inl rfl⟩
theorem Cfg.Held.trans {a b c : Cfg} (h1 : Cfg.Held a b) (h2 : Cfg.Held b c) : Cfg.Held a c := by
  refine ⟨h2.1 ∘ h1.1, ?_⟩
  rcases h1.2 with h | ⟨h, h'⟩ <;> rcases h2.2 with g | ⟨g, g'⟩
  · left; rw [g, h]
  · right; rw [← h]; exact ⟨g, g'⟩
  · right; exact ⟨h, by rw [g, h']⟩
  · rw [h'] at g; cases g
theorem Cfg.Held.of {k k' : Cfg} (h : k' = k) : Cfg.Held k k' := h ▸ Cfg.Held.refl k
/-- The fields that `Cfg.Legal` speaks of, but for the boot phase, are the same. -/
structure Cfg.Same (k k' : Cfg) : Prop where
  cblk : k'.cblk = k.cblk
  shfrac : k'.shfrac = k.shfrac
  hangLimit : k'.hangLimit = k.hangLimit
  pcsLog2 : k'.pcsLog2 = k.pcsLog2
  baud : k'.baud = k.baud
  baudNext : k'.baudNext = k.baudNext
  replayEn : k'.replayEn = k.replayEn
  replayLog2 : k'.replayLog2 = k.replayLog2
  det : k'.det = k.det
  traceSpill : k'.traceSpill = k.traceSpill
  spillLog2 : k'.spillLog2 = k.spillLog2
  doze : k'.doze = k.doze

/-- A write that touches none of the fields in question. -/
theorem Cfg.Held.same {k k' : Cfg} (h : Cfg.Same k k' := by constructor <;> rfl) (h13 : k'.phase = k.phase := by rfl)
    (h14 : k'.health = k.health := by rfl) : Cfg.Held k k' := by
  obtain ⟨h1, h2, h3, h4, h5, h6, h7, h8, h9, h10, h11, h12⟩ := h
  refine ⟨fun l => ?_, .inl h14⟩
  obtain ⟨a1, a2, a3, a4, a5, a6, a7, a8, a9⟩ := l
  constructor
  · rw [h1]; exact a1
  · rw [h2]; exact a2
  · rw [h3]; exact a3
  · rw [h4]; exact a4
  · rw [h5, h6]; exact a5
  · rw [h7, h8]; exact a6
  · rw [h9, h7]; exact a7
  · rw [h10, h11]; exact a8
  · rw [h12, h13]; exact a9

theorem wake_held (b : Block) : Cfg.Held b.cfg (wake b).cfg := by
  unfold wake; split
  · rename_i h
    refine ⟨fun l => { l with doze := fun _ => l.doze (by rw [h]; simp) }, .inl rfl⟩
  · exact Cfg.Held.refl _

theorem surveyStart_held (f : Bool) (b : Block) : Cfg.Held b.cfg (surveyStart f b).cfg := by
  unfold surveyStart; split
  · exact Cfg.Held.same
  · split
    · exact Cfg.Held.same
    · rename_i h
      refine ⟨fun l => ?_, .inr ⟨h, rfl⟩⟩
      exact ⟨l.1, l.2, l.3, l.4, l.5, l.6, l.7, l.8, l.9⟩
    · exact Cfg.Held.same

theorem routeConfigWrite_held (off : Nat) (v : W64) (b : Block) : Cfg.Held b.cfg (routeConfigWrite off v b).cfg := by
  unfold routeConfigWrite; split
  · exact Cfg.Held.same
  · split <;> exact Cfg.Held.same

theorem mapBaseWrite_held (e : Bool) (v : W64) (b : Block) : Cfg.Held b.cfg (mapBaseWrite e v b).cfg := by
  unfold mapBaseWrite; split
  · exact Cfg.Held.same
  · cases e <;> exact Cfg.Held.same

theorem replayCfgWrite_held (e : Bool) (v : W64) (b : Block) : Cfg.Held b.cfg (replayCfgWrite e v b).cfg := by
  unfold replayCfgWrite; simp only []; split
  · exact Cfg.Held.same
  · rename_i h
    split
    · exact Cfg.Held.same
    · rename_i he
      refine ⟨fun l => ?_, .inl rfl⟩
      refine { l with replay := ?_, det := ?_ }
      · intro hen
        simp only [Bool.or_eq_true, not_or, Bool.and_eq_true, Bool.not_eq_true', decide_eq_true_eq] at h
        have hen' : bit v.toNat 0 = true := hen
        simp [hen', he] at h
        have hb : bits v.toNat 8 5 < 32 := Nat.mod_lt _ (by decide)
        simp only [BitVec.toNat_ofNat]
        omega
      · intro hd
        have : b.cfg.det = true := hd
        simp [this] at h

theorem traceCtlWrite_held (v : Nat) (b : Block) : Cfg.Held b.cfg (traceCtlWrite v b).cfg := by
  refine ⟨fun l => ?_, .inl rfl⟩
  refine { l with spill := ?_ }
  intro h
  have h' : (if 12 ≤ b.cfg.spillLog2.toNat then bit v 1 else b.cfg.traceSpill) = true := by
    unfold traceCtlWrite at h; simpa using h
  show 12 ≤ b.cfg.spillLog2.toNat
  split at h'
  · assumption
  · exact l.spill h'

theorem onD_held (b : Block) (f) : Cfg.Held b.cfg (onD b f).cfg := Cfg.Held.refl _

theorem writeGlobal32_held (b : Block) (off v : Nat) : Cfg.Held b.cfg (writeGlobal32 b off v).cfg := by
  unfold writeGlobal32
  split
  · exact Cfg.Held.same
  · refine ⟨fun l => { l with hang := ?_ }, .inl rfl⟩
    show 2 ≤ (BitVec.ofNat 8 (max 2 (v % 256))).toNat
    simp only [BitVec.toNat_ofNat]; omega
  · exact routeConfigWrite_held _ _ _
  · exact Cfg.Held.same
  · exact Cfg.Held.same
  · unfold surveyCtlWrite
    have : Cfg.Held b.cfg (setCfg b (fun k => { k with surveyMode := bit v 8 })).cfg := by exact Cfg.Held.same
    simp only []
    split
    · exact this.trans (surveyStart_held _ _)
    · exact this
  · exact Cfg.Held.same
  · exact Cfg.Held.refl _
  · exact Cfg.Held.refl _
  · exact replayCfgWrite_held _ _ _
  · exact Cfg.Held.refl _
  · unfold replayHeadWrite; exact Cfg.Held.refl _
  · exact traceCtlWrite_held _ _
  · split
    · exact Cfg.Held.refl _
    · rename_i h
      refine ⟨fun l => { l with spill := fun h' => absurd h' h }, .inl rfl⟩
  · unfold traceSpillHeadWrite; simp only []; split <;> exact Cfg.Held.refl _
  · refine ⟨fun l => { l with pcs := ?_ }, .inl rfl⟩
    show 8 ≤ (BitVec.ofNat 5 (max 8 (min 24 (bits v 8 5)))).toNat ∧ (BitVec.ofNat 5 (max 8 (min 24 (bits v 8 5)))).toNat ≤ 24
    simp only [BitVec.toNat_ofNat]; omega
  · exact Cfg.Held.refl _
  · unfold dozeCtlWrite
    have : Cfg.Held b.cfg (setCfg b (fun k => { k with dozeEn := bit v 31, dozeIdle := BitVec.ofNat 20 (bits v 0 20) })).cfg := by exact Cfg.Held.same
    simp only []
    split
    · exact this
    · exact this.trans (wake_held _)
  · exact Cfg.Held.refl _

theorem write32_held (b : Block) (off v : Nat) : Cfg.Held b.cfg (write32 b off v).cfg := by
  unfold write32; split
  · exact Cfg.Held.refl _
  · exact writeGlobal32_held _ _ _

theorem write64_held (b : Block) (off : Nat) (v : W64) : Cfg.Held b.cfg (write64 b off v).cfg := by
  unfold write64; split
  · simp only []; split
    · exact Cfg.Held.refl _
    · split <;> exact Cfg.Held.refl _
  · split
    · exact Cfg.Held.refl _
    · exact Cfg.Held.refl _
    · exact routeConfigWrite_held _ _ _
    · exact routeConfigWrite_held _ _ _
    · exact routeConfigWrite_held _ _ _
    · exact Cfg.Held.same
    · exact mapBaseWrite_held _ _ _
    · exact mapBaseWrite_held _ _ _
    · exact replayCfgWrite_held _ _ _
    · split
      · exact Cfg.Held.refl _
      · exact Cfg.Held.same
    · split <;> exact Cfg.Held.refl _

theorem applyWrite_held (b : Block) (off size : Nat) (v : W64) : Cfg.Held b.cfg (applyWrite b off size v).cfg := by
  unfold applyWrite; simp only []
  repeat' split
  all_goals first
    | exact Cfg.Held.refl _
    | exact write64_held _ _ _
    | exact write32_held _ _ _
    | exact (write32_held _ _ _).trans (write32_held _ _ _)

theorem tidy_held (b : Block) : Cfg.Held b.cfg (tidy b).cfg := Cfg.Held.of (tidy_cfg b)

theorem mgtDrain_held (b : Block) : Cfg.Held b.cfg (mgtDrain b).cfg := by
  unfold mgtDrain; split
  · exact Cfg.Held.same
  · exact Cfg.Held.refl _
theorem mgtSurvey_held (f : Bool) (b : Block) : Cfg.Held b.cfg (mgtSurvey f b).cfg := by
  unfold mgtSurvey; split
  · exact surveyStart_held _ _
  · exact Cfg.Held.refl _
theorem access_held (b : Block) (a : HostAccess) : Cfg.Held b.cfg (access b a).cfg := by
  unfold access; split
  · split
    · exact applyWrite_held _ _ _ _
    · exact Cfg.Held.refl _
  · exact Cfg.Held.refl _
  · exact mgtDrain_held _
  · exact mgtSurvey_held _ _

theorem bootRead_held (a : HostAccess) (b : Block) : Cfg.Held b.cfg (bootRead b a).cfg := by
  unfold bootRead; split
  · exact Cfg.Held.refl _
  · exact Cfg.Held.refl _
  · split
    · exact access_held _ _
    · exact Cfg.Held.refl _

theorem serveHost_held (n : Nat) : ∀ b : Block, Cfg.Held b.cfg (serveHost n b).cfg := by
  induction n with
  | zero => intro b; exact Cfg.Held.refl _
  | succ n ih =>
    intro b; unfold serveHost; split
    · exact Cfg.Held.refl _
    · rename_i a t ht
      dsimp only
      split
      · exact Cfg.Held.refl _
      · refine Cfg.Held.trans ?_ (ih _)
        split
        · exact bootRead_held a { b with d := { b.d with held := t } }
        · exact (access_held { b with d := { b.d with held := t } } a).trans (tidy_held _)

theorem serveHeldHost_held (b : Block) : Cfg.Held b.cfg (serveHeldHost b).cfg := serveHost_held _ _

theorem wake_after_held (b : Block) (d : Dyn) : Cfg.Held b.cfg (wake { b with d := d }).cfg := wake_held { b with d := d }
theorem serveHeldHost_after_held (b : Block) (d : Dyn) : Cfg.Held b.cfg (serveHeldHost { b with d := d }).cfg := serveHeldHost_held { b with d := d }
theorem hostAccess_held (a : HostAccess) (b : Block) : Cfg.Held b.cfg (hostAccess a b).cfg := by
  cases a <;> (
    unfold hostAccess; dsimp only
    split
    · exact Cfg.Held.refl _
    · split
      · exact Cfg.Held.refl _
      · split
        · exact bootRead_held _ _
        · split
          · split
            · exact access_held _ _
            · exact wake_after_held _ _
          · exact serveHeldHost_after_held _ _)

theorem awake_of {k : Cfg} (l : k.Legal) (h : k.phase ≠ .booted) : k.doze = .awake := by
  cases hd : k.doze
  · rfl
  all_goals exact absurd (l.doze (by rw [hd]; simp)) h

theorem booting_ne_booted {k : Cfg} {p : BootPhase} (h : k.booting p = true) (hp : p ≠ .booted) : k.phase ≠ .booted := by
  simp only [Cfg.booting, Bool.and_eq_true, beq_iff_eq] at h
  rw [h.2]; exact hp

/-- What any command but a reset can do to the configuration side: it stays legal, and its health goes along an edge of Table 12.7. -/
def Cfg.Moves (k k' : Cfg) : Prop := (k.Legal → k'.Legal) ∧ HealthEdge k.health k'.health

theorem Cfg.Held.moves {k k' : Cfg} (h : Cfg.Held k k') : Cfg.Moves k k' := by
  refine ⟨h.1, ?_⟩
  rcases h.2 with h | ⟨h, h'⟩
  · exact .inl h.symm
  · rw [h, h']; right; decide
theorem legal_phase {k k' : Cfg} (l : k.Legal) (hp : k.phase ≠ .booted) (h : Cfg.Same k k' := by constructor <;> rfl) : k'.Legal := by
  obtain ⟨h1, h2, h3, h4, h5, h6, h7, h8, h9, h10, h11, h12⟩ := h
  have aw := awake_of l hp
  obtain ⟨a1, a2, a3, a4, a5, a6, a7, a8, a9⟩ := l
  constructor
  · rw [h1]; exact a1
  · rw [h2]; exact a2
  · rw [h3]; exact a3
  · rw [h4]; exact a4
  · rw [h5, h6]; exact a5
  · rw [h7, h8]; exact a6
  · rw [h9, h7]; exact a7
  · rw [h10, h11]; exact a8
  · intro h; exact absurd (by rw [h12]; exact aw) h

theorem Cfg.Moves.refl (k : Cfg) : Cfg.Moves k k := (Cfg.Held.refl k).moves

theorem bootFail_moves (b : Block) (st : Nat) (hp : b.cfg.phase ≠ .booted) : Cfg.Moves b.cfg (bootFail b st).cfg := by
  refine ⟨?_, .inl rfl⟩; exact fun l => legal_phase l hp

theorem edge_flagged (h : Health) : HealthEdge h .flagged := by
  cases h
  all_goals first | exact .inl rfl | (right; decide)

theorem takeBlock_moves (b : Block) (blk : List Byte) (hp : b.cfg.phase ≠ .booted) : Cfg.Moves b.cfg (takeBlock b blk).cfg := by
  unfold takeBlock; split
  · exact bootFail_moves _ _ hp
  · split
    · exact bootFail_moves _ _ hp
    · refine ⟨?_, ?_⟩
      · exact fun l => legal_phase l hp
      · show HealthEdge b.cfg.health (if (bbParse blk).flagged then .flagged else b.cfg.health)
        split
        · exact edge_flagged _
        · exact .inl rfl

theorem block_moves {f : Block → Block} (h : ∀ b, Cfg.Moves b.cfg (f b).cfg) {s t : State} (e : runBlock f s = .next t) : Cfg.Moves s.m.cfg t.m.cfg := by
  rw [runBlock_eq] at e; cases e; exact h s.block

theorem same_moves {f : Cfg → Dyn → Dyn} {s t : State} (e : runSrv f s = .next t) : t.m.cfg = s.m.cfg := by
  unfold runSrv runSrvBlock at e; rw [runBlock_eq] at e; cases e
  show (if s.block.cfg.serving then tidy (onD s.block f) else s.block).cfg = s.m.cfg
  split
  · rw [tidy_cfg]; rfl
  · rfl
theorem sameFw_moves {f : Cfg → Dyn → Dyn} {s t : State} (e : runSrvFw f s = .next t) : t.m.cfg = s.m.cfg := by
  unfold runSrvFw runSrvFwBlock runSrvBlock at e; rw [runBlock_eq] at e; cases e
  show (if s.block.cfg.serving then tidy (if s.block.cfg.fwRuns then onD s.block f else s.block) else s.block).cfg = s.m.cfg
  split
  · rw [tidy_cfg]; split <;> rfl
  · rfl
theorem fw_moves {f : Cfg → Dyn → Dyn} {s t : State} (e : runFw f s = .next t) : t.m.cfg = s.m.cfg := by
  unfold runFw runDyn at e; rw [runBlock_eq] at e; cases e; rfl

theorem runFw_eq (f : Cfg → Dyn → Dyn) (s : State) : runFw f s = runBlock (fun b => { b with d := if b.cfg.fwRuns then f b.cfg b.d else b.d }) s := rfl

theorem Cfg.Moves.of {k k' : Cfg} (h : k' = k) : Cfg.Moves k k' := h ▸ Cfg.Moves.refl k

theorem samePart_moves {u : Nat} {f : Cfg → Dyn → Dyn} {s t : State} (e : runPart u f s = .next t) : t.m.cfg = s.m.cfg := same_moves e

theorem srvBlock_moves {f : Block → Block} (h : ∀ b, b.cfg.serving = true → Cfg.Moves b.cfg (f b).cfg) {s t : State}
    (e : runSrvBlock f s = .next t) : Cfg.Moves s.m.cfg t.m.cfg := by
  unfold runSrvBlock at e; rw [runBlock_eq] at e; cases e
  show Cfg.Moves s.m.cfg (if s.block.cfg.serving then tidy (f s.block) else s.block).cfg
  split
  · rename_i hs; rw [tidy_cfg]; exact h s.block hs
  · exact Cfg.Moves.refl _

theorem srvFwBlock_moves {f : Block → Block} (h : ∀ b, b.cfg.serving = true → Cfg.Moves b.cfg (f b).cfg) {s t : State}
    (e : runSrvFwBlock f s = .next t) : Cfg.Moves s.m.cfg t.m.cfg := by
  refine srvBlock_moves (f := fun b => if b.cfg.fwRuns then f b else b) (fun b hs => ?_) e
  split
  · exact h b hs
  · exact Cfg.Moves.refl _

theorem fwBlock_moves {f : Block → Block} (h : ∀ b, Cfg.Moves b.cfg (f b).cfg) {s t : State} (e : runFwBlock f s = .next t) : Cfg.Moves s.m.cfg t.m.cfg := by
  refine block_moves (f := fun b => if b.cfg.fwRuns then f b else b) (fun b => ?_) e
  split
  · exact h b
  · exact Cfg.Moves.refl _

theorem mgt_moves {f : Block → Block} (h : ∀ b, Cfg.Moves b.cfg (f b).cfg) {s t : State} (e : runMgt f s = .next t) : Cfg.Moves s.m.cfg t.m.cfg := by
  refine block_moves (f := fun b => if b.cfg.mgtRuns then f b else b) (fun b => ?_) e
  split
  · exact h b
  · exact Cfg.Moves.refl _

theorem awake_moves {f : Block → Block} (h : ∀ b, Cfg.Moves b.cfg (f b).cfg) {s t : State} (e : runAwakeOrNot f s = .next t) : Cfg.Moves s.m.cfg t.m.cfg := by
  refine block_moves (f := fun b => if b.cfg.mgtRuns && b.cfg.phase == .booted then f b else b) (fun b => ?_) e
  split
  · exact h b
  · exact Cfg.Moves.refl _

theorem Cfg.Moves.tidy {k : Cfg} {b : Block} (h : Cfg.Moves k b.cfg) : Cfg.Moves k (tidy b).cfg := by rw [tidy_cfg]; exact h

theorem host_moves {off size : Nat} {v : W64} {s t : State} (e : hostWrite off size v s = .next t) : Cfg.Moves s.m.cfg t.m.cfg :=
  block_moves (fun b => (hostAccess_held _ b).moves) e
theorem hostRead_moves {off size rid : Nat} {s t : State} (e : hostRead off size rid s = .next t) : Cfg.Moves s.m.cfg t.m.cfg :=
  block_moves (fun b => (hostAccess_held _ b).moves) e

/-! ### Health -/
theorem health_moves (b : Block) (h : Health) (e : HealthEdge b.cfg.health h) : Cfg.Moves b.cfg (setHealth b h).cfg :=
  ⟨fun l => ⟨l.1, l.2, l.3, l.4, l.5, l.6, l.7, l.8, l.9⟩, e⟩

theorem setHealth_legal {b : Block} {k : Cfg} (h : Health) (l : k.Legal → b.cfg.Legal) : k.Legal → (setHealth b h).cfg.Legal :=
  fun x => let l := l x; ⟨l.1, l.2, l.3, l.4, l.5, l.6, l.7, l.8, l.9⟩

theorem edge_draining {h : Health} (e : h = .service) : HealthEdge h .draining := by rw [e]; right; decide

theorem enterDraining_moves (b : Block) (h : b.cfg.health = .service) : Cfg.Moves b.cfg (enterDraining b).cfg :=
  ⟨fun l => ⟨l.1, l.2, l.3, l.4, l.5, l.6, l.7, l.8, l.9⟩, edge_draining h⟩

theorem drainTell_held (b : Block) : Cfg.Held b.cfg (drainTell b).cfg := by
  unfold drainTell; split
  · split
    · exact Cfg.Held.same
    · exact Cfg.Held.refl _
  · exact Cfg.Held.refl _

theorem drainTell_after_moves (b : Block) (d : Dyn) : Cfg.Moves b.cfg (drainTell { b with d := d }).cfg := (drainTell_held { b with d := d }).moves

theorem flagPermanent_cfg (b : Block) : (flagPermanent b).cfg = b.cfg ∨ (flagPermanent b).cfg = (setHealth b .flagged).cfg := by
  unfold flagPermanent; split
  · exact .inr rfl
  · exact .inl rfl

theorem drained_moves (b : Block) : Cfg.Moves b.cfg (drained b).cfg := by
  unfold drained; split
  · rename_i h
    simp only [Bool.and_eq_true, decide_eq_true_eq] at h
    have d : (drainTell b).cfg.health = b.cfg.health := by
      unfold drainTell; split
      · split <;> rfl
      · rfl
    have l : b.cfg.Legal → (setHealth (drainTell b) .drained).cfg.Legal := setHealth_legal _ (drainTell_held b).1
    rcases flagPermanent_cfg (setHealth (drainTell b) .drained) with e | e <;> rw [e]
    · exact ⟨l, by show HealthEdge b.cfg.health .drained; rw [h.1.1]; right; decide⟩
    · exact ⟨setHealth_legal _ l, edge_flagged _⟩
  · exact Cfg.Moves.refl _

theorem surveyEnd_moves (f : List (Nat × Byte × W64)) (p : List Nat) (b : Block) : Cfg.Moves b.cfg (surveyEnd f p b).cfg := by
  unfold surveyEnd; split
  · exact Cfg.Moves.refl _
  · rename_i h
    have hh : b.cfg.health = .survey := by
      by_contra hne; apply h; simp [hne]
    dsimp only; split
    · refine Cfg.Held.moves (show Cfg.Held b.cfg _ from ?_)
      exact Cfg.Held.same
    · generalize surveyHistory _ = d
      have o : b.cfg.Legal → (surveyOver { b with d := d }).cfg.Legal := fun l => ⟨l.1, l.2, l.3, l.4, l.5, l.6, l.7, l.8, l.9⟩
      have fl : b.cfg.Legal → (flagPermanent (surveyOver { b with d := d })).cfg.Legal := by
        rcases flagPermanent_cfg (surveyOver { b with d := d }) with e | e <;> rw [e]
        · exact o
        · exact setHealth_legal _ o
      split
      · exact ⟨fun l => let l := fl l; ⟨l.1, l.2, l.3, l.4, l.5, l.6, l.7, l.8, l.9⟩, by show HealthEdge b.cfg.health .service; rw [hh]; right; decide⟩
      · refine ⟨fl, ?_⟩
        rcases flagPermanent_cfg (surveyOver { b with d := d }) with e | e <;> rw [e]
        · show HealthEdge b.cfg.health .drained; rw [hh]; right; decide
        · exact edge_flagged _

theorem fsHealthWrite_moves (v : W32) (b : Block) : Cfg.Moves b.cfg (fsHealthWrite v b).cfg := by
  unfold fsHealthWrite; split <;> rename_i h1 h2
  · exact enterDraining_moves b h1
  · split
    · exact health_moves _ _ (edge_flagged _)
    · exact Cfg.Moves.refl _
  · refine ⟨fun l => ⟨l.1, l.2, l.3, l.4, l.5, l.6, l.7, l.8, l.9⟩, ?_⟩
    show HealthEdge b.cfg.health .survey; rw [h1]; right; decide
  · exact health_moves _ _ (edge_flagged _)
  · split
    · exact Cfg.Moves.refl _
    · refine ⟨fun l => ⟨l.1, l.2, l.3, l.4, l.5, l.6, l.7, l.8, l.9⟩, ?_⟩
      show HealthEdge b.cfg.health .service; rw [h1]; right; decide
  · refine ⟨fun l => ⟨l.1, l.2, l.3, l.4, l.5, l.6, l.7, l.8, l.9⟩, ?_⟩
    show HealthEdge b.cfg.health .drained; rw [h1]; right; decide
  · exact Cfg.Moves.refl _

theorem haltDcp_moves (b : Block) : Cfg.Moves b.cfg (haltDcp b).cfg :=
  ⟨fun l => ⟨l.1, l.2, l.3, l.4, l.5, l.6, l.7, l.8, l.9⟩, edge_flagged _⟩

/-- It stays legal, and its health stays or is FLAGGED. -/
def Cfg.Flags (k k' : Cfg) : Prop := (k.Legal → k'.Legal) ∧ (k'.health = k.health ∨ k'.health = .flagged)
theorem Cfg.Flags.moves {k k' : Cfg} (h : Cfg.Flags k k') : Cfg.Moves k k' := ⟨h.1, by rcases h.2 with h | h <;> rw [h]; exact .inl rfl; exact edge_flagged _⟩
theorem Cfg.Flags.refl (k : Cfg) : Cfg.Flags k k := ⟨id, .inl rfl⟩
theorem Cfg.Flags.trans {a b c : Cfg} (h : Cfg.Flags a b) (g : Cfg.Flags b c) : Cfg.Flags a c := by
  refine ⟨g.1 ∘ h.1, ?_⟩
  rcases g.2 with e | e
  · rw [e]; exact h.2
  · exact .inr e
theorem haltDcp_flags (b : Block) : Cfg.Flags b.cfg (haltDcp b).cfg := ⟨fun l => ⟨l.1, l.2, l.3, l.4, l.5, l.6, l.7, l.8, l.9⟩, .inr rfl⟩
theorem sramHit_flags (b : Block) (h : Hit) : Cfg.Flags b.cfg (sramHit b h).cfg := by
  unfold sramHit; split
  · exact Cfg.Flags.refl _
  · exact Cfg.Flags.refl _
  · exact haltDcp_flags _
theorem hits_flags (hs : List Hit) : ∀ b : Block, Cfg.Flags b.cfg (hs.foldl sramHit b).cfg := by
  induction hs with
  | nil => intro b; exact Cfg.Flags.refl _
  | cons h t ih => intro b; exact (sramHit_flags b h).trans (ih _)

theorem dcpReadReg_cfg (a n : Nat) (b : Block) : (dcpReadReg a n b).cfg = b.cfg := by
  unfold dcpReadReg; dsimp only; split
  · rfl
  · split <;> rfl

theorem dcpRead_moves (a n : Nat) (hits : List Hit) (b : Block) : Cfg.Moves b.cfg (dcpRead a n hits b).cfg := by
  unfold dcpRead; dsimp only; split
  · exact Cfg.Moves.refl _
  · split
    · exact (hits_flags _ b).moves
    · rw [dcpReadReg_cfg]; exact (hits_flags _ b).moves

theorem bootComplete_flags (ftv : W16) (fwver : W32) (b : Block) : Cfg.Flags b.cfg (bootComplete ftv fwver b).cfg := by
  unfold bootComplete; dsimp only
  split
  · exact Cfg.Flags.refl _
  · split
    · split
      · exact ⟨fun l => ⟨l.1, l.2, l.3, l.4, l.5, l.6, l.7, l.8, l.9⟩, .inl rfl⟩
      · exact Cfg.Flags.refl _
    · split
      · exact Cfg.Flags.refl _
      · split
        · exact ⟨fun l => ⟨l.1, l.2, l.3, l.4, l.5, l.6, l.7, l.8, fun _ => rfl⟩, .inr rfl⟩
        · exact ⟨fun l => ⟨l.1, l.2, l.3, l.4, l.5, l.6, l.7, l.8, fun _ => rfl⟩, .inl rfl⟩

theorem same_flags {k k' : Cfg} (h : k' = k) : Cfg.Flags k k' := h ▸ Cfg.Flags.refl k

theorem feWrite_flags (o v : Nat) (b : Block) : Cfg.Flags b.cfg (feWrite o v b).cfg := by
  unfold feWrite; dsimp only
  split
  · split
    · exact bootComplete_flags _ _ _
    · split
      · exact Cfg.Flags.refl _
      · exact ⟨fun l => ⟨l.1, l.2, l.3, l.4, l.5, l.6, l.7, l.8, l.9⟩, .inl rfl⟩
  · split
    · split
      · exact Cfg.Flags.refl _
      · exact ⟨fun l => ⟨l.1, l.2, l.3, l.4, l.5, l.6, l.7, l.8, l.9⟩, .inl rfl⟩
    · split
      · split <;> exact Cfg.Flags.refl _
      · split <;> exact Cfg.Flags.refl _

theorem hedges_cfg (f : Nat → Cfg → Dyn → Dyn) (l : List Nat) : ∀ b : Block, (l.foldl (fun b i => onD b (f i)) b).cfg = b.cfg := by
  induction l with
  | nil => intro b; rfl
  | cons a t ih => intro b; rw [List.foldl_cons, ih]; rfl

theorem ltWrite_cfg (o v : Nat) (b : Block) : (ltWrite o v b).cfg = b.cfg := by
  unfold ltWrite; split
  · rfl
  · split
    · rfl
    · split
      · rfl
      · split <;> rfl

theorem fsWrite_cfg (o v : Nat) (b : Block) (h : o ≠ 0x8008) : (fsWrite o v b).cfg = b.cfg := by
  unfold fsWrite
  by_cases h1 : o = 0x8004
  · rw [if_pos h1]; rfl
  · rw [if_neg h1, if_neg h]; split
    · split
      · rfl
      · exact hedges_cfg _ _ _
    · split <;> rfl

theorem trWrite_cfg (o v : Nat) (b : Block) : (trWrite o v b).cfg = b.cfg := by
  unfold trWrite; dsimp only; split
  · rfl
  · split
    · split <;> rfl
    · split <;> rfl

theorem dcpWrite32_flags (a v : Nat) (b : Block) (h : a ≠ 0x21008008) : Cfg.Flags b.cfg (dcpWrite32 a v b).cfg := by
  unfold dcpWrite32; dsimp only
  split
  · exact Cfg.Flags.refl _
  · split
    · exact Cfg.Flags.refl _
    · split
      · exact feWrite_flags _ _ _
      · split
        · exact same_flags (ltWrite_cfg _ _ _)
        · split
          · exact same_flags (fsWrite_cfg _ _ _ (by omega))
          · split
            · exact same_flags (trWrite_cfg _ _ _)
            · split
              · split
                · exact ⟨fun l => ⟨l.1, l.2, l.3, l.4, l.5, l.6, l.7, l.8, l.9⟩, .inl rfl⟩
                · exact Cfg.Flags.refl _
              · exact Cfg.Flags.refl _

theorem dcpWrite32_health_moves (v : Nat) (b : Block) : Cfg.Moves b.cfg (dcpWrite32 0x21008008 v b).cfg := fsHealthWrite_moves _ _

theorem dcpWrite32_800C_cfg (v : Nat) (b : Block) : (dcpWrite32 0x2100800C v b).cfg = b.cfg := rfl
theorem dcpWrite32_8004_cfg (v : Nat) (b : Block) : (dcpWrite32 0x21008004 v b).cfg = b.cfg := rfl

theorem dcpWriteReg_moves (a n : Nat) (v : W64) (b : Block) : Cfg.Moves b.cfg (dcpWriteReg a n v b).cfg := by
  unfold dcpWriteReg; split
  · exact Cfg.Moves.refl _
  · split
    · exact Cfg.Moves.refl _
    · split
      · exact Cfg.Moves.refl _
      · split
        · by_cases h : a = 0x21008008
          · rw [h]; exact dcpWrite32_health_moves _ _
          · exact (dcpWrite32_flags _ _ _ h).moves
        · split
          · by_cases h : a = 0x21008008
            · rw [h]; rw [show 0x21008008 + 4 = 0x2100800C from rfl, dcpWrite32_800C_cfg]; exact dcpWrite32_health_moves _ _
            · by_cases h' : a + 4 = 0x21008008
              · have : a = 0x21008004 := by omega
                rw [this]
                have := dcpWrite32_health_moves (v.toNat / p32) (dcpWrite32 0x21008004 (v.toNat % p32) b)
                rw [dcpWrite32_8004_cfg] at this; exact this
              · exact ((dcpWrite32_flags _ _ _ h).trans (dcpWrite32_flags _ _ _ h')).moves
          · exact Cfg.Moves.refl _

theorem setMode_moves (b : Block) : Cfg.Moves b.cfg (setModeApply b).cfg := by
  unfold setModeApply; dsimp only; split
  · exact Cfg.Moves.refl _
  · rename_i m rest hm
    by_cases hc : (!noLaunch b.d || !(if lateStart b.cfg b.d m then rpFits b.d 1 false else rpRoom b.d 1 false)) = true
    · rw [if_pos hc]; exact Cfg.Moves.refl _
    · rw [if_neg hc]; split
      · exact Cfg.Moves.refl _
      · rename_i hr
        refine ⟨fun l => ?_, .inl rfl⟩
        unfold modeRefused at hr; dsimp only at hr
        split at hr
        · cases hr
        · rename_i h1
          split at hr
          · cases hr
          · rename_i h2
            simp only [Bool.or_eq_true, decide_eq_true_eq, not_or, Nat.not_lt] at h1
            refine ⟨h1.1, h1.2, l.3, l.4, l.5, l.6, ?_, l.8, l.9⟩
            intro hd
            have hd' : bit (newMode b.cfg m) 0 = true := hd
            show b.cfg.replayEn = true
            by_cases hk : b.cfg.det = true
            · exact l.det hk
            · have hk' : b.cfg.det = false := by simpa using hk
              by_contra hh
              have hh' : b.cfg.replayEn = false := by simpa using hh
              apply h2
              show (bit (newMode b.cfg m) 0 && !b.cfg.det && (!b.cfg.replayEn || _)) = true
              rw [hd', hk', hh']; rfl

theorem post_moves (ok : Bool) (u : Nat) (b : Block) : Cfg.Moves b.cfg (post ok u b).cfg := by
  unfold post; split
  · exact Cfg.Moves.refl _
  · rename_i h
    have hp : b.cfg.phase ≠ .booted := booting_ne_booted (by simpa using h) (by decide)
    split
    · refine ⟨?_, .inl rfl⟩; exact fun l => legal_phase l hp
    · exact bootFail_moves { b with d := postSignature b.cfg b.d u } 3 hp

theorem fwImageRead_moves (i : List Byte) (e : Bool) (b : Block) : Cfg.Moves b.cfg (fwImageRead i e b).cfg := by
  unfold fwImageRead; split
  · exact Cfg.Moves.refl _
  · rename_i h
    have hp : b.cfg.phase ≠ .booted := booting_ne_booted (by simpa using h) (by decide)
    split
    · exact bootFail_moves _ _ hp
    · split
      · exact bootFail_moves _ _ hp
      · refine ⟨?_, .inl rfl⟩; exact fun l => legal_phase l hp

theorem fwResponse_moves (p : Port) (tag : Nat) (data : List Byte) (e : Bool) (b : Block) : Cfg.Moves b.cfg (fwResponse p tag data e b).cfg := by
  unfold fwResponse; split
  · exact Cfg.Moves.refl _
  · dsimp only; split
    · exact Cfg.Moves.refl _
    · split
      · exact ⟨fun l => ⟨l.1, l.2, l.3, l.4, l.5, l.6, l.7, l.8, l.9⟩, .inl rfl⟩
      · exact fwImageRead_moves _ _ _

theorem fwVerify_moves (ok : Bool) (b : Block) : Cfg.Moves b.cfg (fwVerifyResult ok b).cfg := by
  unfold fwVerifyResult; split
  · exact Cfg.Moves.refl _
  · rename_i h
    have hp : b.cfg.phase ≠ .booted := booting_ne_booted (by simpa using h) (by decide)
    split
    · refine ⟨?_, .inl rfl⟩; exact fun l => legal_phase l hp
    · refine ⟨?_, .inl rfl⟩; exact fun l => legal_phase l hp

theorem bootInit_moves (b : Block) : Cfg.Moves b.cfg (bootInitDone b).cfg := by
  unfold bootInitDone; split
  · rename_i h
    have hp : b.cfg.phase ≠ .booted := booting_ne_booted h (by decide)
    refine ⟨?_, .inl rfl⟩; exact fun l => legal_phase l hp
  · exact Cfg.Moves.refl _

theorem fwStart_moves (b : Block) : Cfg.Moves b.cfg (fwStartTimeout b).cfg := by
  unfold fwStartTimeout; split
  · rename_i h; exact bootFail_moves _ _ (booting_ne_booted h (by decide))
  · exact Cfg.Moves.refl _

theorem bootStart_moves (b : Block) : Cfg.Moves b.cfg (mgtBootStart b).cfg := by
  unfold mgtBootStart; split
  · exact (show Cfg.Held b.cfg _ by exact Cfg.Held.same).moves
  · exact Cfg.Moves.refl _

theorem bootData_moves (w : W32) (b : Block) : Cfg.Moves b.cfg (mgtBootData w b).cfg := by
  unfold mgtBootData; split
  · exact Cfg.Moves.refl _
  · split
    · exact Cfg.Moves.refl _
    · rename_i h
      have hp : b.cfg.phase ≠ .booted := booting_ne_booted (by simpa using h) (by decide)
      dsimp only; split
      · exact (show Cfg.Held b.cfg _ by exact Cfg.Held.same).moves
      · exact takeBlock_moves _ _ hp

theorem bootTimeout_moves (b : Block) : Cfg.Moves b.cfg (bootBlockTimeout b).cfg := by
  unfold bootBlockTimeout; split
  · exact Cfg.Moves.refl _
  · rename_i h
    have hp : b.cfg.phase ≠ .booted := by
      simp only [Bool.or_eq_true, Bool.not_eq_true', not_or, Bool.not_eq_false] at h
      exact booting_ne_booted h.1 (by decide)
    split
    · exact takeBlock_moves _ _ hp
    · exact bootFail_moves _ _ hp

theorem orElseWake_moves (o : Option Bool) (b : Block) (f : Block → Block) (h : ∀ b, Cfg.Held b.cfg (f b).cfg) : Cfg.Moves b.cfg (orElseWake o b f).cfg := by
  unfold orElseWake; split
  · exact (wake_held { b with d := { b.d with held := b.d.held ++ [.order o] } }).moves
  · exact (h b).moves

theorem dozeWake_moves (b : Block) : Cfg.Moves b.cfg (dozeWakeSource b).cfg := by
  unfold dozeWakeSource; split
  · exact (wake_held b).moves
  · exact (show Cfg.Held b.cfg _ by exact Cfg.Held.same).moves

theorem resetRelease_moves (p q r : Bool) (b : Block) : Cfg.Moves b.cfg (resetRelease p q r b).cfg := (show Cfg.Held b.cfg _ by exact Cfg.Held.same).moves

theorem freeze_moves (b : Block) : Cfg.Moves b.cfg (freeze b).cfg := by
  unfold freeze; dsimp only; split
  · exact Cfg.Moves.refl _
  · split
    · exact (show Cfg.Held b.cfg _ by exact Cfg.Held.same).moves
    · exact ((show Cfg.Held b.cfg { b.cfg with freezeWait := true } by exact Cfg.Held.same).trans
        (wake_held { b with cfg := { b.cfg with freezeWait := true } })).moves

theorem freezeRelease_moves (b : Block) : Cfg.Moves b.cfg (freezeRelease b).cfg := by
  unfold freezeRelease; dsimp only; split
  · exact ((show Cfg.Held b.cfg { b.cfg with frozen := false } by exact Cfg.Held.same).trans
      (serveHeldHost_held { cfg := { b.cfg with frozen := false }, d := tsResume b.d })).moves
  · exact (show Cfg.Held b.cfg _ by exact Cfg.Held.same).moves

theorem awake_held (b : Block) (d : Dyn) : Cfg.Held b.cfg (serveHeldHost (tidy { cfg := { b.cfg with doze := .awake, dozeReq := false }, d := d })).cfg := by
  have a : Cfg.Held b.cfg { b.cfg with doze := .awake, dozeReq := false } :=
    ⟨fun l => ⟨l.1, l.2, l.3, l.4, l.5, l.6, l.7, l.8, fun h => absurd rfl h⟩, .inl rfl⟩
  refine a.trans ((?_ : Cfg.Held _ (tidy { cfg := { b.cfg with doze := .awake, dozeReq := false }, d := d }).cfg).trans (serveHeldHost_held _))
  rw [tidy_cfg]; exact Cfg.Held.refl _

theorem wakeComplete_moves (b : Block) : Cfg.Moves b.cfg (wakeComplete b).cfg := by
  unfold wakeComplete; dsimp only; split
  · exact Cfg.Moves.refl _
  · split
    · exact ((awake_held b _).trans (show Cfg.Held _ _ by exact Cfg.Held.same)).moves
    · exact (awake_held b _).moves

theorem dozeEntry_moves (b : Block) (hs : b.cfg.serving = true) : Cfg.Moves b.cfg (dozeEntry b).cfg := by
  unfold dozeEntry; dsimp only; split
  · exact Cfg.Moves.refl _
  · refine ⟨fun l => ⟨l.1, l.2, l.3, l.4, l.5, l.6, l.7, l.8, fun _ => ?_⟩, .inl rfl⟩
    simp only [Cfg.serving, Bool.and_eq_true, beq_iff_eq] at hs; exact hs.2

theorem advance_moves (i : Nat) (n : W16) (b : Block) : Cfg.Moves b.cfg (advance i n b).cfg := by
  unfold advance; dsimp only; split
  · exact (wake_held { b with d := chainAdvance i n b.cfg b.d }).moves
  · exact Cfg.Moves.refl _

theorem uartTx_moves (b : Block) : Cfg.Moves b.cfg (uartTxChar b).cfg := by
  unfold uartTxChar; split
  · exact Cfg.Moves.refl _
  · split
    · exact Cfg.Moves.refl _
    · dsimp only
      split
      · refine ⟨fun l => ⟨l.1, l.2, l.3, l.4, ⟨?_, fun r h => by cases h⟩, l.6, l.7, l.8, l.9⟩, .inl rfl⟩
        show b.cfg.baudNext.getD b.cfg.baud ∈ baudRates
        cases hn : b.cfg.baudNext with
        | none => exact l.baud.1
        | some r => exact l.baud.2 r hn
      · exact Cfg.Moves.refl _

theorem monBaud_moves (r : Nat) (b : Block) : Cfg.Moves b.cfg (monBaud r b).cfg := by
  unfold monBaud; split
  · rename_i h
    refine ⟨fun l => ⟨l.1, l.2, l.3, l.4, ⟨l.baud.1, fun x hx => ?_⟩, l.6, l.7, l.8, l.9⟩, .inl rfl⟩
    cases hx; simpa using h
  · exact Cfg.Moves.refl _

theorem monRefused_held (b : Block) : Cfg.Held b.cfg (monRefused b).cfg := by
  show Cfg.Held b.cfg (surveyRefused b).cfg; exact Cfg.Held.same

theorem monDrain_moves (b : Block) : Cfg.Moves b.cfg (monDrain b).cfg := by
  unfold monDrain; split
  · exact (monRefused_held _).moves
  · exact (mgtDrain_held b).moves

theorem monSurvey_moves (f : Bool) (b : Block) : Cfg.Moves b.cfg (monSurvey f b).cfg := by
  unfold monSurvey; split
  · exact (monRefused_held _).moves
  · exact (mgtSurvey_held f b).moves

theorem permanent_held (b : Block) (st : Status) (n : Nat) (us : List Nat) : Cfg.Held b.cfg (permanentFound b st n us).cfg := by
  unfold permanentFound; split
  · exact Cfg.Held.refl _
  · exact Cfg.Held.same

theorem ite_moves {k : Cfg} {p : Prop} [Decidable p] {x y : Block} (hx : Cfg.Moves k x.cfg) (hy : Cfg.Moves k y.cfg) : Cfg.Moves k (if p then x else y).cfg := by
  split
  · exact hx
  · exact hy
theorem permanentFound_after_moves (b : Block) (d : Dyn) (st : Status) (n : Nat) (us : List Nat) : Cfg.Moves b.cfg (permanentFound { b with d := d } st n us).cfg :=
  (permanent_held { b with d := d } st n us).moves

theorem faultServe_moves (b : Block) : Cfg.Moves b.cfg (faultServe b).cfg := by
  unfold faultServe
  cases nextRecord b.d with
  | none => exact Cfg.Moves.refl _
  | some x => exact ite_moves (Cfg.Moves.refl _) (permanentFound_after_moves _ _ _ _ _)

theorem drainOrder_moves (b : Block) : Cfg.Moves b.cfg (drainOrder b).cfg := by
  unfold drainOrder; split
  · rename_i h; simp only [Bool.and_eq_true, decide_eq_true_eq] at h; exact enterDraining_moves b h.1
  · exact Cfg.Moves.refl _

theorem drainWait_moves (b : Block) : Cfg.Moves b.cfg (drainWaitExpiry b).cfg := by
  unfold drainWaitExpiry; dsimp only; split
  · exact Cfg.Moves.refl _
  · exact drainTell_after_moves _ _

theorem readOut_cfg (a i : Nat) (r : EccResult) (b : Block) : (readOut a i r b).cfg = b.cfg := by
  unfold readOut; split
  · rfl
  · dsimp only; split
    · rfl
    · split <;> rfl
theorem uartRxChar_cfg (c : Byte) (b : Block) : (uartRxChar c b).cfg = b.cfg := by
  unfold uartRxChar; dsimp only; split
  · rfl
  · split <;> rfl
theorem mgtStatusRead_cfg (h : Bool) (b : Block) : (mgtStatusRead h b).cfg = b.cfg := by
  unfold mgtStatusRead; dsimp only; split <;> rfl
theorem mgtSigDataRead_cfg (b : Block) : (mgtSigDataRead b).cfg = b.cfg := by
  unfold mgtSigDataRead; dsimp only; split <;> rfl
theorem mgtSigAck_cfg (b : Block) : (mgtSigAck b).cfg = b.cfg := by
  unfold mgtSigAck; dsimp only; split <;> rfl

theorem tick_cfg (b : Block) : (tick b).cfg = b.cfg := by
  unfold tick; dsimp only; split
  · rfl
  · split <;> rfl

theorem legal_reset (x : Build) : (Cfg.reset x).Legal where
  cblk := show 2 ≤ 8 by decide
  shfrac := show 0 ≤ 5 by decide
  hang := show 2 ≤ (16 : BitVec 8).toNat by decide
  pcs := by
    have : (Cfg.reset x).pcsLog2 = (Cfg.reset State.reset.m.cfg.build).pcsLog2 := rfl
    rw [this]; decide
  baud := ⟨by
    have : (Cfg.reset x).baud = (Cfg.reset State.reset.m.cfg.build).baud := rfl
    rw [this]; decide, fun r h => by cases h⟩
  replay := fun h => by cases h
  det := fun h => by cases h
  spill := fun h => by cases h
  doze := fun h => absurd rfl h

end Sys2Proof.Machine
end

