-- ==== Sys2Proof/Laws/Tab.lean ====
section
/-! SUPPORT. Sparse tables: a read after a write of the same word gives what was written, a write leaves every other word alone, and every
operation keeps the canonical form; so do the named writes of the block's stores. -/
namespace Sys2Proof.Machine

variable {α : Type}

theorem tget_tput_self (t : Tab α) (k : Nat) (v : α) : tget (tput t k v) k = some v := by
  induction t with
  | nil => simp [tput, tget]
  | cons e t ih =>
    obtain ⟨a, b⟩ := e
    unfold tput; split
    · simp [tget]
    · split
      · simp [tget]
      · rename_i h; simp [tget, h, ih]

theorem tget_tput_ne (t : Tab α) {k j : Nat} (v : α) (h : j ≠ k) : tget (tput t k v) j = tget t j := by
  induction t with
  | nil => simp [tput, tget, h]
  | cons e t ih =>
    obtain ⟨a, b⟩ := e
    unfold tput; split
    · simp [tget, h]
    · split
      · rename_i h2; subst h2; simp [tget, h]
      · simp only [tget]; rw [ih]

theorem tget_tdel_ne (t : Tab α) {k j : Nat} (h : j ≠ k) : tget (tdel t k) j = tget t j := by
  induction t with
  | nil => rfl
  | cons e t ih =>
    obtain ⟨a, b⟩ := e
    unfold tdel; split
    · rename_i h2; subst h2; simp [tget, h]
    · simp only [tget]; rw [ih]

/-- Every key of the table lies above `n`. -/
def above (n : Nat) (t : Tab α) : Prop := ∀ e ∈ t, n < e.1

theorem tsorted_cons (a : Nat) (b : α) (t : Tab α) : tsorted ((a, b) :: t) = true ↔ above a t ∧ tsorted t = true := by
  induction t generalizing a b with
  | nil => simp [tsorted, above]
  | cons e t ih =>
    obtain ⟨c, d⟩ := e
    simp only [tsorted, Bool.and_eq_true, decide_eq_true_eq]
    constructor
    · rintro ⟨h1, h2⟩
      refine ⟨?_, h2⟩
      intro e he
      rcases List.mem_cons.mp he with rfl | he
      · exact h1
      · exact Nat.lt_trans h1 (((ih c d).mp h2).1 e he)
    · rintro ⟨h1, h2⟩
      exact ⟨h1 (c, d) (by simp), h2⟩

theorem above_tput {n k : Nat} {v : α} {t : Tab α} (h : above n t) (hk : n < k) : above n (tput t k v) := by
  induction t with
  | nil => intro e he; simp [tput] at he; subst he; exact hk
  | cons e t ih =>
    obtain ⟨a, b⟩ := e
    have ha : n < a := h (a, b) (by simp)
    have ht : above n t := fun e he => h e (by simp [he])
    unfold tput; split
    · intro e he
      rcases List.mem_cons.mp he with rfl | he
      · exact hk
      · exact h e he
    · split
      · intro e he
        rcases List.mem_cons.mp he with rfl | he
        · exact hk
        · exact ht e he
      · intro e he
        rcases List.mem_cons.mp he with rfl | he
        · exact ha
        · exact ih ht e he

theorem tsorted_tput {t : Tab α} (h : tsorted t = true) (k : Nat) (v : α) : tsorted (tput t k v) = true := by
  induction t with
  | nil => simp [tput, tsorted]
  | cons e t ih =>
    obtain ⟨a, b⟩ := e
    obtain ⟨h1, h2⟩ := (tsorted_cons a b t).mp h
    unfold tput; split
    · rename_i hk
      refine (tsorted_cons k v _).mpr ⟨?_, h⟩
      intro e he
      rcases List.mem_cons.mp he with rfl | he
      · exact hk
      · exact Nat.lt_trans hk (h1 e he)
    · split
      · rename_i hk; subst hk
        exact (tsorted_cons k v t).mpr ⟨h1, h2⟩
      · exact (tsorted_cons a b _).mpr ⟨above_tput h1 (by omega), ih h2⟩

theorem mem_tdel {t : Tab α} {k : Nat} {e : Nat × α} (h : e ∈ tdel t k) : e ∈ t := by
  induction t with
  | nil => simp [tdel] at h
  | cons f t ih =>
    obtain ⟨a, b⟩ := f
    unfold tdel at h; split at h
    · simp [h]
    · rcases List.mem_cons.mp h with rfl | h
      · simp
      · simp [ih h]

theorem tsorted_tdel {t : Tab α} (h : tsorted t = true) (k : Nat) : tsorted (tdel t k) = true := by
  induction t with
  | nil => rfl
  | cons e t ih =>
    obtain ⟨a, b⟩ := e
    obtain ⟨h1, h2⟩ := (tsorted_cons a b t).mp h
    unfold tdel; split
    · exact h2
    · exact (tsorted_cons a b _).mpr ⟨fun e he => h1 e (mem_tdel he), ih h2⟩

theorem mem_tput {t : Tab α} {k : Nat} {v : α} {e : Nat × α} (h : e ∈ tput t k v) : e = (k, v) ∨ e ∈ t := by
  induction t with
  | nil => simp [tput] at h; exact .inl h
  | cons f t ih =>
    obtain ⟨a, b⟩ := f
    unfold tput at h; split at h
    · rcases List.mem_cons.mp h with rfl | h
      · exact .inl rfl
      · exact .inr h
    · split at h
      · rcases List.mem_cons.mp h with rfl | h
        · exact .inl rfl
        · exact .inr (by simp [h])
      · rcases List.mem_cons.mp h with rfl | h
        · exact .inr (by simp)
        · rcases ih h with h | h
          · exact .inl h
          · exact .inr (by simp [h])

/-- A write keeps the canonical form. -/
theorem twf_tset [DecidableEq α] {t : Tab α} {dflt : α} (h : twf dflt t = true) (k : Nat) (v : α) : twf dflt (tset t k v dflt) = true := by
  simp only [twf, Bool.and_eq_true, List.all_eq_true] at h ⊢
  unfold tset; split
  · exact ⟨tsorted_tdel h.1 k, fun e he => h.2 e (mem_tdel he)⟩
  · rename_i hv
    refine ⟨tsorted_tput h.1 k v, fun e he => ?_⟩
    rcases mem_tput he with rfl | he
    · simpa using hv
    · exact h.2 e he

theorem tget_above {t : Tab α} {n : Nat} (h : above n t) : tget t n = none := by
  induction t with
  | nil => rfl
  | cons e t ih =>
    obtain ⟨a, b⟩ := e
    have : n < a := h (a, b) (by simp)
    simp only [tget]; rw [if_neg (by omega)]; exact ih (fun e he => h e (by simp [he]))

theorem tget_tdel_self {t : Tab α} (h : tsorted t = true) (k : Nat) : tget (tdel t k) k = none := by
  induction t with
  | nil => rfl
  | cons e t ih =>
    obtain ⟨a, b⟩ := e
    obtain ⟨h1, h2⟩ := (tsorted_cons a b t).mp h
    unfold tdel; split
    · rename_i hk; subst hk; exact tget_above h1
    · rename_i hk; simp only [tget, if_neg hk]; exact ih h2

/-- A read after a write of the same word gives what was written. -/
theorem tgetD_tset_self [DecidableEq α] {t : Tab α} (h : tsorted t = true) (k : Nat) (v dflt : α) : tgetD (tset t k v dflt) k dflt = v := by
  unfold tset tgetD; split
  · rename_i hv; rw [tget_tdel_self h, hv]; rfl
  · rw [tget_tput_self]; rfl

/-- The same in any table, for what is not the default. -/
theorem tgetD_tset_put [DecidableEq α] (t : Tab α) (k : Nat) {v dflt : α} (h : v ≠ dflt) : tgetD (tset t k v dflt) k dflt = v := by
  unfold tset tgetD; rw [if_neg h, tget_tput_self]; rfl

/-- A write leaves every other word alone. -/
theorem tgetD_tset_ne [DecidableEq α] (t : Tab α) {k j : Nat} (v dflt : α) (h : j ≠ k) : tgetD (tset t k v dflt) j dflt = tgetD t j dflt := by
  unfold tset tgetD; split
  · rw [tget_tdel_ne t h]
  · rw [tget_tput_ne t v h]

theorem wf_parts {d : Dyn} : Memory.wf d = true ↔ twf 0 d.gs.edge = true ∧ twf .zero d.nb.nodes = true ∧ twf 0 d.cnt = true ∧
    twf 0 d.ch.chain = true ∧ twf .init d.sg.ctrs = true ∧ twf .init d.sg.cregs = true ∧ twf .init d.tk.queues = true ∧
    twf .init d.en = true ∧ twf .init d.lk.ports = true := by
  simp only [Memory.wf, Bool.and_eq_true, and_assoc]

theorem setNode_wf {d : Dyn} (h : Memory.wf d = true) (g : Nat) (n : NodeRec) : Memory.wf (setNode d g n) = true := by
  rw [wf_parts] at *; exact ⟨h.1, twf_tset h.2.1 g n, h.2.2⟩

theorem count_wf {d : Dyn} (h : Memory.wf d = true) (off n : Nat) : Memory.wf (count d off n) = true := by
  rw [wf_parts] at *; exact ⟨h.1, h.2.1, twf_tset h.2.2.1 _ _, h.2.2.2⟩

theorem setSig_wf {d : Dyn} (h : Memory.wf d = true) (i : Nat) (x : Sig) : Memory.wf (setSig d i x) = true := by
  rw [wf_parts] at *; obtain ⟨a, b, c, e, f, g⟩ := h; exact ⟨a, b, c, e, twf_tset f _ _, g⟩

theorem setCr_wf {d : Dyn} (h : Memory.wf d = true) (i : Nat) (x : CReg) : Memory.wf (setCr d i x) = true := by
  rw [wf_parts] at *; obtain ⟨a, b, c, e, f, g, m⟩ := h; exact ⟨a, b, c, e, f, twf_tset g _ _, m⟩

theorem setQ_wf {d : Dyn} (h : Memory.wf d = true) (i : Nat) (x : RQueue) : Memory.wf (setQ d i x) = true := by
  rw [wf_parts] at *; obtain ⟨a, b, c, e, f, g, m, n⟩ := h; exact ⟨a, b, c, e, f, g, twf_tset m _ _, n⟩

theorem setEng_wf {d : Dyn} (h : Memory.wf d = true) (l : Nat) (x : Engine) : Memory.wf (setEng d l x) = true := by
  rw [wf_parts] at *; obtain ⟨a, b, c, e, f, g, m, n, o⟩ := h; exact ⟨a, b, c, e, f, g, m, twf_tset n _ _, o⟩

theorem setLink_wf {d : Dyn} (h : Memory.wf d = true) (p : Nat) (x : Link) : Memory.wf (setLink d p x) = true := by
  rw [wf_parts] at *; obtain ⟨a, b, c, e, f, g, m, n, o⟩ := h; exact ⟨a, b, c, e, f, g, m, n, twf_tset o _ _⟩

/-- The stores after reset are in canonical form. -/
theorem reset_wf : Memory.wf State.reset.m.d = true := by decide

end Sys2Proof.Machine
end

