-- ==== Sys2Proof/Laws/Ops.lean ====
section
/-! SUPPORT. The shared operations: one lemma for each that says which parts of the running side it can change, and the plain cases of it. -/
namespace Sys2Proof.Machine

/-- A counter write leaves every other counter alone. -/
theorem count_cnt (d : Dyn) (off n : Nat) : ∃ c, count d off n = { d with cnt := c } := ⟨_, rfl⟩

/-- The LOSS record changes the trace buffer alone. -/
theorem traceLoss_frame (k : Cfg) (d : Dyn) : ∃ t, traceLoss k d = { d with tr := t } := by
  unfold traceLoss
  split
  · exact ⟨d.tr, rfl⟩
  · exact ⟨_, by unfold tracePush; rfl⟩

/-- A trace record changes the trace buffer and, where it is lost, the counter TRACE_LOST. -/
theorem trace_frame (k : Cfg) (d : Dyn) (type plane body : Nat) :
    ∃ t c, trace k d type plane body = { d with tr := t, cnt := c } := by
  unfold trace
  split
  · exact ⟨d.tr, d.cnt, rfl⟩
  · obtain ⟨t, h⟩ := traceLoss_frame k d
    simp only [h]
    split
    · exact ⟨_, d.cnt, by unfold tracePush; rfl⟩
    · exact ⟨_, _, by unfold count; rfl⟩

theorem trace_off {k : Cfg} (h : k.traceEn = false) (d : Dyn) (type plane body : Nat) : trace k d type plane body = d := by
  simp [trace, h]

theorem traceState_frame (k : Cfg) (d : Dyn) (kind new old : Nat) :
    ∃ t c, traceState k d kind new old = { d with tr := t, cnt := c } := trace_frame k d _ _ _

theorem launchSample_frame (k : Cfg) (d : Dyn) (slot : Nat) (fin : Bool) :
    ∃ t c, launchSample k d slot fin = { d with tr := t, cnt := c } := by
  unfold launchSample
  split
  · exact ⟨d.tr, d.cnt, rfl⟩
  · exact trace_frame k d _ _ _

/-- A record that enters the summary changes it, the trace buffer and TRACE_LOST. -/
theorem faultEnter_frame (k : Cfg) (d : Dyn) (n : Nat) (r : FRec) :
    ∃ f t c, faultEnter k d n r = { d with fs := f, tr := t, cnt := c } := by
  unfold faultEnter
  obtain ⟨t, c, h⟩ := trace_frame k
    { d with fs := { d.fs with
        recs := tput d.fs.recs n { record := { r with fseq := d.fs.fseq }, served := false, posted := false, acked := false },
        fseq := d.fs.fseq + 1 } } 0x04 r.plane
    (d.fs.fseq.toNat + r.status.code * 2 ^ 32 + r.mech * 2 ^ 40 + r.unit * 2 ^ 48 + r.flags * 2 ^ 64
      + r.planeCtx * 2 ^ 72 + optNat r.launch * 2 ^ 80 + optNat r.node * 2 ^ 96 + optNat r.eng * 2 ^ 120)
  exact ⟨_, t, c, h⟩

/-- A fault record with no answer behind it changes the fault summary, the trace buffer and TRACE_LOST. -/
theorem fault_frame (k : Cfg) (d : Dyn) (r : FRec) : ∃ f t c, fault k d r = { d with fs := f, tr := t, cnt := c } := by
  unfold fault faultWith faultFull
  split
  · exact ⟨d.fs, d.tr, d.cnt, rfl⟩
  · split
    · obtain ⟨f, t, c, h⟩ := faultEnter_frame k d (by assumption) { r with ts := d.ts }
      exact ⟨f, t, c, by simp [recordIn, h]⟩
    · exact ⟨_, d.tr, d.cnt, rfl⟩

/-- A source that already holds a waiting record detects nothing. -/
theorem fault_holds {d : Dyn} {r : FRec} (h : sourceHolds d r = true) (k : Cfg) : fault k d r = d := by
  simp [fault, faultWith, faultFull, h]

/-- A replay record changes the log's staging alone, and nothing where none is recorded. -/
theorem rpPut_frame (d : Dyn) (type : Nat) (glob : Bool) (ctx sub data : Nat) (body : List W256) (img : Option CmdId) :
    ∃ p, rpPut d type glob ctx sub data body img = { d with rp := p } := by
  unfold rpPut
  split
  · exact ⟨d.rp, rfl⟩
  · exact ⟨_, rfl⟩

theorem rpPut_off {d : Dyn} (h : d.rp.recording = false) (type : Nat) (glob : Bool) (ctx sub data : Nat) (body : List W256)
    (img : Option CmdId) : rpPut d type glob ctx sub data body img = d := by simp [rpPut, h]

/-- A read of memory changes the bus and what is presented. -/
theorem busRead_frame (k : Cfg) (d : Dyn) (a len : Nat) (use : RdUse) :
    ∃ b o, busRead k d a len use = { d with bus := b, outs := o } := by
  unfold busRead busReadOn
  simp only []
  split
  · exact ⟨_, _, rfl⟩
  · exact ⟨_, d.outs, rfl⟩

theorem busWrite_frame (k : Cfg) (d : Dyn) (a : Nat) (data : List Byte) (use : WrUse) :
    ∃ b o, busWrite k d a data use = { d with bus := b, outs := o } := ⟨_, _, rfl⟩

/-- An answer presented frees at most an operation slot of its engine. -/
theorem emit_frame (d : Dyn) (o : PortOut) : ∃ e l, emit d o = { d with en := e, outs := l } := by
  unfold emit
  split
  · exact ⟨_, _, rfl⟩
  · exact ⟨d.en, _, rfl⟩

/-- A change of a ring or of a context's page touches the pages alone. -/
theorem modCtx_frame (d : Dyn) (c : Nat) (f : Ctx → Ctx) : ∃ x, modCtx d c f = { d with fe := { d.fe with ctxs := x } } := ⟨_, rfl⟩

theorem modRing_frame (d : Dyn) (c r : Nat) (f : Ring → Ring) : ∃ x, modRing d c r f = { d with fe := { d.fe with ctxs := x } } := ⟨_, rfl⟩

/-! ### Engines, counters and lowest free numbers -/

/-- An engine reads as it was written. -/
theorem getEng_setEng (d : Dyn) (l : Nat) {e : Engine} (h : e ≠ .init) : getEng (setEng d l e) l = e := tgetD_tset_put _ _ h

theorem firstFree_spec (used : List Nat) : ∀ n i : Nat, match firstFree n i used with
    | some x => x ∉ used ∧ i ≤ x ∧ ∀ m, i ≤ m → m < x → m ∈ used
    | none => ∀ m, i ≤ m → m < i + n → m ∈ used := by
  intro n
  induction n with
  | zero => intro i m h1 h2; omega
  | succ n ih =>
    intro i
    unfold firstFree
    by_cases h : used.contains i = true
    · rw [if_pos h]
      have hi : i ∈ used := by simpa using h
      have := ih (i + 1)
      split at this <;> rename_i o ho
      · refine ⟨this.1, by omega, fun m h1 h2 => ?_⟩
        rcases Nat.eq_or_lt_of_le h1 with h1 | h1
        · exact h1 ▸ hi
        · exact this.2.2 m h1 h2
      · intro m h1 h2
        rcases Nat.eq_or_lt_of_le h1 with h1 | h1
        · exact h1 ▸ hi
        · exact this m h1 (by omega)
    · rw [if_neg h]
      exact ⟨by simpa using h, Nat.le_refl i, fun m h1 h2 => by omega⟩

/-- The lowest number not in a list. -/
theorem freshNat_spec (used : List Nat) : freshNat used ∉ used ∧ ∀ n < freshNat used, n ∈ used := by
  have h := firstFree_spec used (used.length + 1) 0
  unfold freshNat
  split at h <;> rename_i o ho <;> rw [ho]
  · exact ⟨h.1, fun n hn => h.2.2 n (Nat.zero_le n) hn⟩
  · exfalso
    have hs : List.range (used.length + 1) ⊆ used := fun m hm => h m (Nat.zero_le m) (by simpa using hm)
    have := (List.subperm_of_subset List.nodup_range hs).length_le
    simp at this

/-- A counter counts, up to its top. -/
theorem count_self (d : Dyn) (off n : Nat) (h : 0 < n) :
    (tgetD (count d off n).cnt off 0).toNat = min max64 ((tgetD d.cnt off 0).toNat + n) := by
  have hv : (w64 (min max64 ((tgetD d.cnt off 0).toNat + n))).toNat = min max64 ((tgetD d.cnt off 0).toNat + n) := by
    simp only [w64, BitVec.toNat_ofNat]
    exact Nat.mod_eq_of_lt (Nat.lt_of_le_of_lt (Nat.min_le_left _ _) (by decide))
  have hn : w64 (min max64 ((tgetD d.cnt off 0).toNat + n)) ≠ 0 := by
    intro h0
    rw [h0] at hv
    have : 0 < min max64 ((tgetD d.cnt off 0).toNat + n) := Nat.lt_min.mpr ⟨by decide, by omega⟩
    simp at hv; omega
  show (tgetD (tset d.cnt off _ 0) off 0).toNat = _
  rw [tgetD_tset_put _ _ hn, hv]

theorem trace_cnt (k : Cfg) (d : Dyn) (type plane body : Nat) {off : Nat} (h : off ≠ cTraceLost) :
    tgetD (trace k d type plane body).cnt off 0 = tgetD d.cnt off 0 := by
  unfold trace
  split
  · rfl
  · obtain ⟨t, e⟩ := traceLoss_frame k d
    simp only [e]
    split
    · unfold tracePush; rfl
    · exact tgetD_tset_ne _ _ _ h

theorem faultEnter_cnt (k : Cfg) (d : Dyn) (n : Nat) (r : FRec) {off : Nat} (h : off ≠ cTraceLost) :
    tgetD (faultEnter k d n r).cnt off 0 = tgetD d.cnt off 0 := by
  obtain ⟨f, p, b, e⟩ : ∃ f p b, faultEnter k d n r = trace k { d with fs := f } 0x04 p b := ⟨_, _, _, rfl⟩
  rw [e, trace_cnt k { d with fs := f } 0x04 p b h]

/-- A record counts nothing but a lost trace record. -/
theorem fault_cnt (k : Cfg) (d : Dyn) (r : FRec) {off : Nat} (h : off ≠ cTraceLost) :
    tgetD (fault k d r).cnt off 0 = tgetD d.cnt off 0 := by
  unfold fault faultWith faultFull
  split
  · rfl
  · dsimp only
    split
    · unfold recordIn
      simp only [List.foldl_nil]
      exact faultEnter_cnt k d _ _ h
    · rfl

theorem fault_en (k : Cfg) (d : Dyn) (r : FRec) : (fault k d r).en = d.en := by
  obtain ⟨f, t, c, h⟩ := fault_frame k d r
  rw [h]

end Sys2Proof.Machine
end

