-- ==== Sys2Proof/Laws/Placement.lean ====
section
/-! SUPPORT. What a dispatcher's cycle does: nothing without an entry, and with one entry what its examination gives. -/
namespace Sys2Proof.Machine

theorem settleRivals_short {vs : List Rival} (h : vs.length ≤ 1) : (settleRivals vs).length = vs.length := by
  match vs, h with
  | [], _ => rfl
  | [v], _ => rfl

theorem scan_nil (disp : Disp) (k : Cfg) (list : List REntry) (n : Nat) (s : PState) : scan disp k list n [] s = s := by
  cases n <;> rfl

theorem placement_none {disp : Disp} {k : Cfg} {d : Dyn} (h : cycleItems disp (cycleBegin disp k d).2 (cycleBegin disp k d).1 = []) :
    placement disp k d = (cycleBegin disp k d).2 := by
  unfold placement cyclePass
  simp only [h, scan_nil]
  rfl

/-- A cycle with one entry. -/
theorem placement_one {disp : Disp} {k : Cfg} {d : Dyn} {it : Item} {r : Bool × PState}
    (h : cycleItems disp (cycleBegin disp k d).2 (cycleBegin disp k d).1 = [it])
    (hr : examine disp k (cycleBegin disp k d).1 (PState.start (cycleBegin disp k d).2 (issueSlots disp) []) it = r)
    (hn : r.2.seen.length ≤ 1) : placement disp k d = r.2.d := by
  obtain ⟨n, hd⟩ : ∃ n, scanDepth disp = n + 1 := by cases disp <;> exact ⟨_, rfl⟩
  have hp : cyclePass disp k (cycleBegin disp k d).2 (cycleBegin disp k d).1 [] =
      if r.1 then { r.2 with cands := r.2.cands - 1 } else r.2 := by
    unfold cyclePass
    rw [h, hd, scan, if_neg (by cases disp <;> simp [PState.start, issueSlots])]
    have : ∀ l : List Item, l = [] → ∀ s, scan disp k (cycleBegin disp k d).1 n l s = s := by
      intro l hl s; rw [hl, scan_nil]
    simp only [hr]
    refine this _ ?_ _
    cases it <;> simp
  have hs : (cyclePass disp k (cycleBegin disp k d).2 (cycleBegin disp k d).1 []).seen = r.2.seen := by rw [hp]; split <;> rfl
  have hd' : (cyclePass disp k (cycleBegin disp k d).2 (cycleBegin disp k d).1 []).d = r.2.d := by rw [hp]; split <;> rfl
  unfold placement
  simp only [hs, settleRivals_short hn, if_true, hd']

/-- One or two leaves are never too many root issues for a region. -/
theorem regionOpen_one (disp : Disp) (l : Nat) : regionOpen disp [] [l] = true := by
  cases disp <;> simp [regionOpen, tgetD, tget]

theorem regionOpen_two (disp : Disp) (l m : Nat) : regionOpen disp [] [l, m] = true := by
  cases disp with
  | region => rfl
  | root =>
    have : ∀ a, (List.filter (fun q => decide (leafRegion q = a)) [l, m]).length ≤ 2 := fun a => List.length_filter_le _ _
    simp only [regionOpen, tgetD, tget, List.all_cons, List.all_nil, Bool.and_true, Bool.or_eq_true,
      Bool.and_eq_true, decide_eq_true_eq]
    exact Or.inr ⟨by simpa using this (leafRegion l), by simpa using this (leafRegion m)⟩

/-! ### One entry -/

theorem examine_internal {disp : Disp} {k : Cfg} {list : List REntry} {p : PState} {e : REntry}
    (h : onEngines (nodeDesc p.d e.slot e.g).op = false) :
    examine disp k list p (.node e) = if internalFree p.d e (nodeDesc p.d e.slot e.g) then
      (true, commitInternal k list (p.looked e) e (nodeDesc p.d e.slot e.g)) else (false, p) := by
  unfold examine; dsimp only; exact if_pos (by rw [h]; rfl)

theorem examine_section {disp : Disp} {k : Cfg} {list : List REntry} {p : PState} {e : REntry}
    (h : (nodeDesc p.d e.slot e.g).op = kSection) :
    examine disp k list p (.node e) =
      let x := nodeDesc p.d e.slot e.g
      let ms := sectionMembers k p.d x
      if sectionReady k p.d e x ms then (true, commitSection disp k list (p.looked e) e x ms)
      else (false, { p with d := reserve p.d e x ms }) := by
  unfold examine; dsimp only; exact (if_neg (by rw [h]; decide)).trans (if_pos h)

theorem examine_shut {disp : Disp} {k : Cfg} {list : List REntry} {p : PState} {e : REntry}
    (h : onEngines (nodeDesc p.d e.slot e.g).op = true) (hs : (nodeDesc p.d e.slot e.g).op ≠ kSection)
    (hf : someFree k p.d e (nodeDesc p.d e.slot e.g) = false) : examine disp k list p (.node e) = (false, p) := by
  unfold examine; dsimp only
  exact (if_neg (by rw [h]; decide)).trans ((if_neg hs).trans (if_pos (by rw [hf]; rfl)))

theorem examine_placed {disp : Disp} {k : Cfg} {list : List REntry} {p : PState} {e : REntry}
    (h : onEngines (nodeDesc p.d e.slot e.g).op = true) (hs : (nodeDesc p.d e.slot e.g).op ≠ kSection)
    (hf : someFree k p.d e (nodeDesc p.d e.slot e.g) = true) {pl : Place}
    (hp : place disp k (p.looked e).d e (nodeDesc p.d e.slot e.g) = pl) :
    examine disp k list p (.node e) = match pl with
      | .leaf l d => (true, commitOn disp k list { p with d := d } e (nodeDesc p.d e.slot e.g) l)
      | .wait l => (true, { p with d := waitFor disp (p.looked e).d e l })
      | .none => (true, p.looked e) := by
  unfold examine
  simp only [h, hf, Bool.not_true, Bool.false_eq_true, if_false, hs, hp]
  cases pl <;> rfl

/-! ### Commits -/

theorem turnBack_at (disp : Disp) (list : List REntry) (p : PState) (a d : Dyn) (e : REntry) (x : Desc) :
    turnBack disp list { p with d := a } d e x = turnBack disp list p d e x := rfl

theorem commitInternal_back {k : Cfg} {list : List REntry} {p : PState} {e : REntry} {x : Desc} {d d' : Dyn}
    (h : turnBack .root list p d e x = some d') : commitInternal k list { p with d := d } e x = { p with d := d' } := by
  unfold commitInternal; dsimp only; rw [turnBack_at, h]

theorem commitInternal_full {k : Cfg} {list : List REntry} {p : PState} {e : REntry} {x : Desc} {d : Dyn}
    (h : turnBack .root list p d e x = none) (hq : cqFree d = none) :
    commitInternal k list { p with d := d } e x = { p with d := d } := by
  unfold commitInternal; dsimp only; rw [turnBack_at, h, hq]

/-- What an issued node executed inside Denut does. -/
def internalBegins (k : Cfg) (d : Dyn) (e : REntry) (x : Desc) : Dyn :=
  if x.op = kRoute then routeIssue k d e.slot e.g x
  else if x.op = kStat then statIssue k d e.slot e.g (((tget d.ls.slots e.slot).map (fun l => l.id.c)).getD 0) x
  else if x.op = kHost then internalEnd (hostReturn d e.slot x) e.slot e.g .ok
  else d

theorem commitInternal_done {k : Cfg} {list : List REntry} {p : PState} {e : REntry} {x : Desc} {d : Dyn} {idx : Nat}
    (h : turnBack .root list p d e x = none) (hq : cqFree d = some idx) :
    commitInternal k list { p with d := d } e x =
      (p.commits e x).spend (internalBegins k (issueNode d .root idx e x [] .running) e x) 1 [] false := by
  unfold commitInternal; dsimp only; rw [turnBack_at, h, hq]; rfl

theorem commitSection_full {disp : Disp} {k : Cfg} {list : List REntry} {p : PState} {e : REntry} {x : Desc} {ms : List Nat} {d : Dyn}
    (h : 256 ≤ d.ch.sect.length ∨ regionOpen disp p.used (regionLeaves ms) = false) :
    commitSection disp k list { p with d := d } e x ms = { p with d := d } := by
  refine if_pos ?_
  rcases h with h | h <;> simp [h]

theorem commitSection_open {disp : Disp} {p : PState} {ms : List Nat} {d : Dyn}
    (h : d.ch.sect.length < 256) (ho : regionOpen disp p.used (regionLeaves ms) = true) :
    ¬ (decide (256 ≤ d.ch.sect.length) || !regionOpen disp p.used (regionLeaves ms)) = true := by
  simp [ho, Nat.not_le.mpr h]

theorem commitSection_back {disp : Disp} {k : Cfg} {list : List REntry} {p : PState} {e : REntry} {x : Desc} {ms : List Nat} {d d' : Dyn}
    (h : d.ch.sect.length < 256) (ho : regionOpen disp p.used (regionLeaves ms) = true)
    (hb : turnBack disp list p d e x = some d') : commitSection disp k list { p with d := d } e x ms = { p with d := d' } := by
  refine (if_neg (commitSection_open h ho)).trans ?_
  dsimp only; rw [turnBack_at, hb]

theorem commitSection_noEntry {disp : Disp} {k : Cfg} {list : List REntry} {p : PState} {e : REntry} {x : Desc} {ms : List Nat} {d : Dyn}
    (h : d.ch.sect.length < 256) (ho : regionOpen disp p.used (regionLeaves ms) = true)
    (hb : turnBack disp list p d e x = none) (hq : cqFree d = none) :
    commitSection disp k list { p with d := d } e x ms = { p with d := d } := by
  refine (if_neg (commitSection_open h ho)).trans ?_
  dsimp only; rw [turnBack_at, hb, hq]

/-- The members of an issued SECTION take their packets, with all their credit. -/
def sectionBegins (disp : Disp) (k : Cfg) (d : Dyn) (idx : Nat) (e : REntry) (x : Desc) (ms : List Nat) : Dyn :=
  let w := sectionWatch d idx e x
  let d := issueNode d disp idx e x (ms.map (fun l => copyOf l false)) .issued
  let d := { d with ch := { d.ch with sect := d.ch.sect ++ [w] } }
  let h := pktHead d idx e.slot e.g x.op x.bodyWords
  let d := ms.foldl (fun d l =>
    let d := sendPacket k d l h false x.body (bodyPtrOf k d e.slot e.g) false
    let c := credit k d l
    modEng d l (fun en => { en with secHeld := en.secHeld + c, secTask := some idx })) d
  if reached (chain d w.stream) w.target then dueSection d idx else d

theorem commitSection_done {disp : Disp} {k : Cfg} {list : List REntry} {p : PState} {e : REntry} {x : Desc} {ms : List Nat} {idx : Nat}
    {d : Dyn} (h : d.ch.sect.length < 256) (ho : regionOpen disp p.used (regionLeaves ms) = true)
    (hb : turnBack disp list p d e x = none) (hq : cqFree d = some idx) :
    commitSection disp k list { p with d := d } e x ms =
      (p.commits e x).spend (sectionBegins disp k d idx e x ms) 1 (regionLeaves ms) (disp = .root) := by
  refine (if_neg (commitSection_open h ho)).trans ?_
  dsimp only; rw [turnBack_at, hb, hq]; rfl

/-- A node issued on one leaf. -/
def oneBegins (disp : Disp) (k : Cfg) (d : Dyn) (idx : Nat) (e : REntry) (x : Desc) (l : Nat) : Dyn :=
  let d := issueNode d disp idx e x [copyOf l false] .issued
  sendPacket k d l (pktHead d idx e.slot e.g x.op x.bodyWords) false x.body (bodyPtrOf k d e.slot e.g) false

theorem commitOn_one {disp : Disp} {k : Cfg} {list : List REntry} {p : PState} {e : REntry} {x : Desc} {l : Nat} {a d : Dyn}
    (hu : p.used = []) (hs : shadowChoice k a e x = (false, d)) :
    commitOn disp k list { p with d := a } e x l = match turnBack disp list p d e x, cqFree d with
      | some d', _ => { p with d := d' }
      | none, none => { p with d := d }
      | none, some idx => (p.commits e x).spend (oneBegins disp k d idx e x l) 1 [l] (disp = .root) := by
  obtain ⟨pd, d0, rivals, seen, cands, left, used⟩ := p
  dsimp only at hu; subst hu
  unfold commitOn
  simp only [hs, Bool.false_and, Bool.false_eq_true, if_false, regionOpen_one, Bool.not_true]
  rw [turnBack_at disp list ⟨pd, d0, rivals, seen, cands, left, []⟩]
  cases turnBack disp list ⟨pd, d0, rivals, seen, cands, left, []⟩ d e x with
  | some => rfl
  | none => cases cqFree d <;> rfl

/-- A node issued on two leaves, one of them the shadow copy's. -/
def twoBegin (disp : Disp) (k : Cfg) (d : Dyn) (idx : Nat) (e : REntry) (x : Desc) (l m : Nat) : Dyn :=
  let d := issueNode d disp idx e x [copyOf l false, copyOf m true] .issued
  let h := pktHead d idx e.slot e.g x.op x.bodyWords
  let d := sendPacket k d l h false x.body (bodyPtrOf k d e.slot e.g) false
  sendPacket k d m h true x.body (bodyPtrOf k d e.slot e.g) false

theorem commitOn_alone {disp : Disp} {k : Cfg} {list : List REntry} {p : PState} {e : REntry} {x : Desc} {l : Nat} {a d : Dyn}
    (hs : shadowChoice k a e x = (true, d))
    (hb : best disp x.cls d ((eligible k d e.g x).filter (fun m => unitsDiffer l m && leafFree k d x.op x.bodyWords m)) = none) :
    commitOn disp k list { p with d := a } e x l = { p with d := d } := by
  unfold commitOn
  simp only [hs, if_true, hb, Option.isNone_none, Bool.true_or, Bool.and_self]

theorem commitOn_two {disp : Disp} {k : Cfg} {list : List REntry} {p : PState} {e : REntry} {x : Desc} {l m : Nat} {a d dm : Dyn}
    (hu : p.used = []) (hl : 2 ≤ p.left) (hs : shadowChoice k a e x = (true, d))
    (hb : best disp x.cls d ((eligible k d e.g x).filter (fun m => unitsDiffer l m && leafFree k d x.op x.bodyWords m)) = some (m, dm)) :
    commitOn disp k list { p with d := a } e x l = match turnBack disp list p d e x, cqFree d with
      | some d', _ => { p with d := d' }
      | none, none => { p with d := d }
      | none, some idx => (p.commits e x).spend (twoBegin disp k dm idx e x l m) 2 [l, m] (disp = .root) := by
  obtain ⟨pd, d0, rivals, seen, cands, left, used⟩ := p
  dsimp only at hu; subst hu
  unfold commitOn
  simp only [hs, if_true, hb, Option.isNone_some, Bool.false_or, Nat.not_lt.mpr hl, decide_false, Bool.and_false,
    Bool.false_eq_true, if_false, regionOpen_two, Bool.not_true]
  rw [turnBack_at disp list ⟨pd, d0, rivals, seen, cands, left, []⟩]
  cases turnBack disp list ⟨pd, d0, rivals, seen, cands, left, []⟩ d e x with
  | some => rfl
  | none => cases cqFree d <;> rfl

end Sys2Proof.Machine
end

