-- ==== Sys2Proof/Laws/Present.lean ====
section
/-! SUPPORT. What presenting a token-interface operation does: it waits at the engine, is a protocol error, or is the operation's own effect. -/
namespace Sys2Proof.Machine

theorem presentOp_taken {s : State} {l ptag j : Nat} {p : Pkt} (h : Presents s l ptag j p) (code : Nat) (k : Cfg) (hk : k = s.m.cfg)
    (f : Pkt → Nat → Dyn) : presentOp k s.fresh l ptag code true f = f p j := by
  obtain ⟨h1, h2, h3, h4, h5, h6⟩ := h
  subst hk
  simp only [presentOp, h2, h3, h4, h5, h6]
  rw [if_neg (by simp), if_pos (by simp)]

/-- An engine that is no task engine, that a record holds, or whose slots are all in use presents nothing. -/
theorem presentOp_waits {k : Cfg} {d : Dyn} {l : Nat}
    (h : k.taskEngine l = false ∨ opBlocked d l = true ∨ firstFree 8 0 (tkeys (getEng d l).ops) = none)
    (ptag code : Nat) (ok : Bool) (f : Pkt → Nat → Dyn) : presentOp k d l ptag code ok f = d := by
  unfold presentOp
  by_cases c : (!k.taskEngine l || opBlocked d l) = true
  · exact if_pos c
  · rw [if_neg c]
    rcases h with h | h | h
    · simp [h] at c
    · simp [h] at c
    · rw [h]

/-- An operation that names no taken packet, or whose operand word is malformed, is a protocol error. -/
theorem presentOp_bad {k : Cfg} {d : Dyn} {l ptag j : Nat} {ok : Bool} (h1 : k.taskEngine l = true) (h2 : opBlocked d l = false)
    (h3 : firstFree 8 0 (tkeys (getEng d l).ops) = some j) (h4 : (∀ p, (getEng d l).tagged ptag = some p → p.taken = false) ∨ ok = false)
    (code : Nat) (f : Pkt → Nat → Dyn) :
    presentOp k d l ptag code ok f = protoError k d l code 0 [.tokRsp l j .badDescriptor 0 0 0 0] := by
  unfold presentOp
  rw [if_neg (by simp [h1, h2]), h3]
  dsimp only
  split
  · rfl
  · rename_i p hp
    rw [if_neg]
    rcases h4 with h4 | h4
    · simp [h4 p hp]
    · simp [h4]

/-! ### The slot that an operation takes -/

/-- An operation is found in the slot that it has taken. -/
theorem getOp_putOp (d : Dyn) (l j : Nat) (o : OpSlot) : getOp (putOp d l j o) l j = some o := by
  have h : ∀ t : Tab OpSlot, tput t j o ≠ [] := by
    intro t; cases t with
    | nil => simp [tput]
    | cons e r => unfold tput; split <;> (try split) <;> simp
  have hn : ({ getEng d l with ops := tput (getEng d l).ops j o } : Engine) ≠ .init :=
    fun e => h _ (congrArg Engine.ops e)
  have : getEng (putOp d l j o) l = { getEng d l with ops := tput (getEng d l).ops j o } := getEng_setEng d l hn
  unfold getOp
  rw [this]; exact tget_tput_self _ _ _

theorem mapCached_en (d : Dyn) (evt : Bool) (key : Nat) (v : W32) : (mapCached d evt key v).en = d.en := rfl

theorem readMapLine_en (k : Cfg) (d : Dyn) (evt : Bool) (line : Nat) : (readMapLine k d evt line).en = d.en := by
  unfold readMapLine busReadOn
  dsimp only
  split <;> rfl

/-- A lookup leaves the engines alone. -/
theorem mapLookup_en (k : Cfg) (evt : Bool) (d : Dyn) (key : Nat) : (mapLookup k evt d key).2.en = d.en := by
  unfold mapLookup
  split
  · rfl
  · split
    · rfl
    · dsimp only; split
      · rfl
      · exact readMapLine_en _ _ _ _

end Sys2Proof.Machine
end

