-- ==== Sys2Proof/Laws/Window.lean ====
section
/-! SUPPORT. Offsets of the host window: which register an aligned write of a context's page or of a ring's block reaches (Tables 13.1, 13.16). -/
namespace Sys2Proof.Machine

theorem ctxOff_eq {c : Nat} (hc : c < 64) (o : Nat) : ctxOff c o = 0x10000 + 0x1000 * c + o := by simp [ctxOff, hc]

theorem ringOff_eq {c r : Nat} (hc : c < 64) (hr : r < 6) (o : Nat) :
    ringOff c r o = 0x10000 + 0x1000 * c + (0x100 + 0x40 * r + o) := by simp [ringOff, hr, ctxOff_eq hc]

theorem page_off {c o : Nat} (hc : c < 64) (ho : o < 0x1000) :
    inPages (0x10000 + 0x1000 * c + o) = true ∧ pageOf (0x10000 + 0x1000 * c + o) = c ∧ inPage (0x10000 + 0x1000 * c + o) = o := by
  refine ⟨?_, ?_, ?_⟩
  · simp [inPages]; omega
  · simp only [pageOf]; omega
  · simp only [inPage]; omega

theorem ring_is32 {r o : Nat} (hr : r < 6) (ho : o = 0x08 ∨ o = 0x14 ∨ o = 0x18) :
    0x100 + 0x40 * r + o < 0x1000 ∧ isRingBase (0x100 + 0x40 * r + o) = false ∧ 0x100 + 0x40 * r + o ≠ 0x10 ∧
      0x100 + 0x40 * r + o ≠ 0x30 ∧ (0x100 + 0x40 * r + o - 0x100) / 0x40 = r ∧ (0x100 + 0x40 * r + o) % 0x40 = o := by
  refine ⟨by omega, ?_, by omega, by omega, by omega, by omega⟩
  simp [isRingBase]; omega

/-- A 32-bit write of a ring's CFG, TAIL or STAT reaches that register. -/
theorem applyWrite_ring {c r o : Nat} (hc : c < 64) (hr : r < 6) (ho : o = 0x08 ∨ o = 0x14 ∨ o = 0x18) (b : Block) (v : W64) :
    applyWrite b (ringOff c r o) 4 v = onD b (writeCtx32 c (0x100 + 0x40 * r + o) (v.toNat % p32)) := by
  obtain ⟨h1, h2, h3, h4, -, -⟩ := ring_is32 hr ho
  obtain ⟨p1, p2, p3⟩ := page_off hc h1
  rw [ringOff_eq hc hr]
  have e1 : is64 b.cfg (0x10000 + 0x1000 * c + (0x100 + 0x40 * r + o)) = false := by
    simp [is64, p1, p3, h2, h3, h4]
  have e2 : ((0x10000 + 0x1000 * c + (0x100 + 0x40 * r + o)) % 8 = 4 ∧
      is64 b.cfg (0x10000 + 0x1000 * c + (0x100 + 0x40 * r + o) - 4) = true) → False := by
    rintro ⟨h, h'⟩
    have ho' : o = 0x14 := by omega
    subst ho'
    have q : 0x10000 + 0x1000 * c + (0x100 + 0x40 * r + 0x14) - 4 = 0x10000 + 0x1000 * c + (0x100 + 0x40 * r + 0x10) := by omega
    rw [q] at h'
    obtain ⟨q1, q2, q3⟩ := page_off (o := 0x100 + 0x40 * r + 0x10) hc (by omega)
    simp [is64, q1, q3, isRingBase] at h'
    omega
  have e3 : ((0x10000 + 0x1000 * c + (0x100 + 0x40 * r + o)) % 8 == 4 &&
      is64 b.cfg (0x10000 + 0x1000 * c + (0x100 + 0x40 * r + o) - 4)) = false := by
    rw [Bool.eq_false_iff]; intro h; simp at h; exact e2 h
  simp only [applyWrite, e1, write32, p1, p2, p3]
  simp only [show (4 : Nat) ≠ 8 by decide, if_false, Bool.false_eq_true, if_true]
  rw [if_neg]
  intro h
  simp only [Bool.and_eq_true, decide_eq_true_eq] at h
  exact e2 h

theorem write_ring {c r o : Nat} (hr : r < 6) (ho : o = 0x08 ∨ o = 0x14 ∨ o = 0x18) (v : Nat) (k : Cfg) (d : Dyn)
    (h : (getCtx d c).isOpen = true) :
    writeCtx32 c (0x100 + 0x40 * r + o) v k d = writeRing32 c r o v k d := by
  obtain ⟨h1, -, -, -, h5, h6⟩ := ring_is32 hr ho
  unfold writeCtx32
  rw [if_neg (by simp; omega), if_neg (by omega), if_neg (by simp [h]), if_pos (by simp; omega), h5, h6]

/-- A 32-bit write of a context's CPL_CFG, CPL_HEAD or MBOX doorbell reaches that register. -/
theorem applyWrite_ctx {c o : Nat} (hc : c < 64) (ho : o = 0x18 ∨ o = 0x20 ∨ o = 0x40) (b : Block) (v : W64) :
    applyWrite b (ctxOff c o) 4 v = onD b (writeCtx32 c o (v.toNat % p32)) := by
  have h1 : o < 0x1000 := by omega
  obtain ⟨p1, p2, p3⟩ := page_off hc h1
  rw [ctxOff_eq hc]
  have e1 : is64 b.cfg (0x10000 + 0x1000 * c + o) = false := by
    simp [is64, p1, p3, isRingBase]; omega
  simp only [applyWrite, e1, write32, p1, p2, p3]
  simp only [show (4 : Nat) ≠ 8 by decide, if_false, Bool.false_eq_true, if_true]
  rw [if_neg]
  intro h
  simp only [Bool.and_eq_true, decide_eq_true_eq] at h
  omega

/-- A 64-bit write of CTX_CPL_BASE. -/
theorem applyWrite_cplBase {c : Nat} (hc : c < 64) (b : Block) (v : W64) :
    applyWrite b (ctxOff c 0x10) 8 v = onD b (cplRingConfig c true v) := by
  obtain ⟨p1, p2, p3⟩ := page_off hc (show 0x10 < 0x1000 by decide)
  rw [ctxOff_eq hc]
  simp [applyWrite, is64, write64, p1, p2, p3]

/-- A 64-bit write of CTX_CANCEL. -/
theorem applyWrite_cancel {c : Nat} (hc : c < 64) (b : Block) (v : W64) :
    applyWrite b (ctxOff c 0x30) 8 v = onD b (ctxCancel c v) := by
  obtain ⟨p1, p2, p3⟩ := page_off hc (show 0x30 < 0x1000 by decide)
  rw [ctxOff_eq hc]
  simp [applyWrite, is64, write64, p1, p2, p3]

theorem aligned_ring {c r o : Nat} (hc : c < 64) (hr : r < 6) (ho : o = 0x08 ∨ o = 0x14 ∨ o = 0x18) :
    aligned (ringOff c r o) 4 = true := by
  rw [ringOff_eq hc hr]; simp [aligned]; omega

theorem aligned_ctx {c o : Nat} (hc : c < 64) (ho : o = 0x18 ∨ o = 0x20 ∨ o = 0x40) : aligned (ctxOff c o) 4 = true := by
  rw [ctxOff_eq hc]; simp [aligned]; omega

theorem aligned_ctx64 {c o : Nat} (hc : c < 64) (ho : o = 0x10 ∨ o = 0x30) : aligned (ctxOff c o) 8 = true := by
  rw [ctxOff_eq hc]; simp [aligned]; omega

theorem waitsReplay_32 (d : Dyn) (off : Nat) (v : W64) : waitsReplay d (.write off 4 v) = false := by simp [waitsReplay]

theorem waitsReplay_global (d : Dyn) (off size : Nat) (v : W64) (h : inPages off = false) : waitsReplay d (.write off size v) = false := by
  simp [waitsReplay, h]

theorem w32_ofHost (v : W32) : w32 ((BitVec.setWidth 64 v).toNat % p32) = v := by
  apply BitVec.eq_of_toNat_eq
  have := v.isLt
  simp only [w32, p32, BitVec.toNat_ofNat, BitVec.toNat_setWidth]; omega

theorem servedBlock_onD (s : State) (f : Cfg → Dyn → Dyn) : s.servedBlock (onD s.block f) = s.served (f s.m.cfg s.fresh) := rfl

theorem servedBlock_block (s : State) : s.servedBlock s.block = s.served s.fresh := rfl

/-- A 32-bit host write of a 32-bit register of the global page. -/
theorem hostWrite_global32 {s : State} (hs : s.hostOpen) {off : Nat} (v : W64) (al : aligned off 4 = true) (h0 : inPages off = false)
    (h1 : is64 s.m.cfg off = false) (h2 : off % 8 = 4 → is64 s.m.cfg (off - 4) = false) :
    hostWrite off 4 v s = .next (s.servedBlock (writeGlobal32 s.block off (v.toNat % p32))) := by
  have h1' : is64 s.block.cfg off = false := h1
  have h2' : off % 8 = 4 → is64 s.block.cfg (off - 4) = false := h2
  rw [hostWrite_open hs al (waitsReplay_32 ..)]
  simp only [applyWrite, h1', write32, h0]
  rw [if_neg (by decide), if_neg (by simp), if_neg (by simpa using h2'), if_neg (by simp)]

/-- A 64-bit host write of a 64-bit register of the global page. -/
theorem hostWrite_global64 {s : State} (hs : s.hostOpen) {off : Nat} (v : W64) (al : aligned off 8 = true) (h0 : inPages off = false)
    (h1 : is64 s.m.cfg off = true) : hostWrite off 8 v s = .next (s.servedBlock (write64 s.block off v)) := by
  have h1' : is64 s.block.cfg off = true := h1
  rw [hostWrite_open hs al (waitsReplay_global _ _ _ _ h0)]
  simp only [applyWrite, h1', if_true]

end Sys2Proof.Machine
end

