-- ==== Sys2Proof/Tests/Slice0.lean ====
section
/-! SUPPORT. The author's own tests: ill-formed commands that `Instr.wf` refuses, worked examples of the spec, and for every
statement with hypotheses a concrete state and operands that meet them. -/
namespace Sys2Proof.Tests
open Sys2Proof Sys2Proof.Machine

set_option Elab.async false

/-! ### Ill-formed commands -/

def ok0 : List Hit := []
def bad0 : List Hit := [{ word := .node 1048576, res := .clean }]

theorem test_wf_refuses_numbers : [Instr.nop 64, .cplHeadWrite 64 0, .waitEvent 64 ok0, .recordEventApply 0 6 ok0, .stopReq 0 6,
    .ringDoorbell 0 6 0, .graphImageRead 4096, .chainPreset 16 0, .counterRead 0x400 5 0, .registerWrite (.host 0) 2 0,
    .registerWrite (.dcp 0) 3 0, .registerRead (.host 0) 1 ⟨0, ok0⟩, .routeConfigWrite 0x100 0, .startScan 1024, .dec 64 ok0, .readyEntryEnter 64,
    .scrubRead false 64 0 .clean, .scrubRead true 0 16384 .clean, .edgeWalk 64 ok0, .descriptorFill 100 false, .placement (.region 16) ok0, .childLaunch 1048576,
    .packetNotice 65536, .release 65536 0 0 0, .release 0 4 0 0, .send 0 ⟨1, 0⟩ 0 0 0, .send 0 ⟨0, 4⟩ 0 0 0, .recv 0 0 8 0 ok0, .raise 0 4 0 0 ok0,
    .take 65536 0 0 0 0 ok0, .crCommit 0 0 4096 0 ok0, .crWait 0 0 4096 0 0 ok0, .recvTimeout 0 8, .resultDelivery 1024 0,
    .tokenScore 1024 0, .tokenScore 0 8, .tileBlockAck 0 8 0, .gazetteerLookup 1048575 1 ok0, .stagingSlotTake 1048576,
    .rebase (.signal 8192), .rebase (.creg 4096), .muBankFallow ⟨0, 8⟩ 0, .fallowAccess 4096 0 0 (.packet 0), .fallowAccess 0 0 0 (.stat 1048576),
    .pwrGateAck (.mu 0 8), .linkFrame 32 0].all (fun x => !x.wf) = true := by decide

theorem test_wf_refuses_hit_words : [Stored.node 1048576, .edge 4194304, .descriptor 1, .trace 131072, .event 262144, .gaz 1048576,
    .entry 0 1024, .token 65536 0 0, .token 0 8 0, .token 0 0 8, .signal 8192, .creg 4096, .tag 1024 0, .tag 0 65536, .ring 64,
    .mapLine true 262144, .sram 32768].all (fun w => !Hit.wf { word := w, res := .clean }) = true := by decide

theorem test_wf_refuses_hits : [Instr.waitEvent 0 bad0, .signal 0 bad0, .recordEventApply 0 0 bad0, .ringFetchRead bad0, .dec 0 bad0,
    .edgeWalk 0 bad0, .placement .root bad0, .recv 0 0 0 0 bad0, .raise 0 0 0 0 bad0, .take 0 0 0 0 0 bad0, .crDrain 0 0 0 0 bad0,
    .crWait 0 0 0 0 0 bad0, .gazetteerLookup 0 0 bad0, .registerRead (.dcp 0) 4 ⟨0, bad0⟩].all (fun x => !x.wf) = true := by decide

/-! ### A small running block -/

/-- One region, three site units (a CU with a THREAD engine at leaf 0, an MU with a NEAR engine at leaf 32) and one edge unit (a DMA engine at leaf 2304). -/
def chip : BootCfg :=
  { BootCfg.none with nReg := 1, nSite := 3, nEdge := 1, slots := [(0, 0x80), (32, 0x84), (2304, 0x85)], surveySize := 4096,
                      muFallow := 0xFF, cbIdle := 1, links := [(0, 0)] }

def srv : State :=
  { pending := [], m := { cfg := { Cfg.reset .sparax2304 with phase := .booted, bootDone := true, dcpRun := true, fwver := 1,
                                                              boot := chip },
                          d := .reset } }

/-- The small block with its running side changed. -/
def on (f : Dyn → Dyn) : State := { srv with m := { srv.m with d := f .reset } }

/-- A state with its configuration side changed. -/
def cfgd (f : Cfg → Cfg) (s : State) : State := { s with m := { s.m with cfg := f s.m.cfg } }

theorem on_serving (f : Dyn → Dyn) : (on f).serving := rfl
theorem on_firmware (f : Dyn → Dyn) : (on f).firmware := ⟨rfl, rfl⟩
theorem clean_nil : Clean [] := fun _ h => nomatch h

def idOf (c : Nat) : CmdId := { c := c, r := 0, dseq := 0 }
/-- A request of context `c` with operand bytes 63 to 16 as a number. -/
def rq (c op ops : Nat) : Req := { id := idOf c, svc := false, op := op, ops := BitVec.ofNat 384 ops, held := false }
/-- The small block with these requests in its launch table. -/
def asks (qs : List Req) (f : Dyn → Dyn := id) : State := on (fun d => f { d with lt := { d.lt with reqs := qs } })

/-! ### The step and the gates -/

theorem witness_StepRunsFrontCommand : ({ srv with pending := [.nop 0, .inspect] } : State).pending = .nop 0 :: [.inspect] := rfl
theorem witness_IdleStepIsOneCycle : State.reset.pending = [] := rfl
theorem witness_NothingServedOutsideService : IsServed (.nop 0) ∧ State.reset.m.cfg.serving = false := ⟨trivial, rfl⟩

/-! ### Commands of the submission rings -/

/-- The small block with one SET_MODE waiting, of the field CBLK. -/
def modeReq (v : W32) : ModeReq := { id := idOf 0, mode := v, mask := 0xF0 }
def moding (v : W32) : State := on (fun d => { d with ls := { d.ls with modes := [modeReq v] } })

/-- A launch of graph 1 in slot 0 in this phase, with its one node at row 0. -/
def launch0 (p : LPhase) : Launch :=
  { id := idOf 0, svc := false, graph := 1, epoch := 0, epochOrd := 0, base := 0, nodes := 1, bases := zeroBases, seedidx := 0, wdigest := 0,
    idigest := 0, mode := 0, stepv := 0, ordinal := 0, phase := p, failed := none, instTs := 0, initSum := 0, applied := 0, touch := 0,
    touchPrev := 0, parent := none, relReserved := 0 }

theorem witness_ModeAndFenceCommands :
    ∀ x ∈ [(0, rq 1 0 0), (cFence, rq 1 cFence 1), (cMode, rq 1 cMode 0x80)], frontOp (asks [x.2]).fresh 1 x.1 = some x.2 := by
  decide +kernel

theorem witness_ModeAndFenceCommands_apply :
    (∀ n ∈ [0x80, 0x90], let v := w32 n
      let s := moding v
      s.m.d.ls.modes = [modeReq v] ∧ noLaunch s.fresh = true ∧ lateStart s.m.cfg s.fresh (modeReq v) = false ∧
      rpRoom s.fresh 1 false = true ∧
      modeRefused s.m.cfg { s.fresh with ls := { s.m.d.ls with modes := [] } } (modeReq v) = if n = 0x80 then none else some .badDescriptor) := by decide +kernel

theorem witness_ModeAndFenceCommands_late :
    (let m : ModeReq := { id := idOf 0, mode := 1, mask := 1 }
     let s := cfgd (fun k => { k with replayEn := true, replayLog2 := 10 }) (on (fun d => { d with ls := { d.ls with modes := [m] } }))
     lateStart s.m.cfg s.fresh m = true ∧ rpFits s.fresh 1 false = true ∧ noLaunch s.fresh = true) := by decide +kernel

theorem witness_ModeAndFenceCommands_waits :
    noLaunch (on (fun d => { d with ls := { d.ls with slots := [(0, launch0 .running)] } })).fresh = false := by decide +kernel

/-- A resident graph of one JOIN node. -/
def joinDesc : Desc := { w0 := 0x0A, w1 := 0, w2 := 0, w3 := 0 }
def oneJoin : Graph :=
  { Graph.loading (idOf 0) 0 7 false with st := .resident, nNodes := 1, descs := [joinDesc], load := none,
                                          epochs := [{ num := 0, ord := 0, relCount := 0 }] }
/-- The small block with graph 1 resident. -/
def withGraph (d : Dyn) : Dyn := putGraph d 1 oneJoin

/-- A graph image of one JOIN node: the header and the body. -/
def imgHdr : List Byte :=
  leBytes 4 0x47464E44 ++ leBytes 4 3 ++ leBytes 4 1 ++ leBytes 4 0 ++ leBytes 8 128 ++ leBytes 8 256 ++ leBytes 8 7 ++ leBytes 8 256
    ++ leBytes 16 0
def imgBody : List Byte := List.replicate 64 0 ++ leBytes 128 0x0A

def readJob (use : RdUse) (data : Option (List Byte)) (err : Bool) : RdJob :=
  { tag := 0, shown := true, port := .host, addr := 0, len := 64, use := use, data := data, err := err }

/-- Graph 2 being loaded, or graph 1 being patched, with these bytes of the image read. -/
def reading (load : Bool) (header : Bool) (bytes : List Byte) (bad : Bool) : State :=
  let x : ImageLoad := { ImageLoad.start (idOf 0) 0 bytes.length with bytes := bytes, header := header, bad := bad }
  on (fun d => putGraph d 2 (if load then { Graph.loading (idOf 0) 0 7 false with load := some x } else { oneJoin with patch := some x }))
/-- The header of a patch of `n` entries. -/
def patchHdr (n : Nat) : List Byte := leBytes 4 0x48504E44 ++ leBytes 4 3 ++ leBytes 4 n ++ leBytes 4 0

theorem witness_GraphCommands :
    (∀ q ∈ [rq 0 cLoad 1, rq 0 cLoad 2, rq 0 cUnload 1, rq 0 cUnload 2, rq 0 cPatch 1, rq 0 cPatch 2], let s := asks [q] withGraph
      frontOp s.fresh 0 q.op = some q ∧ gidOf q.ops = q.ops.toNat % 4096) ∧
    (let s := asks [] withGraph
     tget s.m.d.gs.graphs 1 = some oneJoin ∧ tget s.m.d.gs.graphs 2 = none ∧
     oneJoin.st = .resident ∧ oneJoin.epochs.length < 4 ∧ oneJoin.patch = none) ∧
    (let g := { oneJoin with patch := some (ImageLoad.start (idOf 1) 0 16) }
     ∀ op ∈ [cUnload, cPatch], let s := asks [rq 0 op 1] (fun d => putGraph d 1 g)
     frontOp s.fresh 0 op = some (rq 0 op 1) ∧ tget s.m.d.gs.graphs 1 = some g ∧ g.patch.isSome = true) := by decide +kernel

theorem witness_GraphCommands_read :
    (∀ bytes ∈ [imgHdr, List.replicate 64 0], ∀ bad : Bool, let s := reading true true bytes bad
      ((tget s.m.d.gs.graphs 2).bind (·.load)).any (fun x => x.ready && x.bad == bad && x.header) = true ∧
      graphHeaderOk (bytes.take 64) = (bytes == imgHdr)) ∧
    (∀ last ∈ [0x0A, 0xFF], let s := reading true false (imgHdr ++ List.replicate 64 0 ++ leBytes 128 last) false
      ((tget s.m.d.gs.graphs 2).bind (·.load)).any (fun x => x.ready && !x.bad && !x.header
        && imageOk s.m.cfg (rpImg s.fresh x.id (digBytes x.bytes)) false (imageDescs (x.bytes.take 64) (x.bytes.drop 64))
          (imageEdges (x.bytes.take 64) (x.bytes.drop 64)) == (last == 0x0A)) = true) ∧
    (∀ bytes ∈ [patchHdr 0, patchHdr 1, leBytes 16 0], ∀ header bad : Bool, let s := reading false header bytes bad
      ((tget s.m.d.gs.graphs 2).any (fun g => g.load.isNone && g.patch.any (fun x => x.ready && x.bad == bad && x.header == header))) = true ∧
      leAt bytes 8 4 ≤ 65536) := by decide +kernel

/-- A launch request meets a resident graph, and an absent one. -/
def launching (gid : Nat) : State := asks [rq 0 cLaunch gid] withGraph

theorem witness_LaunchTaken :
    (∀ gid ∈ [1, 2], let s := launching gid
      frontOp s.fresh 0 cLaunch = some (rq 0 cLaunch gid) ∧ launchesHeld s.m.cfg s.fresh = false ∧
      takesLaunch s.m.cfg s.fresh (rq 0 cLaunch gid) = true ∧ rpRoom s.fresh 1 false = true ∧ listsOpen s.m.cfg s.fresh = true) ∧
    tget (launching 2).m.d.gs.graphs 2 = none ∧ launchesHeld srv.m.cfg (moding 0x80).fresh = true ∧
    (∀ g ∈ [{ oneJoin with damaged := true }, { oneJoin with racing := true }, { oneJoin with epochs := [] }],
      let s := cfgd (fun k => { k with det := g.racing }) (asks [rq 0 cLaunch 1] (fun d => putGraph d 1 g))
      frontOp s.fresh 0 cLaunch = some (rq 0 cLaunch 1) ∧ tget s.m.d.gs.graphs 1 = some g ∧ g.st = .resident ∧
      listsOpen s.m.cfg s.fresh = true ∧ pinEpoch g (wantLaunch (rq 0 cLaunch 1)) = g.newest) := by decide +kernel

/-- A result without its error. -/
def gives (r : Except NoTake α) : Bool := match r with
  | .ok _ => true
  | .error _ => false

theorem witness_LaunchTaken_admitted :
    gives (admitLaunch (launching 1).m.cfg (launching 1).fresh (wantLaunch (rq 0 cLaunch 1))) = true := by decide +kernel

theorem witness_LaunchTaken_waits :
    let s := asks [rq 0 cLaunch 1] (fun d =>
      { withGraph d with ls := { d.ls with slots := [(0, { launch0 .running with nodes := 1048576 })] } })
    (match admitLaunch s.m.cfg s.fresh (wantLaunch (rq 0 cLaunch 1)) with
     | .error x => x == .waits
     | .ok _ => false) = true := by decide +kernel

/-- A command of context `c` that has been taken. -/
def cmd (c op ops : Nat) (st : CmdStage) : Cmd :=
  { seq := 0, id := idOf c, op := op, irq := false, userdata := 0, ops := BitVec.ofNat 384 ops, consumed := 0, stage := st }

def withCmds (xs : List Cmd) (d : Dyn) : Dyn := { d with fe := { d.fe with cmds := xs } }

/-- Identifier 0 of context 0 is mapped to event 262143, and to signal 8191; identifier 1 has no mapping, identifier 16 has not been read. -/
def mapped (d : Dyn) : Dyn :=
  { d with sg := { d.sg with emap := [(0, 0x8003FFFF)], map := [(0, 0x80001FFF)],
                             ecache := [(0, 0x8003FFFF), (1, 0)], cache := [(0, 0x80001FFF), (1, 0)] } }

/-- Requests of context 0 beside these taken commands of it. -/
def eventful (qs : List Req) (xs : List Cmd) : State := asks qs (fun d => { withCmds xs (mapped d) with ts := 5000 })

theorem witness_EventCommands :
    (∀ x ∈ [(0, some 262143), (1, none)], ∀ op ∈ [cRecord, cWait], let s := eventful [rq 0 op x.1] []
      frontOp s.fresh 0 op = some (rq 0 op x.1) ∧ (mapLookup s.m.cfg true s.fresh (mapKey 0 x.1)).1.map evtOf = some x.2 ∧
      (recordsOf s.fresh 0 0).length < 64) ∧
    (∀ op ∈ [cRecord, cWait], let s := eventful [rq 0 op 16] []
      frontOp s.fresh 0 op = some (rq 0 op 16) ∧ (mapLookup s.m.cfg true s.fresh (mapKey 0 16)).1 = none) ∧
    64 ≤ (recordsOf (eventful [] (List.replicate 64 (cmd 0 cRecord 0 .record))).fresh 0 0).length ∧
    (∀ id ∈ [0, 1], let x := cmd 0 cRecord id .record
      let s := eventful [] [x]
      minBy Cmd.seq (recordsOf s.fresh 0 0) = some x ∧ firstOfRing s.fresh x = true ∧ 262143 ∉ s.m.d.sg.evEcc ∧
      eventOf s.fresh 0 x.event = if id = 0 then some 262143 else none) ∧
    (let x := { cmd 0 cRecord 0 .record with seq := 1 }
     let s := eventful [] [cmd 0 cLaunch 1 .running, x]
     minBy Cmd.seq (recordsOf s.fresh 0 0) = some x ∧ firstOfRing s.fresh x = false) ∧
    262143 ∈ ({ (eventful [] []).m.d with sg := { (eventful [] []).m.d.sg with evEcc := [262143] } } : Dyn).sg.evEcc := by decide +kernel

theorem witness_EventCommands_timeout :
    (∀ onto : Bool, let x := cmd 0 cWait 0 (.wait 5 onto 1 0)
      let s := eventful [] [x]
      ringWaiter s.fresh 0 0 = some x ∧ eventOf s.fresh 0 x.event = some 262143) ∧
    ringWaiter (eventful [] [cmd 0 cWait 0 (.wait 6 true 1 0)]).fresh 0 0 = none := by decide +kernel

/-- Signal 8191 stands at 2^32 - 2 raised and none taken. -/
def nearlyFull (d : Dyn) : Dyn :=
  { mapped d with sg := { (mapped d).sg with ctrs := [(8191, { Sig.init with raised := 0xFFFFFFFE })] } }

/-- SIGNAL of `n` raises of an identifier. -/
def signalReq (id n : Nat) : Req := rq 0 cSignal (id + n <<< 16)

theorem witness_SignalCommand :
    (∀ n ∈ [0, 1, 2], let s := asks [signalReq 0 n] nearlyFull
      frontOp s.fresh 0 cSignal = some (signalReq 0 n) ∧ unitWaits s.fresh 0x10 (rootUnit 7) = false ∧
      opn (signalReq 0 n).ops 16 2 = 0 ∧ opn (signalReq 0 n).ops 18 2 = n ∧
      (mapLookup s.m.cfg false s.fresh (mapKey 0 0)).1.map sigOf = some (some 8191) ∧
      (let d := (mapLookup s.m.cfg false s.fresh (mapKey 0 0)).2
       rebasing d (.signal 8191) = false ∧ (getSig d 8191).ecc = false ∧
       (2 ^ 32 ≤ dist32 (getSig d 8191).taken (getSig d 8191).raised + n ↔ n = 2))) ∧
    (∀ x ∈ [(1, some none), (16, none)], let s := asks [signalReq x.1 1] nearlyFull
      frontOp s.fresh 0 cSignal = some (signalReq x.1 1) ∧ (mapLookup s.m.cfg false s.fresh (mapKey 0 x.1)).1.map sigOf = x.2) ∧
    (let s := asks [signalReq 0 1] (fun d => { nearlyFull d with sg := { (nearlyFull d).sg with rebases := [(.signal 8191, 1)] } })
     rebasing s.fresh (.signal 8191) = true) ∧
    (let s := asks [signalReq 0 1] (fun d => { nearlyFull d with sg := { (nearlyFull d).sg with ctrs := [(8191, { Sig.init with ecc := true })] } })
     (getSig s.fresh 8191).ecc = true) ∧
    unitWaits (on (fun d => { d with fs := { d.fs with waiting := [{ record := frec 0x10 .noRoute (rootUnit 7), outs := [], late := [] }] } })).fresh
      0x10 (rootUnit 7) = true := by decide +kernel

/-- WRITE_TABLE of the last multicast group from the image `b`, when it has been read. -/
def tableReq : Req := rq 0 cTable (1 + 1 <<< 16 + 1023 <<< 32)
def tabling (reads : List RdJob) : State := asks [tableReq] (fun d => { d with bus := { d.bus with reads := reads } })
def tableJob (data : Option (List Byte)) (err : Bool) : RdJob := readJob (.table (idOf 0)) data err

/-- Whether a table write is applied, and else the status and the index. -/
def applies : TRes → Option (Option (Status × Nat))
  | .ok _ => some none
  | .refuse st v => some (some (st, v))
  | .waits _ => none

theorem witness_TableWritten :
    (opn tableReq.ops 16 1 = 1 ∧ opn tableReq.ops 17 1 = 0 ∧ tableRange 1 (opn tableReq.ops 18 2) (opn tableReq.ops 20 4) = true ∧
     tableRange 1 1 1024 = false) ∧
    (∀ js ∈ [[], [tableJob none false], [tableJob (some (leBytes 4 16)) false], [tableJob (some (leBytes 4 16)) true]], let s := tabling js
      frontOp s.fresh 0 cTable = some tableReq ∧ tableDrains s.m.cfg s.fresh 1 = false ∧
      readDone s.fresh (.table tableReq.id) = js.find? (fun j => j.data.isSome)) ∧
    (∀ x ∈ [(16, some none), (0x80000000, some (some (.badDescriptor, 1023)))],
      applies (tableWrite srv.m.cfg (tabling [tableJob (some (leBytes 4 x.1)) false]).fresh 0 tableReq.ops (leBytes 4 x.1)) = x.2) ∧
    (let s := cfgd (fun k => { k with det := true }) (on (fun d => { d with ls := { d.ls with slots := [(0, launch0 .running)] } }))
     tableDrains s.m.cfg s.fresh 1 = true) := by decide +kernel

/-- A legal service block: rings of 16 entries at 4096 and 8192, one batch slot. -/
def svcBytes : List Byte :=
  leBytes 8 0 ++ leBytes 8 4096 ++ leBytes 2 0 ++ leBytes 1 4 ++ leBytes 1 4 ++ leBytes 4 1 ++ leBytes 8 8192 ++ leBytes 32 0

def starting (q : Req) (reads : List RdJob) : State :=
  asks [q] (fun d => { withGraph d with bus := { d.bus with reads := reads } })

/-- A service runs in context 0 with graph 1. -/
def serviced (f : Service → Service) (d : Dyn) : Dyn :=
  { withGraph d with sv := f { Service.none with run := true, gid := 1, block := BitVec.ofNat 512 (leNat svcBytes) } }

theorem witness_ServiceStartStop :
    (∀ gid ∈ [1, 2], frontOp (starting (rq 0 cSvcStart gid) []).fresh 0 cSvcStart = some (rq 0 cSvcStart gid)) ∧
    tget (starting (rq 0 cSvcStart 2) []).m.d.gs.graphs 2 = none ∧
    (let s := starting (rq 0 cSvcStart 1) []
     tget s.m.d.gs.graphs (gidOf (rq 0 cSvcStart 1).ops) = some oneJoin ∧ oneJoin.st = .resident ∧ s.m.d.sv.run = false ∧
     (s.m.cfg.det && oneJoin.racing) = false ∧ (∀ j ∈ s.m.d.bus.reads, j.use ≠ .svcBlock (idOf 0))) ∧
    (∀ b ∈ [svcBytes, List.replicate 64 0], ∀ err : Bool, let s := starting (rq 0 cSvcStart 1) [readJob (.svcBlock (idOf 0)) (some b) err]
      frontOp s.fresh 0 cSvcStart = some (rq 0 cSvcStart 1) ∧
      (readDone s.fresh (.svcBlock (idOf 0))).any (fun j => j.err == err && j.data == some b) = true ∧ rpRoom s.fresh 1 false = true ∧
      svcBlockOk (BitVec.ofNat 512 (leNat b)) = (b == svcBytes)) ∧
    frontOp (starting (rq 0 cSvcStop 0) []).fresh 0 cSvcStop = some (rq 0 cSvcStop 0) ∧
    (let s := asks [rq 0 cSvcStop 0] (serviced id)
     frontOp s.fresh 0 cSvcStop = some (rq 0 cSvcStop 0) ∧ s.m.d.sv.run = true) := by decide +kernel

/-! ### Rings, completions and interrupts -/

/-- An enabled ring of 16 entries that is active, with its indices. -/
def ring (f : Ring → Ring) : Ring := f { Ring.init with en := true, gen := true, log2 := 4, st := .active }

/-- Context 0 open with this ring 0 and a completion ring of 16 entries. -/
def withCtx (f : Ctx → Ctx) (g : Ring) (d : Dyn) : Dyn :=
  setCtx d 0 (f { Ctx.init with isOpen := true, rev := 2, cplEn := true, cplLog2 := 4, rings := [(0, g)] })

def ringing (g : Ring) : State := on (withCtx id g)

theorem witness_RingEntriesFetched :
    (∀ g ∈ [ring (fun g => { g with snap := 1, tail := 1 }), ring id, ring (fun g => { g with tail := 16 }),
            ring (fun g => { g with pendingDb := true })],
      (ringing g).m.cfg.fetches = true ∧ ringReads (ringing g).fresh < 16 ∧ chooseRing (ringing g).fresh ringCount 0 = some (0, 0)) := by
  decide +kernel

/-- Entries of 64 bytes: a NOP, an undefined OPCODE, and a NOP whose DSEQ is wrong. -/
def nopEntry : List Byte := leBytes 6 0 ++ leBytes 1 2 ++ leBytes 57 0
def oddEntry : List Byte := leBytes 4 0 ++ leBytes 2 0x3F ++ leBytes 1 2 ++ leBytes 57 0
def lateEntry : List Byte := leBytes 6 1 ++ leBytes 1 2 ++ leBytes 57 0
def fenceEntry : List Byte := leBytes 4 0 ++ leBytes 2 cFence ++ leBytes 1 2 ++ leBytes 57 0
def fetched (b : List Byte) (f : Dyn → Dyn := id) : State :=
  on (fun d =>
    let d := withCtx id (ring (fun g => { g with tail := 1, snap := 1, fetch := some { tag := none, left := [b] } })) d
    f { d with fe := { d.fe with order := [(0, 0)] } })

theorem witness_RingEntriesFetched_taken :
    (∀ b ∈ [nopEntry, oddEntry, lateEntry, fenceEntry], let s := fetched b
      turn s.fresh = some (0, 0) ∧ (getRing s.m.d 0 0).fetch = some { tag := none, left := [b] } ∧ reqRoom s.fresh = true ∧
      rpRoom s.fresh 3 false = true) ∧
    (∀ x ∈ [(nopEntry, 0, false, false), (oddEntry, 0, true, false), (lateEntry, 1, false, false), (fenceEntry, 0, false, true)],
      let e := Entry.ofBytes true x.1
      e.dseq = w32 x.2.1 ∧ (!e.formOk || cmdRefused srv.m.cfg 0 true 2 e.op e.ops) = x.2.2.1 ∧ startsLog srv.m.cfg srv.fresh e = false ∧
      holdsRing e.op = x.2.2.2) ∧
    (let s := fetched nopEntry (fun d => { d with rp := { d.rp with recording := true, stage := [{ slots := List.replicate 238 0, img := none, glob := false }] } })
     turn s.fresh = some (0, 0) ∧ rpRoom s.fresh 3 false = false) ∧
    turn (ringing (ring id)).fresh ≠ some (0, 0) := by decide +kernel

def ret (c kind : Nat) : Ret := { cmdRet (idOf c) cFence .ok 0 with kind := kind }
def writeJob (use : WrUse) : WrJob := { tag := 0, port := .host, addr := 0, data := List.replicate 32 0, use := use }

/-- Context 0 with a completion ring that has one free entry, these commands, returns and writes. -/
def completing (xs : List Cmd) (rs : List Ret) (ws : List WrJob) : State :=
  on (fun d => { withCmds xs (withCtx (fun x => { x with cplNext := 15, irq := 0x1000, irqPend := 1 }) (ring id) d) with
    lt := { d.lt with rets := rs }, bus := { d.bus with writes := ws } })

theorem witness_CompletionRing :
    (let s := completing [cmd 0 0x3F 0 .refused] [] []
     cplRoom s.fresh 0 = true ∧ (∀ p ∈ s.m.d.fe.posts, p.1 ≠ 0) ∧
     minBy Cmd.seq (s.m.d.fe.cmds.filter (fun x => x.id.c = 0 && x.stage == .refused)) = some (cmd 0 0x3F 0 .refused)) ∧
    (let s := completing [cmd 0 cFence 0 .returned] [ret 0 0] []
     cplRoom s.fresh 0 = true ∧ minBy Cmd.seq (s.m.d.fe.cmds.filter (fun x => x.id.c = 0 && x.stage == .refused)) = none ∧
     retFor s.fresh 0 = some (ret 0 0) ∧
     s.m.d.fe.cmds.find? (fun x => x.id = (ret 0 0).id && x.stage ≠ .refused) = some (cmd 0 cFence 0 .returned)) ∧
    (let s := completing [] [ret 0 0] []
     retFor s.fresh 0 = some (ret 0 0) ∧ s.m.d.fe.cmds.find? (fun x => x.id = (ret 0 0).id && x.stage ≠ .refused) = none) ∧
    (let s := completing [] [ret 0 1] [writeJob (.completion 0 (some 0) true none)]
     retFor s.fresh 0 = some (ret 0 1) ∧
     s.m.d.bus.writes.find? (isEntryOf 0) = some (writeJob (.completion 0 (some 0) true none)) ∧
     irqOn (getCtx s.m.d 0) = true ∧ 0 < (getCtx s.m.d 0).irqPend ∧ s.m.cfg.fwRuns = true ∧ (getCtx s.m.d 0).isOpen = true ∧
     irqHold (getCtx s.m.d 0) * 256 ≤ cyclesSince s.fresh (getCtx s.m.d 0).irqFrom) ∧
    (let s := on (withCtx (fun x => { x with irq := 0x01001000, irqPend := 1 }) (ring id))
     cyclesSince s.fresh (getCtx s.m.d 0).irqFrom < irqHold (getCtx s.m.d 0) * 256) ∧
    cplRoom (on (withCtx (fun x => { x with cplNext := 16 }) (ring id))).fresh 0 = false := by
  decide +kernel

theorem on_hostOpen (f : Dyn → Dyn) (h : (f .reset).held = []) (p : portBlocked (f .reset) = false) : (on f).hostOpen := ⟨rfl, h, p⟩

theorem witness_RingRegistersWritten :
    (∀ g ∈ [ring id, { Ring.init with gen := true }, { Ring.init with st := .active }, ring (fun g => { g with st := .stopped }),
            ring (fun g => { g with st := .stopped, stopFc := some 0 })],
      (ringing g).m.d.held = [] ∧ portBlocked (ringing g).m.d = false ∧ (getCtx (ringing g).m.d 0).isOpen = true ∧
      getRing (ringing g).m.d 0 0 = g) ∧
    (let g := ring id
     dist32 g.head 16 ≤ 2 ^ g.log2.toNat ∧ 2 ^ g.log2.toNat < dist32 g.head 17 ∧ g.en = true ∧ g.stopsNow 0 = false ∧
     ringStill srv.m.cfg g = false) ∧
    (let s := ringing { Ring.init with gen := true }
     (getRing s.m.d 0 0).en = false ∧ (getRing s.m.d 0 0).st = .disabled ∧ (getRing s.m.d 0 0).base.toNat % 4096 = 0 ∧
     (getCtx s.m.d 0).rev ≠ 1 ∧ (getCtx s.m.d 0).cplEn = true ∧ bits 0x104 0 5 = 4 ∧ bits 0x110 0 5 = 16) ∧
    (let g := ring (fun g => { g with st := .stopped })
     ringState srv.m.cfg g = .stopped ∧ ringStill srv.m.cfg g = true ∧ g.stopsNow 0 = false ∧ { g with stopFc := some 0 }.stopsNow 0 = true ∧
     ringState { srv.m.cfg with health := .drained } g = .held) := by decide +kernel

theorem witness_ContextRegistersWritten :
    (∀ en busy : Bool, let s := on (withCtx (fun x => { x with cplEn := en, mboxBusy := busy, cplTail := 1, cplNext := 1 }) (ring id))
      let x := getCtx s.m.d 0
      s.m.d.held = [] ∧ portBlocked s.m.d = false ∧ x.isOpen = true ∧ x.cplEn = en ∧ x.mboxBusy = busy ∧ x.cplBase.toNat % 4096 = 0 ∧
      dist32 x.cplHead 1 ≤ dist32 x.cplHead x.cplTail ∧ dist32 x.cplHead x.cplTail < dist32 x.cplHead 2 ∧ rpRoom s.fresh 1 false = true ∧
      s.m.d.lt.reqs = [] ∧ s.m.d.fe.cancels = []) ∧
    (getCtx (on (withCtx (fun x => { x with isOpen := false }) (ring id))).m.d 0).isOpen = false ∧
    bit 0x80000004 31 = true ∧ bits 0x80000004 0 5 = 4 ∧ bits 0x80000010 0 5 = 16 := by decide +kernel

/-- Context 0 with a message in its mailbox, and a closed context when `o` is false. -/
def mailed (o : Bool) (msg w1 : Nat) : State :=
  on (withCtx (fun x => { x with isOpen := o, mboxBusy := true, mboxIn := [(0, w32 msg), (1, w32 w1)] }) Ring.init)

theorem witness_MailboxAnswered :
    (takeMsg (mailed false 1 2).fresh 0 (fun m => m = 1)).any (fun d => !(getCtx d 0).isOpen && bits ((getCtx d 0).msgWord 1) 0 8 = 2) = true ∧
    (mailed false 1 2).m.cfg.health ≠ .flagged ∧
    (takeMsg (cfgd (fun k => { k with health := .flagged }) (mailed false 1 1)).fresh 0 (fun m => m = 1)).isSome = true ∧
    (takeMsg (mailed true 2 0).fresh 0 (fun m => m = 2)).any (fun d => let e := cancelCtx (stopRings d 0) 0
      !e.sv.run && ringsStill e 0 && ctxInflight e 0 = 0) = true ∧
    (takeMsg (mailed true 3 0).fresh 0 (fun m => m = 3)).isSome = true ∧
    (takeMsg (mailed true 4 0).fresh 0 (fun m => m = 4)).any (fun d => ringsStill (stopRings d 0) 0 && ctxInflight (stopRings d 0) 0 = 0) = true ∧
    (takeMsg (mailed true 5 0).fresh 0 (fun m => m = 0 || 5 ≤ m)).isSome = true := by decide +kernel

def withLaunch (l : Launch) (d : Dyn) : Dyn := { withGraph d with ls := { d.ls with slots := [(0, l)] } }

def popping (r : Ret) : State := on (fun d => { withLaunch (launch0 .returned) d with lt := { d.lt with rets := [r] } })

theorem witness_LaunchTablePort :
    (let r := { ret 0 0 with fe := true, slot := some 0 }
     let s := popping r
     reqRoom s.fresh = true ∧ s.m.d.lt.rets = [] ++ r :: [] ∧ r.popped = false ∧
     tget s.m.d.ls.slots 0 = some (launch0 .returned) ∧ (launch0 .returned).inFlight = false) ∧
    (let s := popping { ret 0 2 with popped := true }
     s.m.d.lt.rets = [{ ret 0 2 with popped := true }] ∧ (∀ x ∈ s.m.d.lt.rets, x.popped = true) ∧ 2 ≤ (ret 0 2).kind ∧ (ret 0 2).slot = none) := by
  decide +kernel

theorem witness_LaunchTablePort_full : reqRoom (asks (List.replicate 256 (rq 0 0 0))).fresh = false := by decide +kernel
/-! ### The host register window -/

theorem witness_PositionsWritten :
    (∀ held : Bool, let s := on (fun d => { d with ch := { d.ch with
        release := if held then [{ slot := 0, g := 0, task := 0, stream := 15, target := 1, found := none, fired := false }] else [] } })
      s.m.d.held = [] ∧ portBlocked s.m.d = false ∧ streamWatched s.fresh 15 = held ∧ rpRoom s.fresh 1 true = true ∧ s.m.d.sv.run = false) ∧
    (let s := on (serviced (fun v => { v with resTail := 2 }))
     s.m.d.held = [] ∧ portBlocked s.m.d = false ∧ s.m.d.sv.run = true ∧ dist32 s.m.d.sv.reqHead 16 ≤ 2 ^ s.m.d.sv.reqLog2 ∧
     dist32 s.m.d.sv.resHead 2 ≤ dist32 s.m.d.sv.resHead s.m.d.sv.resTail ∧
     dist32 s.m.d.sv.resHead s.m.d.sv.resTail < dist32 s.m.d.sv.resHead 3) ∧
    (let rp := { Dyn.reset.rp with tail := 32 }
     dist32 rp.head 32 ≤ dist32 rp.head rp.tail ∧ dist32 rp.head rp.tail < dist32 rp.head 33) ∧
    (let tr := { Dyn.reset.tr with spillTail := 32 }
     dist32 tr.spillHead (63 &&& ~~~31) ≤ dist32 tr.spillHead tr.spillTail ∧
     dist32 tr.spillHead tr.spillTail < dist32 tr.spillHead (64 &&& ~~~31)) := by decide +kernel

/-- A replay log whose staging buffer has no room for a record. -/
def logFull (d : Dyn) : Dyn :=
  { d with rp := { d.rp with recording := true, stage := [{ slots := List.replicate 256 0, img := none, glob := true }] } }

theorem witness_PositionsWritten_dropped :
    rpRoom (on logFull).fresh 1 true = false ∧ (let s := on (serviced id)
      2 ^ s.m.d.sv.reqLog2 < dist32 s.m.d.sv.reqHead 17) := by decide +kernel

/-- A ROUTE of layer 0 with four experts in slot 0, channel 0. -/
def layer0 : W256 := w256 (1 + 3 * 2 ^ 75)
def route0 : Route :=
  { slot := 0, chan := 0, g := 0, layer := layer0, batch := 2, tile := 16, outBase := 0, tokBase := 0, combq := 0, chunks := [], bufs := [],
    complete := [], scored0 := 0, scored1 := 0, rowsOut := 0, lists := [], looked := [], tiles := [], nextTile := 0, counts := [],
    tallyLeft := [], tallyOut := [] }
def routed (r : Route) (d : Dyn) : Dyn := { d with rt := { d.rt with routes := [r] } }

theorem witness_ConfigurationWritten :
    (let s := on (fun d => { d with lk := { d.lk with pendKey := some 5 } })
     s.m.d.held = [] ∧ portBlocked s.m.d = false ∧ s.m.d.lk.pendKey = some 5 ∧ crossOut s.m.cfg s.fresh = false ∧
     rpRoom s.fresh 1 true = true ∧ (s.m.d.fe.ctxs.any (fun c => c.2.isOpen)) = false ∧ routesBusy s.fresh = false) ∧
    ((ringing (ring id)).m.d.fe.ctxs.any (fun c => c.2.isOpen)) = true ∧ routesBusy (on (routed route0)).fresh = true ∧
    (cfgd (fun k => { k with det := true }) srv).m.cfg.det = true ∧
    (on (fun d => { d with rp := { d.rp with recording := true } })).m.d.rp.recording = true ∧
    (bit 0x0901 0 = true ∧ bits 0x0901 8 5 < 10 ∧ 24 < bits 0x1901 8 5 ∧ bits 0x0A01 8 5 = 10 ∧ bits 0x1801 8 5 = 24) ∧
    (srv.m.cfg.det = false ∧ srv.m.d.rp.recording = false ∧ srv.m.cfg.replayEn = false ∧ srv.m.cfg.boot.surveySize ≠ 0 ∧
     srv.m.cfg.health = .service) ∧
    (∀ h ∈ [Health.drained, .draining, .survey, .flagged], (cfgd (fun k => { k with health := h }) srv).m.cfg.health = h) ∧
    (cfgd (fun k => { k with boot := .none }) srv).m.cfg.boot.surveySize = 0 := by decide +kernel

theorem witness_RegistersReadAndWritten :
    srv.m.d.held = [] ∧ portBlocked srv.m.d = false ∧ aligned 0x7FFFC 4 = true ∧ aligned 0x7FFF8 8 = true ∧
    isCounter srv.m.cfg 0x278 = true ∧ inPages 0x278 = false ∧ 0x278 ≠ cBankSkew ∧ aligned 0x278 4 = true ∧ aligned 0x278 8 = true ∧
    waitsReplay srv.m.d (.write 0x104 4 1) = false ∧ aligned 0x50000 8 = true := by decide +kernel

theorem witness_RegistersReadAndWritten_dcp :
    srv.m.cfg.fwRuns = true ∧ dcpReaches 0x80000 4 = false ∧ dcpReaches 2 4 = false ∧ dcpReaches 0x7FFF8 8 = true ∧
    dcpReaches sysBase 8 = true ∧ dcpReaches 0x2100A004 4 = true ∧ dcpReaches 0x21008004 4 = true ∧ dcpReaches 0x21008004 2 = true ∧
    dcpReaches 0x20000000 8 = true ∧ summaryFull srv.fresh = false ∧
    (let h : Hit := { word := .sram 0x7FFF, res := .uncorrectable }
     [h].filter (fun h => h.word = .sram (0x7FFF8 / 16) && 0x7FFF8 < sramBytes) = [h]) := by decide +kernel

theorem witness_MisalignedAccessIgnored :
    srv.m.d.held = [] ∧ portBlocked srv.m.d = false ∧ aligned 0x102 4 = false ∧ aligned 0x104 8 = false ∧ aligned 0x100 2 = false ∧
    aligned 0x80000 4 = false := by decide +kernel

/-! ### Faults, health and the management plane -/

/-- A record of an uncorrectable word in counter bank 63, and a unit with two recent charged events. -/
def rec0 : FRec := { frec 0x02 .eccUncorr (bankUnit 63) with charge := true }
def entry0 (done : Bool) : FEntry := { record := rec0, served := done, posted := done, acked := done }
def faulted (done : Bool) (stamps : List Nat) : State :=
  on (fun d => { d with fs := { d.fs with
    recs := [(0, entry0 done)], fseq := 1,
    hist := [(bankUnit 63, { stamps := stamps, total := stamps.length, failStamps := [], lastFailed := false, twice := false })] } })

theorem witness_FaultRecordsServedAndOwnLogic :
    srv.m.cfg.fwRuns = true ∧ nextRecord srv.fresh = none ∧
    (∀ x ∈ [([0], true), ([0, 0], false)], let s := faulted false x.1
      nextRecord s.fresh = some (0, entry0 false) ∧
      decide ((rec0.charged s.m.cfg).filter (fun u =>
        (getHist ((rec0.charged s.m.cfg).foldl (chargeUnit 0 false) s.fresh) u).permanent 0) = []) = x.2) ∧
    (∀ done : Bool, tget (faulted done []).m.d.fs.recs 0 = some (entry0 done) ∧ (entry0 done).finished (faulted done []).fresh = done) := by
  decide +kernel

theorem witness_FaultRecordsServedAndOwnLogic_part :
    let r : FRec := { frec 0x03 .conservation (rootUnit 0) with detail := 1 }
    sourceHolds srv.fresh r = false ∧
    sourceHolds (on (fun d => { d with fs := { d.fs with waiting := [{ record := r, outs := [], late := [] }] } })).fresh r = true := by decide +kernel

/-- A part of this unit code with a waiting record of this mechanism. -/
def recWaits (mech unit : Nat) (d : Dyn) : Dyn :=
  { d with fs := { d.fs with waiting := [{ record := frec mech .conservation unit, outs := [], late := [] }] } }

theorem witness_ErrorsCountedAndRecorded :
    (let u := scrubUnit false 63
     ∀ again : Bool, let s := on (fun d => { d with fs := { d.fs with scrub := [(u, 16383)], corrected := if again then [(u, 16383)] else [] } })
      scrubNext s.fresh u = 16383 ∧ s.m.d.pw.cbFallow = false ∧ unitWaits s.fresh 0x02 u = false ∧
      s.m.d.fs.corrected.contains (u, 16383) = again) ∧
    unitWaits (on (recWaits 0x02 (scrubUnit true 63))).fresh 0x02 (scrubUnit true 63) = true ∧
    unitWaits srv.fresh 0x03 (bankUnit 63) = false ∧ summaryFull srv.fresh = false := by decide +kernel

/-- The small block in a health state. -/
def inState (h : Health) : State := cfgd (fun k => { k with health := h }) srv

theorem witness_DrainAndHealth :
    (∀ h : Fin 5, let x := [Health.service, .draining, .drained, .survey, .flagged].getD h .service
      (inState x).m.cfg.fwRuns = true ∧ (inState x).m.cfg.health = x ∧ Health.ofCode (bits x.code 0 3) = some x ∧
      (inState x).m.cfg.serving = true ∧ somePermanent (inState x).block = false) ∧
    Health.ofCode 7 = none ∧
    (let dr : Drain := { survey := none, cause := none, units := [], told := false, since := 0 }
     let s := cfgd (fun k => { k with drain := some dr, drainWait := 2 }) (inState .draining)
     s.m.cfg.drain.isSome = true ∧ s.m.cfg.drainWait ≠ 0 ∧ reached 2000 ((s.m.cfg.drain.map (·.since)).getD 0 + w64 (s.m.cfg.drainWait.toNat * 1000)) = true ∧
     reached 1999 ((s.m.cfg.drain.map (·.since)).getD 0 + w64 (s.m.cfg.drainWait.toNat * 1000)) = false ∧
     noLaunch s.fresh = true ∧ portsTerminal s.fresh = true) := by
  decide +kernel

/-- A survey in this pass that tests unit 1 again, with a unit 0 whose last surveys failed it. -/
def surveying (pass : Nat) (last : Bool) : State :=
  let s := cfgd (fun k => { k with health := .survey, survey := { k.survey with pass := pass } }) srv
  { s with m := { s.m with d := { s.m.d with fs :=
    { s.m.d.fs with again := [1], hist := [(0, { stamps := [], total := 0, failStamps := [], lastFailed := last, twice := last })] } } } }

/-- What SURVEY_END of this pass finds with these failed parts. -/
def surveyed (s : State) (failed : List (Nat × Byte × W64)) : Block :=
  { cfg := s.m.cfg, d := surveyHistory (failed.foldl (surveyFail s.m.cfg) s.fresh) }

theorem witness_SurveyAndOrders :
    (∀ pass ∈ [1, 2], let s := surveying pass false
      s.m.cfg.fwRuns = true ∧ s.m.cfg.serving = true ∧ s.m.cfg.health = .survey ∧ s.m.cfg.survey.pass = pass ∧
      mechWaits s.fresh 0x0D = false ∧ (surveyed s [(1, 0, 0)]).d.fs.failed = [1] ∧ (surveyed s []).d.fs.failed = [] ∧
      somePermanent (surveyOver (surveyed s [])) = false) ∧
    somePermanent (surveyOver (surveyed (surveying 2 true) [])) = true ∧
    mechWaits (on (recWaits 0x0D 0)).fresh 0x0D = true ∧
    srv.m.cfg.mgtRuns = true ∧ srv.m.cfg.doze = .awake ∧ srv.m.cfg.phase = .booted ∧ srv.m.cfg.health = .service ∧
    (inState .drained).m.cfg.health = .drained ∧ srv.m.cfg.boot.surveySize ≠ 0 ∧
    (cfgd (fun k => { k with boot := .none }) srv).m.cfg.boot.surveySize = 0 := by decide +kernel

theorem witness_FirmwareAndControllerPorts :
    srv.m.cfg.fwRuns = true ∧ srv.m.cfg.mgtRuns = true ∧ srv.m.d.mn.rx = [] ∧ srv.m.d.mn.tx.length < 64 ∧
    64 ≤ (List.replicate 64 (0 : Byte)).length ∧ srv.m.d.fs.sigs = [] ∧
    (on (fun d => { d with mn := { d.mn with rx := [0x41] } })).m.d.mn.rx = 0x41 :: [] ∧
    (on (fun d => { d with fs := { d.fs with sigs := [(0, [1, 2])] } })).m.d.fs.sigs = (0, [1, 2]) :: [] := by decide +kernel

/-! ### Boot, the serial monitor and read-out -/

/-- A boot configuration block of one region, one site unit and no edge unit, without its CRC. -/
def noCrcBlock : List Byte :=
  leBytes 4 0x42434E44 ++ leBytes 4 3 ++ leBytes 4 2964 ++ leBytes 4 0 ++ leBytes 4 0x000100 ++ leBytes 124 0
    ++ leBytes 4 256 ++ leBytes 4 2816 ++ leBytes 4 2836 ++ leBytes 4 2964 ++ leBytes 4 0 ++ leBytes 92 0
    ++ [0x80] ++ List.replicate 2707 0
/-- The same with its FLAGGED bit set and its CRC. -/
def bootBlock : List Byte := flagBlock noCrcBlock

/-- Boot phase 1, with these bytes received. -/
def receiving (bs : List Byte) : State := cfgd (fun k => { k with rx := some bs }) State.reset

theorem witness_BootBlockReceived :
    (receiving []).m.cfg.mgtRuns = true ∧ (receiving []).m.cfg.phase = .p1 ∧ State.reset.m.cfg.rx = none ∧ State.reset.m.cfg.kept = none ∧
    (cfgd (fun k => { k with kept := some [] }) State.reset).m.cfg.kept = some [] := by decide +kernel

set_option maxRecDepth 20000 in
theorem witness_BootBlockReceived_format : bbFormatOk bootBlock = true := by decide +kernel

theorem witness_BootBlockReceived_content :
    bootBlock.length = 2964 ∧ leAt bootBlock 8 4 = 2964 ∧ bbContentOk .sparax2304 bootBlock = true ∧
    bbContentOk { Build.sparax2304 with nSiteMax := 0 } bootBlock = false := by decide +kernel

theorem witness_BootBlockReceived_refused :
    (leBytes 12 (12 * 2 ^ 64)).length = 12 ∧ leAt (leBytes 12 (12 * 2 ^ 64)) 8 4 = 12 ∧ bbFormatOk (leBytes 12 (12 * 2 ^ 64)) = false := by
  decide +kernel

/-- Reset, in a later boot phase. -/
def phased (p : BootPhase) : State := cfgd (fun k => { k with phase := p }) State.reset

/-- A firmware image of one byte of code and tables of zeros. -/
def fwBytes : List Byte :=
  leBytes 4 0x57464E44 ++ leBytes 4 3 ++ leBytes 4 43521 ++ leBytes 4 1 ++ leBytes 16 0 ++ leBytes 4 64 ++ leBytes 4 1 ++ leBytes 4 65
    ++ leBytes 4 43456 ++ leBytes 16 0 ++ List.replicate 43457 0

theorem witness_BootPhases :
    (∀ p : Fin 5, let x := [BootPhase.p2, .p3, .p4, .p4Verify, .p5].getD p .p2
      (phased x).m.cfg.mgtRuns = true ∧ (phased x).m.cfg.phase = x) ∧ imageFormOk [] = false ∧
    (cfgd (fun k => { k with boot := { k.boot with flagged := true } }) (phased .p5)).m.cfg.boot.flagged = true ∧
    srv.m.cfg.phase = .booted ∧ srv.m.cfg.fwRuns = true ∧ srv.m.d.fe.opened = false := by decide +kernel

theorem witness_BootPhases_image : imageFormOk fwBytes = true := by decide +kernel

theorem witness_Monitor :
    srv.m.cfg.fwRuns = true ∧ counterValue srv.m.cfg srv.fresh 0x278 = some 0 ∧ counterValue srv.m.cfg srv.fresh 0x27C = none ∧
    srv.m.d.tr.buf = [] ∧ (inState .flagged).m.cfg.health = .flagged ∧
    srv.m.cfg.boot.surveySize ≠ 0 ∧ 115200 ∈ baudRates ∧ 300 ∉ baudRates ∧ srv.m.cfg.inReset = false ∧ srv.m.d.mn.rx.length < 64 ∧
    (let s := on (fun d => { d with mn := { d.mn with rx := List.replicate 64 0, tx := [0x3E, 0x41] } })
     64 ≤ s.m.d.mn.rx.length ∧ s.m.d.mn.tx = 0x3E :: [0x41] ∧ (0x41 : Byte) ≠ 0x3E ∧
     (cfgd (fun k => { k with baudNext := some 9600 }) s).m.cfg.baudNext = some 9600) := by decide +kernel

/-- The small block, frozen. -/
def frozen : State := cfgd (fun k => { k with frozen := true }) srv

theorem witness_ReadOutAnswers :
    srv.m.cfg.inReset = false ∧ srv.m.cfg.frozen = false ∧ frozen.m.cfg.frozen = true ∧ roEntry frozen.m.cfg frozen.fresh 0x3F 1 = none ∧
    roEntry frozen.m.cfg frozen.fresh 0x3F 0 = some (0, .flop) ∧ roEntry frozen.m.cfg frozen.fresh 0x01 1048575 = some (0, .sram) ∧
    roEntry frozen.m.cfg frozen.fresh 0x01 1048576 = none := by decide +kernel

/-! ### Resets, freeze and power -/

/-- A flagged chip with a kept block; `bootBlock` is that block with its flag, and is legal (`witness_BootBlockReceived_format`). -/
def flaggedKept : State := cfgd (fun k => { k with health := .flagged, kept := some noCrcBlock }) srv

theorem witness_FlaggedSurvivesSoftReset :
    flaggedKept.m.cfg.health = .flagged ∧ flaggedKept.m.cfg.kept.isSome = true ∧ 20 ≤ (flaggedKept.m.cfg.kept.getD []).length := by
  decide +kernel

/-- The small block in a stage of DOZE. -/
def dozing (z : Doze) : State := cfgd (fun k => { k with doze := z, dozeReq := true }) srv

theorem witness_FreezeAndDoze :
    (∀ z : Fin 3, let x := [Doze.awake, .dozing, .waking].getD z .awake
      (dozing x).m.cfg.inReset = false ∧ (dozing x).m.cfg.frozen = false ∧ (dozing x).m.cfg.doze = x ∧ (dozing x).m.cfg.mgtRuns = true ∧
      (dozing x).m.cfg.phase = .booted ∧ gateAcked (dozing x).fresh .doze = true) ∧
    frozen.m.cfg.frozen = true ∧
    (let s := { dozing .awake with m := { (dozing .awake).m with d := { Dyn.reset with ts := 1000000, pw := { Dyn.reset.pw with idleFrom := some 0 } } } }
     s.m.cfg.dozeEn = true ∧ s.m.cfg.dozeReq = true ∧ s.m.cfg.freezeWait = false ∧ dataIdle s.m.cfg s.fresh = true ∧
     fwIdle s.m.cfg s.fresh = true ∧ s.m.d.held = [] ∧
     passed s.fresh s.m.d.pw.idleFrom s.m.cfg.dozeIdle.toNat = true ∧ s.m.d.ch.expiry.any (fun w => w.found.isSome) = false ∧
     s.m.d.ch.admission.any (fun w => w.found.isSome) = false) ∧
    (∀ wait : Bool, let s := cfgd (fun k => { k with freezeWait := wait }) (dozing .waking)
      let k := { s.m.cfg with doze := .awake, dozeReq := false }
      (serveHeldHost (tidy { cfg := k, d := traceState k s.fresh 2 0 1 })).cfg.freezeWait = wait) ∧
    (∀ waking : Bool, let s := on (fun d => { d with pw := { d.pw with gates := [(.counterBanks, true)], cbWaking := waking } })
      gateAcked s.fresh .counterBanks = false ∧ s.m.d.pw.cbWaking = waking) := by decide +kernel

theorem witness_BanksLieFallow :
    (let s := on (fun d => { d with ts := 1000, pw := { d.pw with launchFrom := some 0 } })
     s.m.cfg.boot.cbIdle ≠ 0 ∧ s.m.d.pw.cbFallow = false ∧ noLaunch s.fresh = true ∧ s.m.d.nb.queue.all (fun q => q.2.isEmpty) = true ∧
     passed s.fresh s.m.d.pw.launchFrom s.m.cfg.boot.cbIdle = true ∧ passed srv.fresh srv.m.d.pw.launchFrom srv.m.cfg.boot.cbIdle = false) ∧
    (let d := muReport 2 7 0 srv.fresh
     bit srv.m.cfg.boot.muFallow.toNat 7 = true ∧ srv.m.cfg.sitePresent 2 = true ∧ srv.m.cfg.siteIsMu 2 = true ∧
     muKey 2 7 ∉ d.pw.muFallow ∧ passed d (muSince d 2 7) srv.m.cfg.boot.muIdle = true) ∧
    (let s := on (fun d => { d with pw := { d.pw with muFallow := [muKey 2 7], muWaking := [muKey 2 7] } })
     muKey 2 7 ∈ s.m.d.pw.muWaking ∧ gateAcked s.fresh (.mu 2 7) = true ∧ muKey 2 7 ∈ s.m.d.pw.muFallow) ∧
    muKey 2 7 ∉ srv.m.d.pw.muFallow := by decide +kernel

/-! ### The dependency graph -/

/-- Node 0 of launch 0 in a state, with a PEND. -/
def node0 (st : NState) (pend : Nat) : NodeRec := { NodeRec.zero with st := st, pend := pend }
/-- The running launch 0 with its node in a state. -/
def live (st : NState) (pend : Nat) (d : Dyn) : Dyn :=
  { withLaunch (launch0 .running) d with nb := { d.nb with nodes := if node0 st pend = .zero then [] else [(0, node0 st pend)] } }
def op0 (kind : OpKind) : BankOp := { kind := kind, g := 0, slot := 0, bit := 31, walker := 0, cq := 0 }
/-- An operation at the front of bank 63. -/
def queued (kind : OpKind) (st : NState) (pend : Nat) : State :=
  on (fun d => { live st pend d with nb := { (live st pend d).nb with queue := [(63, [op0 kind])] } })

theorem witness_BankOperationsApplied :
    (∀ x ∈ [(OpKind.dec, NState.armed, 1), (.evt, .armed, 0), (.decEvt, .rangeHeld, 1), (.cancel, .armed, 0), (.cancel, .running, 0)],
      let s := queued x.1 x.2.1 x.2.2
      nextOp 4 (bankQueue s.fresh 63) = some (op0 x.1, []) ∧ s.m.d.pw.cbFallow = false ∧ bankRoom s.fresh 63 (op0 x.1) = true ∧
      opIllegal (getNode s.fresh 0) (op0 x.1) = false) ∧
    (getNode (queued .cancel .armed 0).fresh 0).st.waiting = true ∧ (getNode (queued .cancel .running 0).fresh 0).st.waiting = false ∧
    unitWaits srv.fresh 0x03 (bankUnit 63) = false ∧ unitWaits (on (recWaits 0x03 (bankUnit 63))).fresh 0x03 (bankUnit 63) = true ∧
    nextOp 4 (bankQueue srv.fresh 63) = none ∧
    nextOp 4 [op0 .cancel, op0 .dec] = some (op0 .dec, [op0 .cancel]) := by
  decide +kernel

theorem witness_IllegalOperationRecorded :
    (∀ x ∈ [(OpKind.dec, NState.armed, 0), (.decEvt, .armed, 0), (.evt, .idle, 0)], let s := queued x.1 x.2.1 x.2.2
      nextOp 4 (bankQueue s.fresh 63) = some (op0 x.1, []) ∧ s.m.d.pw.cbFallow = false ∧ bankRoom s.fresh 63 (op0 x.1) = true ∧
      (let n := getNode s.fresh 0
       n.st = .idle ∨ n.launch ≠ (op0 x.1).slot ∨ (n.pend = 0 ∧ ((op0 x.1).kind = .dec ∨ (op0 x.1).kind = .decEvt)))) ∧
    unitWaits srv.fresh 0x03 (bankUnit 63) = false := by decide +kernel

/-- The node of graph 1 is a THREAD node pinned to leaf 0. -/
def threadDesc : Desc := { w0 := w256 (1 + 1 * 2 ^ 8 + 1 * 2 ^ 14), w1 := 0, w2 := 0, w3 := 0 }
/-- A graph of one node with this descriptor, launched in slot 0, the node's descriptor cached. -/
def withNode (x : Desc) (st : NState) (d : Dyn) : Dyn :=
  let d := putGraph (live st 0 d) 1 { oneJoin with descs := [x] }
  { d with gs := { d.gs with dcache := [(0, [(0, 0, true)])] } }
def entryOf (st : Nat) : REntry :=
  { g := 0, slot := 0, level := st, age := 0, offered := none, void := false, waited := false, affWait := false }

/-- Node 0 has completed with 65 edges, none of them walked, or the walker 63 is at work on its first 64. -/
def walking (busy : Bool) : State :=
  let e : CqEntry := { idx := 0, slot := 0, g := 0, first := 0, count := 65, next := if busy then 64 else 0, left := 0, skipped := false }
  on (fun d => { live .done 0 d with nb := { d.nb with
    cq := [e], walkers := if busy then [(63, { cq := 0, next := 8, stop := 64, wait := [] })] else [] } })

/-- The outbox of bank 63 holds the ready node 0. -/
def boxed (f : Dyn → Dyn) : State :=
  on (fun d => f { withNode threadDesc .ready d with nb := { (withNode threadDesc .ready d).nb with outbox := [(63, [entryOf 15])] } })

theorem witness_ScanWalkAndReady :
    tget (on (live .armed 0)).m.d.ls.slots 0 = some (launch0 .running) ∧ (launch0 .running).phase = .running ∧
    unitWaits srv.fresh 0x03 (rootUnit 1) = false ∧ tget (takeSpan 63 srv.fresh).nb.walkers 63 = none ∧
    (∀ busy : Bool, let d := takeSpan 63 (walking busy).fresh
      (tget d.nb.walkers 63).any (fun x => (d.nb.cq.find? (fun e => e.idx = x.cq)).any (fun e => (launchGraph d e.slot).isSome)) = true) ∧
    (let s := boxed id
     let d := setOutbox s.fresh 63 [entryOf 15]
     (outbox s.fresh 63).dropWhile (·.void) = entryOf 15 :: [] ∧ entryRoom s.m.cfg d (entryOf 15) = true ∧
     tookNow d (entryList s.m.cfg d (entryOf 15)) < listRate (entryList s.m.cfg d (entryOf 15)) ∧
     outranked s.m.cfg d (entryOf 15) = false ∧ (outbox srv.fresh 63).dropWhile (·.void) = []) ∧
    (let s := boxed (fun d => { d with dp := { d.dp with took := [(1, (0, 8))] } })
     entryList s.m.cfg s.fresh (entryOf 15) = .region 0 ∧ ¬ tookNow s.fresh (.region 0) < listRate (.region 0)) ∧
    (on (fun d => { d with bus := { d.bus with reads := [readJob (.descFill 128) none false] } })).m.d.bus.reads.find?
      (fun j => j.use = .descFill 128 && j.shown) = some (readJob (.descFill 128) none false) := by decide +kernel

theorem level_count (n p : Nat) : ((List.replicate n (entryOf 15)).filter (fun e => e.level = p)).length = if p = 15 then n else 0 := by
  by_cases h : p = 15
  · subst h; simp [entryOf]
  · simp [entryOf, h, Ne.symm h]

/-- Region 0's list with the shared part full at level 15, and that level's own reserve used besides. -/
def fullList : Dyn := { Dyn.reset with dp := { Dyn.reset.dp with shared := [(31, 7680)] } }

theorem level_rooms (n : Nat) (h : n = 7712) :
    levelRoom fullList (.region 0) (List.replicate n (entryOf 15)) 15 = false ∧
    levelRoom fullList (.region 0) (List.replicate n (entryOf 15)) 14 = true := by
  simp [levelRoom, reserveRoom, levelCount, sharedUse, level_count, listReserve, listShared, upFrom, listSum, listNo, fullList, tgetD, tget, Dyn.reset]
  omega

theorem witness_ScanWalkAndReady_full :
    levelRoom fullList (.region 0) (List.replicate 7712 (entryOf 15)) 15 = false ∧
    levelRoom fullList (.region 0) (List.replicate 7712 (entryOf 15)) 14 = true := level_rooms 7712 rfl

/-- A GRAPH node that runs, of a launch in slot 0 whose state `f` changes. -/
def graphDesc : Desc := { w0 := 0x08, w1 := 0, w2 := 1, w3 := 0 }
def task0 (op : Nat) (copies : List Copy) : Task :=
  { idx := 0, kind := .node, slot := 0, g := 0, op := op, body := 0, commit := 0, copies := copies, ended := false }
def childing (f : Launch → Launch) : State :=
  on (fun d => let d := withNode graphDesc .running d
    { d with dp := { d.dp with tasks := [task0 kGraph []] }, ls := { d.ls with slots := [(0, f (launch0 .running))] } })

theorem witness_LaunchEnds :
    (let s := on (live .done 0)
     tget s.m.d.ls.slots 0 = some (launch0 .running) ∧ launchQuiet s.fresh 0 = true ∧ allTerminal s.fresh (launch0 .running) = true) ∧
    (∀ x ∈ [0, 1], let s := on (withLaunch { launch0 (.swept x) with initSum := 0 })
      (launchGraph s.fresh 0).isSome = true ∧ summaryFull s.fresh = false ∧ s.m.d.fs.waiting = [] ∧
      decide ((launch0 (.swept x)).initSum = (launch0 (.swept x)).applied + x) = (x == 0)) ∧
    (let s := on (withLaunch { launch0 (.swept 0) with parent := some (1, 0) })
     (launchGraph s.fresh 0).any (fun x => x.1.parent = some (1, 0) && x.1.phase = .swept 0) = true) ∧
    (∀ st ∈ [none, some Status.timeout], let s := childing (fun l => { l with failed := st })
      s.m.d.dp.tasks.find? (fun t => t.g = 0 && t.op = kGraph && !t.ended) = some (task0 kGraph []) ∧
      tget s.m.d.ls.slots 0 = some { launch0 .running with failed := st } ∧ hasChild s.fresh 0 0 = false ∧
      (getNode s.fresh 0).st = .running ∧ (getNode s.fresh 0).launch = 0 ∧ nesting s.fresh 9 0 < 8) := by decide +kernel

/-- Nine launches nested, each the child of the one before. -/
def nested : State :=
  on (fun d => { d with ls := { d.ls with
    slots := (upFrom 0 9).map (fun i => (i, { launch0 .running with parent := if i = 0 then none else some (i - 1, 0) })) } })

theorem witness_LaunchEnds_nested : 8 ≤ nesting nested.fresh 9 8 ∧ nesting nested.fresh 9 7 < 8 := by decide +kernel

theorem witness_LaunchEnds_child :
    let s := childing id
    let w : Want := { id := idOf 0, svc := false, gid := (nodeDesc s.fresh 0 0).b 0 12, epsel := false, epoch := 0, bases := zeroBases,
                      seedidx := 0, wdigest := 0, idigest := 0, parent := some (0, 0) }
    gives (admitLaunch s.m.cfg s.fresh w) = true := by decide +kernel

theorem mem_upFrom (lo n k : Nat) : k ∈ upFrom lo n ↔ lo ≤ k ∧ k < lo + n := by
  induction n generalizing lo with
  | zero => simp [upFrom]
  | succ n ih => simp [upFrom, ih]; omega

theorem firstFree_full (used : List Nat) (n i : Nat) (h : ∀ j, i ≤ j → j < i + n → j ∈ used) : firstFree n i used = none := by
  induction n generalizing i with
  | zero => rfl
  | succ n ih =>
    simp only [firstFree, List.contains_iff_mem, h i (Nat.le_refl i) (by omega), if_true]
    exact ih (i + 1) (fun j h1 h2 => h j (by omega) (by omega))

/-- A full summary. -/
def allRecs (d : Dyn) : Dyn := { d with fs := { d.fs with recs := (upFrom 0 1023).map (fun n => (n, entry0 false)) } }

theorem witness_LaunchEnds_held : summaryFull (on allRecs).fresh = true := by
  have h : tkeys ((upFrom 0 1023).map (fun n => (n, entry0 false))) = upFrom 0 1023 := by simp [tkeys, List.map_map, Function.comp_def]
  have e : (on allRecs).fresh.fs.recs = (upFrom 0 1023).map (fun n => (n, entry0 false)) := rfl
  simp only [summaryFull, faultSlot, lockstepEntry, e, h, firstFree_full _ _ _ (fun j h1 h2 => (mem_upFrom 0 1023 j).2 ⟨h1, h2⟩)]
  rfl

theorem witness_CheckIntervalsCompared :
    srv.m.d.nb.latchedAcc = srv.m.d.nb.latchedSent ∧ intervalOver srv.fresh = false ∧
    intervalOver (on (fun d => { d with ts := 8000 })).fresh = true ∧
    (let s := on (fun d => { d with nb := { d.nb with latchedSent := [(4095, 7)], latchedAcc := [(4095, 7)] } })
     s.m.d.nb.latchedAcc = s.m.d.nb.latchedSent ∧ s.m.d.nb.heldCmp = [] ∧ s.m.d.nb.tallies = []) := by decide +kernel

/-! ### Dispatch and work ports -/

/-- The root's list holds the ready node of this descriptor. -/
def placing (x : Desc) (f : Dyn → Dyn := id) : State :=
  on (fun d => f { withNode x .ready d with dp := { d.dp with root := [entryOf 0] } })

/-- The root's cycle with one item, and where `place` puts that node. -/
def oneItem (s : State) (i : Item) : Bool := cycleItems .root (cycleBegin .root s.m.cfg s.fresh).2 (cycleBegin .root s.m.cfg s.fresh).1 == [i]
def placed (s : State) (x : Desc) : Place :=
  let d0 := (cycleBegin .root s.m.cfg s.fresh).2
  place .root s.m.cfg (dcTouch d0 (nodeDescOff d0 0 0)) (entryOf 0) x
def turnsBack (s : State) (d : Dyn) (x : Desc) : Bool :=
  (turnBack .root (cycleBegin .root s.m.cfg s.fresh).1 (PState.start (cycleBegin .root s.m.cfg s.fresh).2 8 []) d (entryOf 0) x).isSome

/-- A ROUTE with one closed tile, whose block is written. -/
def ackedTile : Tile := { j := 0, expert := 3, half := 0, recs := [], st := .acked, age := 0 }
def tiled : State := on (fun d => routed { route0 with tiles := [ackedTile] } (live .running 0 d))
/-- A ROUTE with a cold fetch of expert 3. -/
def fetching : State := on (fun d => let d := routed route0 (live .running 0 d)
                                     { d with rt := { d.rt with fetchWait := [(0, 0, 3)] } })

theorem witness_DispatcherCycle :
    unitWaits srv.fresh 0x03 (dispUnit .root) = false ∧ unitWaits (on (recWaits 0x03 (dispUnit (.region 0)))).fresh 0x03 (dispUnit (.region 0)) = true ∧
    cycleItems .root (cycleBegin .root srv.m.cfg srv.fresh).2 (cycleBegin .root srv.m.cfg srv.fresh).1 = [] ∧
    (let s := tiled
     let all := leafSet s.m.cfg s.fresh (lTparcel route0.e)
     oneItem s (.tile 0 0 0 0 0) = true ∧ synthFree s.m.cfg s.fresh 0 0 false = true ∧
     (best .root (lTclass route0.e) s.fresh ((synthEligible s.m.cfg s.fresh all (lTclass route0.e) 0 0).filter (leafFree s.m.cfg s.fresh kKernel 1))).any
       (fun x => x.1 = 0) = true ∧ (cqFree s.fresh).isSome = true) ∧
    (let s := fetching
     oneItem s (.fetch 0 0 3 0) = true ∧ synthFree s.m.cfg s.fresh 0 0 true = true ∧
     (best .root 5 s.fresh ((synthEligible s.m.cfg s.fresh (leafSet s.m.cfg s.fresh 65536) 5 0 0).filter
       (leafFree s.m.cfg s.fresh kColdfetch 1))).any (fun x => x.1 = 2304) = true) := by decide +kernel

/-- A node of a kind executed inside Denut, a SECTION of the leaf 0, and a THREAD node of the class of leaf 0 anywhere. -/
def hostDesc : Desc := { w0 := w256 kHost, w1 := 0, w2 := 0, w3 := 0 }
def sectionDesc : Desc := { w0 := w256 (kSection + 1 * 2 ^ 8), w1 := 0, w2 := 0, w3 := 0 }
def anyDesc : Desc := { w0 := w256 (1 + 1 * 2 ^ 8 + 65536 * 2 ^ 16), w1 := 0, w2 := 0, w3 := 0 }
/-- The chip with a second THREAD engine, in the third site unit. -/
def twoThreads (s : State) : State := cfgd (fun k => { k with boot := { k.boot with slots := [(0, 0x80), (32, 0x80), (2304, 0x85)] } }) s

theorem witness_NodePlacedAndTimed :
    (∀ x ∈ [threadDesc, hostDesc, sectionDesc], let s := placing x
      unitWaits s.fresh 0x03 (dispUnit .root) = false ∧ oneItem s (.node (entryOf 0)) = true ∧ nodeDesc s.fresh 0 0 = x ∧
      onEngines x.op = (x != hostDesc) ∧ turnsBack s s.fresh x = false ∧ (cqFree s.fresh).isSome = true) ∧
    internalFree (placing hostDesc).fresh (entryOf 0) hostDesc = true ∧
    (let s := placing sectionDesc
     sectionDesc.op = kSection ∧ sectionMembers s.m.cfg s.fresh sectionDesc = [0] ∧ sectionReady s.m.cfg s.fresh (entryOf 0) sectionDesc [0] = true ∧
     s.m.d.ch.sect = [] ∧ regionOpen .root [] (regionLeaves [0]) = true) ∧
    (let s := placing threadDesc
     threadDesc.op ≠ kSection ∧ someFree s.m.cfg s.fresh (entryOf 0) threadDesc = true ∧
     (match placed s threadDesc with
      | .leaf l d => l == 0 && !(getNode d 0).shadow
      | _ => false) = true) := by decide +kernel

theorem witness_NodePlacedAndTimed_shadow :
    let s := twoThreads (placing anyDesc (fun d => { d with nb := { d.nb with nodes := [(0, { node0 .ready 0 with shadow := true })] } }))
    oneItem s (.node (entryOf 0)) = true ∧ someFree s.m.cfg s.fresh (entryOf 0) anyDesc = true ∧ anyDesc.pin = false ∧
    (match placed s anyDesc with
     | .leaf l d => (getNode d 0).shadow && (leafSet s.m.cfg d anyDesc.target).any (fun a => (leafSet s.m.cfg d anyDesc.target).any (unitsDiffer a))
        && (best .root 0 d ((eligible s.m.cfg d 0 anyDesc).filter (fun m => unitsDiffer l m && leafFree s.m.cfg d anyDesc.op anyDesc.bodyWords m))).isSome
     | _ => false) = true := by decide +kernel

theorem witness_NodePlacedAndTimed_timers :
    (∀ since ∈ [0, 1], let w : AffWait := { disp := .root, g := 0, leaf := 0, since := w64 since }
      let s := on (fun d => { withNode { threadDesc with w0 := w256 (1 + 4 * 2 ^ 37) } .ready d with
        fc := 4, dp := { d.dp with waits := [w] } })
      s.m.d.dp.waits.find? (fun w => w.g = 0) = some w ∧
      decide ((nodeDesc s.fresh (getNode s.fresh 0).launch 0).affWait ≤ cyclesSince s.fresh w.since) = (since == 0)) ∧
    (∀ t ∈ [999, 1000], let s := on (fun d => { withNode { threadDesc with w0 := w256 (1 + 2 ^ 128) } .ready d with ts := w64 t })
      tget s.m.d.ls.slots (getNode s.fresh 0).launch = some (launch0 .running) ∧
      (nodeDesc s.fresh (getNode s.fresh 0).launch 0).waitTo = 1 ∧ (getNode s.fresh 0).st = .ready ∧
      reached s.m.d.ts ((launch0 .running).instTs + 1000) = (t == 1000)) := by decide +kernel

/-- A packet of two words of a THREAD node. -/
def pkt (f : Pkt → Pkt) : Pkt :=
  f { task := 0, slot := 0, g := 0, ctx := 0, epoch := 0, op := kThread, shadow := false, words := [1, 2], valid := 24, sent := 0, beats := 8, bodyWait := false,
      noticed := true, ptag := 0, taken := true, tokdig := 0, sectEnd := false, hung := false, fallow := false }
/-- Leaf 0 with these packets. -/
def holding (ps : List Pkt) (f : Engine → Engine) : Dyn → Dyn := fun d => { d with en := [(0, f { Engine.init with pkts := ps })] }

theorem witness_WorkPortOperations :
    unitWaits srv.fresh 0x03 (unitOf 0) = false ∧
    (∀ wait : Bool, let p := pkt (fun p => { p with noticed := false, taken := false, bodyWait := wait })
      let s := on (holding [pkt id, p] id)
      (getEng s.fresh 0).pkts.find? (fun p => !p.noticed) = some p) ∧
    (let s := on (holding [pkt id] (fun e => { e with rp := .at 0 0 }))
     s.m.cfg.taskEngine 0 = true ∧ opBlocked s.fresh 0 = false ∧ (getEng s.fresh 0).blocked = none ∧ (readWord s.m.cfg s.fresh 0).isSome = true ∧
     (getEng s.fresh 0).sp = none) ∧
    (let s := on (fun d => { holding [] id d with fs := { d.fs with hedgeSite := [0] } })
     s.m.cfg.taskEngine 0 = true ∧ readWord s.m.cfg s.fresh 0 = none ∧ (idleReason s.m.cfg s.fresh 0).isSome = true) ∧
    (∀ n ∈ [1, 2], let t : BitVec 21 := BitVec.ofNat 21 n
      let s := on (holding [pkt id] (fun e => { e with blocked := some (t, 0), sp := some .past }))
      readWord s.m.cfg s.fresh 0 = none ∧ idleReason s.m.cfg s.fresh 0 = none ∧ (getEng s.fresh 0).blocked = some (t, 0) ∧
      (getEng s.fresh 0).sp = some .past ∧ decide (t.toNat ≤ cyclesSince { s.fresh with fc := 1 } 0) = (n == 1)) ∧
    srv.m.cfg.taskEngine 16 = false := by decide +kernel

theorem witness_PortProtocolErrors :
    (let s := on (holding [] (fun e => { e with blocked := some (0, 0) }))
     s.m.cfg.taskEngine 0 = true ∧ opBlocked s.fresh 0 = false ∧ (getEng s.fresh 0).tagged 3 = none ∧ (getEng s.fresh 0).blocked.isSome = true) ∧
    ((getEng (on (holding [pkt (fun p => { p with taken := false })] id)).fresh 0).tagged 0).any (fun p => !p.taken) = true := by
  decide +kernel

/-- Leaf 0 with one packet on it: what has been reported of it, and its task. -/
def reporting (f : Reports → Reports) (c : Copy) : State :=
  on (fun d => { withNode threadDesc .issued d with rep := f d.rep, dp := { d.dp with tasks := [task0 kThread [c]] } })
def rep0 : Report := { task := 0, slot := 0, g := 0, leaf := 0, code := 0, digest := 9, tokdig := 0, hang := false }

theorem witness_PacketReleasedAndReported :
    (∀ silence ∈ [1048575, 1048576], let s := on (holding [pkt id] (fun e => { e with silence := silence }))
      s.m.cfg.taskEngine 0 = true ∧ opBlocked s.fresh 0 = false ∧ (getEng s.fresh 0).tagged 0 = some (pkt id) ∧ (pkt id).taken = true ∧
      (getEng s.fresh 0).holdsTaken = true ∧ (getEng s.fresh 0).hung = false ∧ summaryFull s.fresh = false ∧
      decide (s.m.cfg.hangLimit.toNat * 65536 ≤ (getEng s.fresh 0).silence) = (silence == 1048576)) ∧
    0x10 ∈ releaseCodes ∧ 0x11 ∉ releaseCodes ∧
    (let s := reporting (fun r => { r with takens := [(0, 0)] }) (copyOf 0 false)
     s.m.d.rep.takens.find? (fun t => t.1 = 0) = some (0, 0) ∧
     (taskAt (modTask s.fresh 0 (fun x => x.setCopy 0 (fun c => { c with taken := true }))) 0).any
       (fun x => x.kind = .node && !x.ended && x.copies.all (·.taken)) = true ∧ (getNode s.fresh 0).st = .issued) ∧
    (taskAt (on (fun d => { d with dp := { d.dp with tasks := [task0 kThread [copyOf 0 false, copyOf 32 true]] } })).fresh 0).any
       (fun x => !(x.setCopy 0 (fun c => { c with taken := true })).copies.all (·.taken)) = true ∧
    (reporting (fun r => { r with credits := [(0, 2, 1, 0)] }) (copyOf 0 false)).m.d.rep.credits.find? (fun c => c.1 = 0) = some (0, 2, 1, 0) := by
  decide +kernel

theorem witness_PacketReleasedAndReported_sampled :
    unitWaits srv.fresh 0x03 (rootUnit 1) = false ∧
    (∀ hang : Bool, ∀ ended : Bool, let r := { rep0 with hang := hang }
      let s := on (fun d => { withNode threadDesc .running d with
        rep := { d.rep with reports := [r] }, dp := { d.dp with tasks := [{ task0 kThread [copyOf 0 false] with ended := ended }] } })
      let d := { s.fresh with rep := { s.m.d.rep with reports := s.m.d.rep.reports.eraseIdx 0 } }
      s.m.d.rep.reports[0]? = some r ∧ s.m.d.rep.takens = [] ∧ s.m.d.rep.credits = [] ∧ mechWaits s.fresh 0x0D = false ∧
      (sampleReport s.m.cfg d r).fs.waiting.length ≤ s.m.d.fs.waiting.length ∧
      (taskAt d 0).any (fun t => t.ended == ended && t.copies == [copyOf 0 false]) = true ∧ (copyOf 0 false).report = none) ∧
    (taskAt srv.fresh 0).isNone = true ∧
    (∃ x ∈ [rep0, rep0].take 1, x.leaf = rep0.leaf) := by decide +kernel
/-! ### Tokens -/

/-- What `Presents` asks of leaf 0, packet 0 and slot `j` besides a serving block, as a test. -/
def presents (s : State) (j : Nat) (p : Pkt) : Bool :=
  s.m.cfg.taskEngine 0 && !opBlocked s.fresh 0 && firstFree 8 0 (tkeys (getEng s.fresh 0).ops) = some j
    && (getEng s.fresh 0).tagged 0 = some p && p.taken

/-- Leaf 0 with the taken packet 0, besides. -/
def engaged (f : Dyn → Dyn) : State := on (fun d => f (holding [pkt id] id d))

theorem witness_Presents : Presents (engaged id) 0 0 0 (pkt id) :=
  ⟨rfl, by decide +kernel, by decide +kernel, by decide +kernel, by decide +kernel, rfl⟩

/-- A receive queue, open for the packet's node or for another. -/
def rqueue (leaf : Nat) : RQueue :=
  { isOpen := true, sel := false, leaf := leaf, slot := 0, g := 0, epoch := 0, group := 1, last := none, toks := [] }
def opOf (code arg : Nat) : OpSlot := newOp .reset (pkt id) code 0 0 arg

/-- The same for the packet of a shadow copy. -/
def shadowPkt : Pkt := pkt (fun p => { p with shadow := true })
theorem witness_Presents_shadow : Presents (on (holding [shadowPkt] id)) 0 0 0 shadowPkt ∧ shadowPkt.shadow = true :=
  ⟨⟨rfl, by decide +kernel, by decide +kernel, by decide +kernel, by decide +kernel, rfl⟩, rfl⟩

theorem witness_ReceiveQueueOperations :
    presents (engaged id) 0 (pkt id) = true ∧ (pkt id).shadow = false ∧ ones 8 (0x80 : Byte).toNat = [7] ∧ ones 8 (0 : Byte).toNat = [] ∧
    (getQ (engaged id).fresh (qKey 0 7)).isOpen = false ∧
    (∀ leaf ∈ [0, 1], let s := engaged (fun d => { d with tk := { d.tk with queues := [(qKey 0 7, rqueue leaf)] } })
     (getQ s.fresh (qKey 0 7)).isOpen = true ∧ (getQ s.fresh (qKey 0 7)).ownedBy 0 0 0 0 = (leaf == 0)) ∧
    (∀ tmo ∈ [0, 1, 2], let s := on (fun d => { holding [pkt id] (fun e => { e with ops := [(7, opOf 3 (tmo * 2 ^ 32))] }) d with fc := 1 })
     getOp s.fresh 0 7 = some (opOf 3 (tmo * 2 ^ 32)) ∧ recvTo (opOf 3 (tmo * 2 ^ 32)) = tmo ∧ cyclesSince s.fresh (opOf 3 0).fc = 1) := by
  decide +kernel

/-- A header of this chip with this reference, and a multicast header for group 0; LEN 4. -/
def toLeaf (dest : Nat) : W64 := mkHdr 0 dest 0 0 4 0 false
def toGroup : W64 := w64 (2 ^ 63 + 4 * 2 ^ 11)

theorem witness_TokenSent :
    (let s := engaged (fun d => { d with tk := { d.tk with groups := [(0, [32, 33])] } })
     presents s 0 (pkt id) = true ∧ sendFormOk 1 = false ∧ hMc 1 = false ∧ sendFormOk (toLeaf 32) = true ∧ hMc (toLeaf 32) = false ∧
     noRoute s.m.cfg s.fresh 0 (toLeaf 32) = false ∧ noRoute s.m.cfg s.fresh 0 (toLeaf 48) = true ∧ sendFormOk (toLeaf 48) = true ∧
     sendFormOk toGroup = true ∧ hMc toGroup = true ∧ tget s.m.d.tk.groups (hGroup toGroup) = some [32, 33] ∧
     tget srv.m.d.tk.groups (hGroup toGroup) = none ∧
     bit 1 0 = true ∧ bit 2 0 = false ∧ (getEng s.fresh 0).tagged 1 = none ∧ unitWaits s.fresh 0x10 (rootUnit 7) = false) ∧
    srv.m.cfg.taskEngine 16 = false ∧
    unitWaits (on (recWaits 0x10 (rootUnit 7))).fresh 0x10 (rootUnit 7) = true ∧
    (let o := opOf 0 0
     firstFree 8 0 (tkeys (getEng (on (holding [pkt id] (fun e => { e with ops := (upFrom 0 8).map (fun j => (j, o)) }))).fresh 0).ops) = none) := by
  decide +kernel

def tok (dest : Nat) (from_ : Sender) : Tok := { hdr := toLeaf dest, src := 0, payload := 5, ddig := 0, sender := from_ }
def toChip2 : Tok := { tok 0 (.engine 0 0 0) with hdr := mkHdr 2 0 0 0 4 0 false }

/-- Chip 2 is reached through link port 0, which has this state and these unconfirmed frames. -/
def routedTo (up : Bool) (unconf : List (BitVec 576 × Nat × W64)) (d : Dyn) : Dyn :=
  { d with tk := { d.tk with flight := [toChip2], routes := [(2, 1)] }, lk := { d.lk with ports := [(0, { Link.init with up := up, unconf := unconf })] } }

theorem witness_TokenArrivesAndIsAcknowledged :
    (∀ x ∈ [(0, 0), (0xF00, 0), (0xF80, 1), (0xF90, 2)], let t := tok x.1 (.engine 0 0 0)
      let s := on (fun d => { d with tk := { d.tk with flight := [t] } })
      s.m.d.tk.flight[0]? = some t ∧ endsHere s.m.cfg t = true ∧ intakeOf t = x.2 ∧ linkRefused s.m.cfg t = none ∧
      unitWaits s.fresh 0x03 (rootUnit 5) = false ∧ unitWaits s.fresh 0x03 (rootUnit 6) = false) ∧
    (∀ n ∈ [0, 7, 8], let q := { rqueue 0 with toks := List.replicate n (tok 0 (.engine 0 0 0)) }
      let s := on (fun d => { d with tk := { d.tk with queues := [(qKey 0 0, q)] } })
      getQ s.fresh (qKey 0 0) = q ∧ q.isOpen = true ∧ q.leaf = hDest (tok 0 (.engine 0 0 0)).hdr ∧ isRootRef 0 = false) ∧
    (getQ srv.fresh (qKey 0 0)).isOpen = false ∧ linkRefused srv.m.cfg (tok 48 (.link 0 3)) = some 0 ∧
    srv.m.d.tk.flight[0]? = none ∧ unitWaits (on (recWaits 0x03 (rootUnit 5))).fresh 0x03 (rootUnit 5) = true := by decide +kernel

theorem witness_TokenArrivesAndIsAcknowledged_forward :
    (∀ up : Bool, let s := on (routedTo up [])
      let p := portOfPair s.m.d.lk.key.toNat (sLeaf toChip2.src) (hChip toChip2.hdr) (hDest toChip2.hdr) (hQ toChip2.hdr) 1
      s.m.d.tk.flight[0]? = some toChip2 ∧ endsHere s.m.cfg toChip2 = false ∧
      (tgetD s.m.d.tk.routes (hChip toChip2.hdr) 0).toNat = 1 ∧ linkOk s.m.cfg s.fresh p = up ∧ (getLink s.fresh p).unconf.length < 64) ∧
    64 ≤ (getLink (on (routedTo true (List.replicate 64 (0, 1, 0)))).fresh 0).unconf.length ∧
    (tgetD srv.m.d.tk.routes (hChip toChip2.hdr) 0).toNat = 0 ∧
    (∀ x ∈ [Sender.engine 0 0 0, .comb 0 0 0, .tally 0 0 0, .sfu 0, .link 0 3], let a : Ack := { tok := tok 0 x, status := .ok }
      (on (fun d => { d with tk := { d.tk with acks := [a] } })).m.d.tk.acks[0]? = some a ∧ a.tok.sender = x) := by decide +kernel

/-! ### Signals and circular regions -/

theorem witness_SignalOperations :
    (let s := engaged nearlyFull
     presents s 0 (pkt id) = true ∧ unitWaits s.fresh 0x10 (rootUnit 7) = false ∧
     (∀ code ∈ [4, 5], let look (id : Nat) := mapLookup s.m.cfg false (putOp s.fresh 0 0 (opOf code id)) (mapKey 0 id)
      (look 0).1.map sigOf = some (some 8191) ∧ (look 1).1.map sigOf = some none ∧ (look 16).1 = none ∧
      (let d := (look 0).2
       rebasing d (.signal 8191) = false ∧ (getSig d 8191).ecc = false ∧ d.sg.takes.length < 4096 ∧
       dist32 (getSig d 8191).taken (getSig d 8191).raised + 1 < 2 ^ 32 ∧
       2 ^ 32 ≤ dist32 (getSig d 8191).taken (getSig d 8191).raised + 2))) ∧
    (let s := engaged (fun d => { nearlyFull d with sg := { (nearlyFull d).sg with rebases := [(.signal 8191, 1)] } })
     rebasing s.fresh (.signal 8191) = true) ∧
    (∀ since ∈ [0, 1], let t : PendTake := { ctr := 8191, leaf := 0, opslot := 7, n := 1, timed := true, since := w64 since }
     let o := opOf 5 (2 ^ 32)
     let s := on (fun d => let d := holding [pkt id] (fun e => { e with ops := [(7, o)] }) d
       { d with fc := 1, sg := { d.sg with takes := [t] } })
     s.m.d.sg.takes.find? (fun t => t.leaf = 0 && t.opslot = 7 && t.timed) = some t ∧ getOp s.fresh 0 7 = some o ∧
     decide (bits o.arg.toNat 32 21 ≤ cyclesSince s.fresh t.since) = (since == 0)) := by decide +kernel

/-- Region 4095, valid, of 16 slots for context 0, with these counts. -/
def region (v p c : W32) : CReg := { CReg.init with entry := BitVec.ofNat 128 (1 + 16 * 2 ^ 80), v := v, p := p, c := c }
def regioned (x : CReg) : State := engaged (fun d => { d with sg := { d.sg with cregs := [(4095, x)] } })

theorem witness_CircularRegionsAndRebase :
    (let s := regioned (region 3 2 1)
     let x := getCr s.fresh 4095
     presents s 0 (pkt id) = true ∧ rebasing s.fresh (.creg 4095) = false ∧ x.ecc = false ∧ x.valid = true ∧ x.ctx = (pkt id).ctx ∧
     1 ≤ dist32 x.p x.v ∧ dist32 x.p x.v < 2 ∧ 1 ≤ dist32 x.c x.p ∧ dist32 x.c x.p < 2 ∧ crPending s.fresh 4095 < 64 ∧
     2 ≤ x.p.toNat ∧ x.p.toNat < 3) ∧
    (getCr srv.fresh 4095).valid = false ∧ (getCr (regioned { region 3 2 1 with ecc := true }).fresh 4095).ecc = true ∧
    (let w : PendCr := { creg := 4095, leaf := 1, opslot := 0, wait := true, n := 9, timed := false, since := 0 }
     let s := on (fun d => { d with sg := { d.sg with cregs := [(4095, region 3 2 1)], crWaits := List.replicate 64 w } })
     64 ≤ crPending s.fresh 4095 ∧ acquireWaits s.fresh 4095 16 = true) ∧
    (∀ since ∈ [0, 1], let w : PendCr := { creg := 4095, leaf := 0, opslot := 7, wait := true, n := 9, timed := true, since := w64 since }
     let o := { opOf 8 0 with timeout := 1 }
     let s := on (fun d => let d := holding [pkt id] (fun e => { e with ops := [(7, o)] }) d
       { d with fc := 1, sg := { d.sg with cregs := [(4095, region 3 2 1)], crWaits := [w] } })
     s.m.d.sg.crWaits.find? (fun w => w.leaf = 0 && w.opslot = 7 && w.timed) = some w ∧ getOp s.fresh 0 7 = some o ∧
     decide (o.timeout ≤ cyclesSince s.fresh w.since) = (since == 0)) := by decide +kernel

theorem witness_CircularRegionsAndRebase_rebase :
    (∀ t ∈ [2 ^ 24 - 1, 2 ^ 24, 2 ^ 31], let x := region (w32 t) (w32 t) (w32 t)
      let s := regioned x
      pairTaken s.fresh (.creg 4095) = some t ∧ rebasing s.fresh (.creg 4095) = false ∧ s.m.d.sg.rebases.length < 16 ∧
      rebaseUrgent s.fresh (.creg 4095) = false) ∧
    pairTaken srv.fresh (.creg 4095) = none ∧
    (∀ o ∈ [PairObj.signal 8191, .creg 4095],
      let s := on (fun d => { d with sg := { d.sg with cregs := [(4095, region 16 16 16)], rebases := [(o, 16)] } })
      rebasing s.fresh o = true ∧ s.m.d.sg.rebases.find? (fun r => r.1 = o) = some (o, 16)) := by decide +kernel

/-! ### Combining, routing, the function unit -/

/-- A closed tag of queue 1023 whose entry is `e`. -/
def closedTag : Tag := { Tag.new 1023 65535 with st := .closed }
def combining (e : Nat) : State :=
  on (fun d => { d with cb := { d.cb with queues := [(1023, w256 e)], tags := [closedTag], intake := [tok 0xF00 (.engine 0 0 0)] } })

theorem witness_ContributionsAndResults :
    unitWaits srv.fresh 0x03 (rootUnit 4) = false ∧ (combining 1).m.d.lk.pendKey = none ∧
    (let t := { closedTag with st := .keyHeld 1 }
     ([t].find? (fun t => t.q = 1023 && t.st.isKeyHeld)) = some t) ∧
    (combining 1).m.d.cb.intake = tok 0xF00 (.engine 0 0 0) :: [] ∧ summaryFull (combining 1).fresh = false ∧
    (∀ x ∈ [(1, 0), (1 + 2 ^ 8 + 32 * 2 ^ 133, 1), (1 + 2 ^ 8 + 48 * 2 ^ 133, 1)], let s := combining x.1
      s.m.d.cb.tags.find? (fun t => t.q = 1023 && t.tag = 65535 && t.st == .closed) = some closedTag ∧
      unitWaits s.fresh 0x10 (rootUnit 4) = false ∧ qDeliver (qEntry s.fresh 1023) = x.2 ∧
      (∀ y ∈ s.m.d.cb.tags, y.q = 1023 → y.st.isSending = false) ∧
      s.m.cfg.local (resultTok s.m.cfg (qEntry s.fresh 1023) closedTag 0).hdr = true) ∧
    (let h (e : Nat) : W64 := (resultTok srv.m.cfg e closedTag 0).hdr
     noRoute srv.m.cfg srv.fresh (combRef 1023) (h (1 + 2 ^ 8 + 32 * 2 ^ 133)) = false ∧
     noRoute srv.m.cfg srv.fresh (combRef 1023) (h (1 + 2 ^ 8 + 48 * 2 ^ 133)) = true) := by decide +kernel

/-- A STAT of one row of finish 0 over queue 0, and its control block of OUTFMT 0. -/
def stat0 (f : Stat → Stat) : Stat :=
  f { slot := 0, g := 0, rows := 1, dst := 0, finish := 0, rms := false, fast := false, combq := 0, qs := [(0, w256 (1 + 2 ^ 8 * 2 + 6 * 2 ^ 4))],
      block := none, got := [], ready := [], finished := 0, writesOut := 0, banks := 0 }
def statting (x : Stat) (bytes : Option (List Byte)) (err : Bool) : State :=
  on (fun d => { d with sf := { d.sf with stats := [x] },
                        bus := { d.bus with reads := match bytes with
                                                     | some b => [readJob (.statBlock 0 0) (some b) err]
                                                     | none => [] } })

theorem witness_StatAndFunctionResults :
    unitWaits srv.fresh 0x03 (rootUnit 6) = false ∧ getStat srv.fresh 0 = none ∧
    (let x := stat0 (fun x => { x with fast := true, block := some 0, got := [(0, (1, 0, true, .ok))], ready := [0] })
     x.fast = true ∧ 0 < x.comps.length ∧ (tgetD x.got 0 (0, 0, false, .ok)).2.2.1 = true) ∧
    (let x := stat0 (fun x => { x with got := [(0, (1, 0, false, .digestMismatch))] })
     (tvals x.got).find? (fun v => v.2.2.2 ≠ .ok) = some (1, 0, false, .digestMismatch)) ∧
    (∀ x ∈ [(0, false), (0, true), (6 * 2 ^ 64, false)], let s := statting (stat0 id) (some (leBytes 32 x.1)) x.2
      getStat s.fresh 0 = some (stat0 id) ∧ (readDone s.fresh (.statBlock 0 0)).any (fun j => j.err = x.2) = true ∧
      statBlockOk (stat0 id) x.1 = (x.1 == 0)) ∧
    (let x := stat0 (fun x => { x with block := some 0, got := [(0, (1, 0, false, .ok))], ready := [0] })
     let s := statting x none false
     getStat s.fresh 0 = some x ∧ getStat (consumeAll s.fresh 0 0) 0 = some x ∧ (∀ v ∈ tvals x.got, v.2.2.2 = .ok) ∧ x.ready = 0 :: [] ∧
     x.fast = false) ∧
    (let x := stat0 (fun x => { x with block := some 0, finished := 1 })
     getStat (statting x none false).fresh 0 = some x ∧ x.finished = x.rows ∧ x.writesOut = 0) ∧
    (let r : EvalReq := { n := 0, tok := tok 0xF90 (.engine 0 0 0), bank := false, sent := false }
     let s := on (fun d => { d with sf := { d.sf with intake := [r] } })
     unitWaits s.fresh 0x10 (rootUnit 6) = false ∧ s.m.d.sf.intake.find? (fun r => !r.sent && !(s.m.d.sf.intake.any (fun x =>
       x.sent && samePair (resultHdr s.m.cfg x.tok) (resultHdr s.m.cfg r.tok)))) = some r) := by decide +kernel

/-- A ROUTE whose token 1, the second half, has these four logits. -/
def scoring (ls : List W32) : Route := { route0 with complete := [1], bufs := [(1, (upFrom 0 4).zip ls)] }

theorem witness_ExpertRouting_scores :
    (∀ x ∈ [([0x7FC00000, 0, 0, 0], false), ([0x3F800000, 0, 0x40000000, 0], true)], let s := on (routed (scoring x.1))
      getRoute s.fresh 0 0 = some (scoring x.1) ∧ (scoring x.1).complete = 1 :: [] ∧
      (scores s.fresh (lSoftmax (scoring x.1).e) (tvals (tgetD (scoring x.1).bufs 1 []))).isSome = x.2) ∧
    (match elemValue 2 (lTheta route0.e) with
     | .num a _ => decide (a = 0)
     | _ => false) = true := by decide +kernel

/-- The ROUTE with a closed tile of expert 3 and this gazetteer cache, and staging slots of 1 byte. -/
def waitingTile : Tile := { j := 0, expert := 3, half := 0, recs := [], st := .waiting, age := 0 }
def staging (g : Tab Gaz) : State :=
  cfgd (fun k => { k with stageSize := 4, stageSlot := 1 })
    (on (fun d => { routed { route0 with tiles := [waitingTile] } d with rt := { (routed { route0 with tiles := [waitingTile] } d).rt with gcache := g } }))

theorem witness_ExpertRouting :
    unitWaits srv.fresh 0x03 (rootUnit 5) = false ∧
    (let r := { route0 with lists := [(6, [0])] }
     ∀ g ∈ ([[], [(3, { entry := 3, use := 0 })], [(3, { entry := 2, use := 0 })]] : List (Tab Gaz)),
       let s := on (fun d => { routed r d with rt := { (routed r d).rt with gcache := g } })
       s.m.d.rt.routes.filter (fun r => r.needs 3) = [r] ∧ s.m.d.rt.routes.filter (fun r => r.needs 4) = [] ∧
       (gazOf s.fresh 3).map (fun x => gValid x.entry.toNat) = g.head?.map (fun x => x.2.entry == 3) ∧ gazReading s.fresh 3 = false ∧
       gazSetFull s.fresh 3 = false) ∧
    (let s := staging [(3, { entry := 3, use := 0 })]
     let t := cfgd (fun k => { k with boot := { k.boot with slots := [(0, 0x80)] } }) s
     waitingOn s.fresh 3 = (0, 0) :: [] ∧ (stageChoice s.m.cfg s.fresh).isSome = true ∧ gTier (gazEntry s.fresh 3) = 1 ∧
     summaryFull s.fresh = false ∧ hasDma s.m.cfg = true ∧ hasDma t.m.cfg = false ∧ waitingOn s.fresh 4 = []) ∧
    (let w := writeJob (.tile 0 0 0)
     (on (fun d => { d with bus := { d.bus with writes := [w] } })).m.d.bus.writes.find? (fun w => w.use = .tile 0 0 0) = some w) := by
  decide +kernel

/-! ### Chainage, the timestamp, the standing service -/

/-- Watches of stream 15 whose target is 1 and whose counter stands at `v`. -/
def watch15 : Watch := { slot := 0, g := 0, task := 0, stream := 15, target := 1, found := none, fired := false }
def svcWatch15 : SvcWatch := { order := 0, rseq := 0, stream := 15, target := 1, found := none }
def watching (v : W64) (f : Chainage → Chainage) : State :=
  on (fun d => { live .armed 0 d with ch := f { d.ch with chain := if v = 0 then [] else [(15, v)] } })

theorem witness_ChainageAndWatches :
    srv.m.cfg.inReset = false ∧ srv.m.cfg.frozen = false ∧ srv.m.cfg.doze = .awake ∧ frozen.m.cfg.frozen = true ∧
    (let s := cfgd (fun k => { k with doze := .dozing }) (watching 0 (fun h => { h with release := [watch15] }))
     s.m.cfg.doze ≠ .awake ∧
     foundCount s.m.d < foundCount (watchTest { s.fresh with ch := { s.m.d.ch with chain := tset s.m.d.ch.chain 15 (chain s.fresh 15 + 1) 0 } })) ∧
    (let s := watching 1 (fun h => { h with release := [watch15] })
     (firing (watchTest s.fresh).ch.release).length = 1 ∧ readyRoom (watchTest s.fresh) 0 0 = true) ∧
    (firing (watchTest (watching 1 (fun h => { h with sect := [watch15] })).fresh).ch.sect).length = 1 ∧
    (svcFiring (watchTest (watching 1 (fun h => { h with expiry := [svcWatch15] })).fresh).ch.expiry).length = 1 ∧
    (svcFiring (watchTest (watching 1 (fun h => { h with admission := [svcWatch15] })).fresh).ch.admission).length = 1 ∧
    (let s := on (fun d => { d with ts := 5 })
     reached 4 s.m.d.ts = false ∧ reached 5 s.m.d.ts = true ∧ tsHeld s.fresh = false) ∧
    firing [] = [] ∧ rpRoom srv.fresh 4 false = true ∧ readyRoom srv.fresh 0 0 = true := by decide +kernel

/-- A service request that is admissible at once, with one step to run. -/
def svcReq0 : BitVec 512 := BitVec.ofNat 512 (2 ^ 384)
def stepRet : Ret := { ret 0 0 with svc := true }

theorem witness_ServiceSteps :
    (let s := on (serviced (fun v => { v with reqTail := 1 }))
     s.m.d.sv.snapDue = true ∧ rpRoom s.fresh 1 false = true ∧ (svcSnap s.fresh).sv.reqHead ≠ (svcSnap s.fresh).sv.reqSnap ∧
     (svcSnap s.fresh).sv.run = true ∧ (svcSnap s.fresh).sv.window = [] ∧ (svcSnap s.fresh).sv.stopping = none ∧
     rpRoom (svcSnap s.fresh) 3 false = true ∧
     svcReqOk svcReq0 = true ∧ svcReqOk 0 = false) ∧
    (let s := on (serviced (fun v => { v with window := [{ w := svcReq0, order := 0, admissible := true, expired := false }] }))
     s.m.d.sv.atBoundary = true ∧ s.m.d.sv.results = [] ∧ rpRoom s.fresh 1 false = true ∧
     (flushResults s.m.cfg [] (fillBatch (modSv s.fresh (fun v => { v with stepDone := false })))).sv.batch ≠ []) ∧
    (let s := on (fun d => { serviced (fun v => { v with writing := true }) d with bus := { d.bus with writes := [writeJob .batchTab] } })
     s.m.d.sv.writing = true ∧ s.m.d.lt.reqs.length < 256 ∧ (∃ j ∈ s.m.d.bus.writes, j.use = .batchTab)) ∧
    (let s := on (fun d => { serviced (fun v => { v with inFlight := true }) d with lt := { d.lt with rets := [stepRet] } })
     stepReturn s.fresh = some stepRet ∧ s.m.d.sv.inFlight = true) := by decide +kernel

/-! ### Links, the memory ports, observation -/

/-- Link port 0, up, with these unconfirmed frames, a confirmation owed since cycle 0 or none, in cycle `fc`. -/
def frame (kind : Nat) (seq : W32) : BitVec 576 := sealFrame (kind * 2 ^ 448) seq 0
def linked (us : List (BitVec 576 × Nat × W64)) (owed : Bool) (fc : Nat) : State :=
  on (fun d => { d with fc := w64 fc, lk := { d.lk with ports := [(0, { Link.init with up := true, unconf := us, owed := owed })] } })

theorem witness_LinksAndMemoryPorts :
    (let s := linked [] true 256
     linkOk s.m.cfg s.fresh 0 = true ∧ linkWaits s.m.cfg s.fresh 0 = false ∧ (getLink s.fresh 0).owed = true ∧
     cyclesSince s.fresh (getLink s.fresh 0).owedFrom = 256 ∧ cyclesSince (linked [] true 255).fresh 0 = 255 ∧
     (getLink (confirmTo s.fresh 0 0) 0).rxSeq = 0 ∧ (getLink (confirmTo s.fresh 0 0) 0).unconf = [] ∧ (tget s.m.cfg.boot.links 0).isSome = true ∧
     8 < s.m.cfg.build.linkMax) ∧
    (linked [] false 0).m.cfg.boot.chipId = 0 ∧ hChip (w64 (2 ^ 56 - 1)) ≠ 0 ∧ linkOk srv.m.cfg srv.fresh 0 = false ∧ tget srv.m.cfg.boot.links 1 = none ∧
    (∀ x : Bool, let s := on (fun d => { d with lk := { d.lk with ports := [(0, { Link.init with up := true, discarding := x })] } })
      (getLink (confirmTo s.fresh 0 0) 0).discarding = x) ∧
    linkWaits srv.m.cfg (on (fun d => { d with fs := { d.fs with
      waiting := [{ record := { frec 0x0A .linkDigest (unitOf 0) with detail := 0 }, outs := [], late := [] }] } })).fresh 0 = true ∧
    (∀ n ∈ [2, 3], let s := linked [(frame 1 0, n, 0)] false 4096
      (getLink (confirmTo s.fresh 0 0) 0).unconf = (frame 1 0, n, 0) :: [] ∧ summaryFull s.fresh = false ∧ cyclesSince s.fresh 0 = 4096) := by
  decide +kernel

theorem witness_LinksAndMemoryPorts_held :
    summaryFull (allRecs (linked [(frame 1 0, 3, 0)] false 0).fresh) = true := witness_LaunchEnds_held

theorem witness_LinksAndMemoryPorts_frames :
    (∀ x ∈ [(1, 0), (2, 1), (3, 0), (4, 0)], let f := frame x.1 (w32 x.2)
      fCheck f = frameCheck f.toNat ∧ fKind f = x.1 ∧ fSeq f = w32 x.2) ∧ fCheck 0 ≠ frameCheck 0 := by decide +kernel

/-- The acknowledgement of the token that closed tag 65535 of queue 1023 has sent, with a status code, and that tag. -/
def ackFrame (status : Nat) : BitVec 576 :=
  sealFrame (65535 * 2 ^ 17 + combRef 1023 * 2 ^ (64 + 37) + 2 * 2 ^ 448 + status * 2 ^ 456 + 7 * 2 ^ 464) 0 0

theorem witness_LinksAndMemoryPorts_acknowledged :
    (∀ st ∈ [0, 255], let f := ackFrame st
      let s := on (fun d => { d with cb := { d.cb with tags := [{ Tag.new 1023 65535 with st := .sending 0 }] } })
      ackSender s.fresh (fHdr f) (fSrc f) (fOpslot f) = some (.comb 1023 65535 0) ∧ (Status.ofCode (fStatus f)).isSome = (st == 0)) ∧
    (let f := ackFrame 0
     ackSender srv.fresh (fHdr f) (fSrc f) (fOpslot f) = none) := by decide +kernel

theorem witness_LinksAndMemoryPorts_memory :
    (let j := readJob (.ringFetch 0 0) none false
     (on (fun d => { d with bus := { d.bus with reads := [j] } })).m.d.bus.reads.find?
       (fun j => j.port = .host && j.tag = 0 && j.shown && j.data.isNone) = some j ∧ (List.replicate 64 (0 : Byte)).length = j.len ∧
     srv.m.d.bus.reads.find? (fun j => j.port = .host && j.tag = 0 && j.shown && j.data.isNone) = none) ∧
    summaryFull srv.fresh = false ∧
    srv.m.d.bus.writes.find? (fun j => j.port = .host && j.tag = 0) = none ∧
    (∀ u ∈ [WrUse.statRow 0 0, .map], let j := writeJob u
      (on (fun d => { d with bus := { d.bus with writes := [j] } })).m.d.bus.writes.find? (fun j => j.port = .host && j.tag = 0) = some j) := by
  decide +kernel

/-- In phase 4, with the image's first bytes read and the read of more of it out. -/
def imaging (got : List Byte) : State :=
  let s := phased .p4
  { s with m := { cfg := { s.m.cfg with fwImage := got }, d := { s.m.d with bus := { s.m.d.bus with reads := [readJob .fwImage none false] } } } }

theorem witness_LinksAndMemoryPorts_image :
    (imaging []).m.cfg.serving = false ∧ (imaging []).m.cfg.booting .p4 = true ∧ (phased .p5).m.cfg.booting .p4 = false ∧
    (imaging []).m.d.bus.reads.find? (fun j => j.port = .host && j.tag = 0 && j.use = .fwImage) = some (readJob .fwImage none false) ∧
    (phased .p4).m.d.bus.reads.find? (fun j => j.port = .host && j.tag = 0 && j.use = .fwImage) = none ∧
    (let i := ([] : List Byte) ++ fwBytes.take 64
     i.length = 64 ∧ imageLenOk i = true ∧ leAt i 8 4 = 43521) ∧
    (∀ n ∈ [0, 64], (let i := ([] : List Byte) ++ List.replicate n 0
     ¬ (i.length = 64 ∧ imageLenOk i = true ∧ 64 < leAt i 8 4))) ∧ (imaging (fwBytes.take 64) |>.m.cfg.fwImage.length) = 64 := by
  decide +kernel

/-- Context 0 asks to inspect entry `idx` of an object. -/
def inspecting (obj idx : Nat) : State := asks [rq 0 cInspect (obj + idx * 2 ^ 32)]

theorem witness_Observation :
    (∀ x ∈ [(0, 0x278, true), (1, 0, true), (1, 1, false), (2, 1023, true), (2, 1024, false), (3, 65535, true), (3, 65536, false), (4, 0, false)],
      let s := inspecting x.1 x.2.1
      let q := rq 0 cInspect (x.1 + x.2.1 * 2 ^ 32)
      frontOp s.fresh 0 cInspect = some q ∧
      (inspectParts s.m.cfg s.fresh (opn q.ops 16 1) (opn q.ops 20 4)).isSome = x.2.2) ∧ frontOp srv.fresh 0 cInspect = none := by
  decide +kernel

theorem witness_Observation_trace :
    srv.m.d.fc.toNat % 2 ^ srv.m.cfg.pcsLog2.toNat = 0 ∧ srv.m.cfg.pcsEn = false ∧ (cfgd (fun k => { k with pcsEn := true }) srv).m.cfg.pcsEn = true ∧
    (on (fun d => { d with fc := 1 })).m.d.fc.toNat % 2 ^ srv.m.cfg.pcsLog2.toNat ≠ 0 ∧
    srv.m.d.tr.dropped = 0 ∧ srv.m.d.tr.buf = [] ∧ (∀ j ∈ srv.m.d.bus.writes, isSpill j = false) ∧
    (∀ n ∈ [4064, 4065],
      let s := cfgd (fun k => { k with traceSpill := true, spillLog2 := 12 })
        (on (fun d => { d with tr := { d.tr with buf := [7], dropped := 1, spillTail := w32 n } }))
      s.m.d.tr.dropped ≠ 0 ∧ traceRoom s.m.cfg s.fresh = true ∧ s.m.d.tr.buf = 7 :: [] ∧ s.m.cfg.traceSpill = true ∧
      decide (dist32 s.m.d.tr.spillHead s.m.d.tr.spillTail + s.m.d.tr.spillOut + 32 ≤ 2 ^ s.m.cfg.spillLog2.toNat) = (n == 4064)) ∧
    (let j := writeJob (.spill 32)
     (on (fun d => { d with bus := { d.bus with writes := [j] } })).m.d.bus.writes.find? isSpill = some j) := by decide +kernel

theorem witness_Observation_replay :
    srv.m.d.rp.stage = [] ∧ srv.m.cfg.replayEn = false ∧ (∀ j ∈ srv.m.d.bus.writes, isReplay j = false) ∧
    (let j := writeJob (.replay 4)
     (on (fun d => { d with bus := { d.bus with writes := [j] } })).m.d.bus.writes.find? isReplay = some j ∧ j.use = .replay 4) ∧
    (∀ n ∈ [1021, 1022], let r : RRec := { slots := [1, 2, 3], img := none, glob := false }
      let s := cfgd (fun k => { k with replayEn := true, replayLog2 := 10 }) (on (fun d => { d with rp := { d.rp with stage := [r], tail := w32 n } }))
      s.m.d.rp.stage = r :: [] ∧ r.img = none ∧ s.m.cfg.replayEn = true ∧ s.m.d.bus.writes = [] ∧
      decide (dist32 s.m.d.rp.head s.m.d.rp.tail + r.slots.length ≤ 2 ^ s.m.cfg.replayLog2.toNat) = (n == 1021)) := by decide +kernel
/-! ### The whole block -/

theorem witness_ConfigurationStaysLegal : Cfg.Legal State.reset.m.cfg :=
  { cblk := by decide, shfrac := by decide, hang := by decide, pcs := by decide, baud := ⟨by decide, nofun⟩, replay := nofun, det := nofun,
    spill := nofun, doze := fun h => absurd rfl h }

theorem witness_HealthChangesOnlyAsTheTableGives : ∃ t, exec (.nop 0) State.reset = .next t := ⟨_, rfl⟩

theorem witness_ConfigurationKept : ¬ WritesConfig (.nop 0) := id

/-! ### Worked examples of the spec -/

/-- Table 2.14: node words of launch slot 37 after instantiation. -/
def word37 (pend : Nat) (mask : W32) : NodeRec :=
  { mask := mask, flags := 0, affinity := 0xFFFF, launch := 37, shadow := false, evmode := false, epoch := 1, prio := 3, st := .armed,
    pend := pend, start := pend = 0 }

theorem test_node_words : (word37 0 0).word = 0xFFFF094013100000 ∧ (word37 2 0).word = 0xFFFF094013100002 ∧
    (word37 1 0x20).word = 0x0000002000000000FFFF094013100001 ∧ ({ word37 0 0 with st := .ready }).word = 0xFFFF094013200000 := by decide

/-- Chapter 2's example: edge 4 is DEC_EVT to node 4 with bit 5, and the header of node 0. -/
theorem test_edge_and_header : eKind 0x04500004 = 2 ∧ eBit 0x04500004 = 5 ∧ eSucc 0x04500004 = 4 ∧
    (let x : Desc := { w0 := 0x00010807000A0D03, w1 := 0, w2 := 0, w3 := 0 }
     x.op = kMove ∧ x.bodyWords = 1 ∧ x.prio = 3 ∧ x.target = 0x1000A ∧ x.cls = 3 ∧ x.affWait = 64 ∧ x.nRanges = 1 ∧ x.pin = false) := by
  decide

/-- Chapter 6's example: 262,656 at 262,400 and at itself, and a target that lies past the wrap. -/
theorem test_reached : reached 262400 262656 = false ∧ reached 262656 262656 = true ∧ reached 0xFFFFFFFFFFFFFFF0 0x100 = false ∧
    reached 0x100 0x100 = true := by decide

/-- Chapter 8's chunk of LAYER 19 on chip 0: the routing endpoint, channel 3, TAG 82, LEN 32. -/
theorem test_chunk_header : hDest 0x0000F80600A50000 = 0xF80 ∧ hQ 0x0000F80600A50000 = 3 ∧ hTag 0x0000F80600A50000 = 82 ∧
    hLen 0x0000F80600A50000 = 32 ∧ hChip 0x0000F80600A50000 = 0 := by decide

/-- Table 8.2: cap, floor and ties; scores as FP32, the threshold 0.5 in binary16. -/
def pick (ss : List W32) : List Nat :=
  match elemValue 2 0x3800 with
  | .num t _ => (selectExperts ((upFrom 0 8).zip ss) t 2 3).map (·.1)
  | _ => []

theorem test_selection :
    pick [0x3F1EB852, 0x3F35C28F, 0x3F1EB852, 0x3ECCCCCD, 0x3F35C28F, 0x3F0CCCCD, 0x3DCCCCCD, 0x3E99999A] = [1, 4, 0] ∧
    pick [0x3E99999A, 0x3E4CCCCD, 0x3DCCCCCD, 0x3EE66666, 0x3D4CCCCD, 0x3E19999A, 0x3EE66666, 0x3ECCCCCD] = [3, 6] := by decide +kernel

/-- Chapter 7's sum over two chips: queue 5 of chip 3 gives two XP tokens, which queue 9 of chip 7 adds to its own. -/
def entry5 : Nat := 1 + 6 * 2 ^ 4 + 1 * 2 ^ 8 + 1 * 2 ^ 130 + 0xF01 * 2 ^ 133 + 7 * 2 ^ 150 + 2 * 2 ^ 160
def entry9 : Nat := 1 + 1 * 2 ^ 4 + 4 * 2 ^ 160
def part (chip dest q : Nat) (v : W256) (dig : W64) : Tok :=
  { hdr := mkHdr chip dest q 0x40 4 0 false, src := mkSrc chip 0 0 0 0, payload := v, ddig := dig, sender := .engine 0 0 0 }
def tags5 : List Tag :=
  applyTok 3 entry5 (applyTok 3 entry5 [] (part 3 0xF00 5 0x71800000 (w64 (2 ^ 57)))) (part 3 0xF00 5 0x3FC00000 (w64 (3 * 2 ^ 20)))
def xp (i : Nat) : Option Tok := tags5.head?.map (fun t => resultTok { srv.m.cfg with boot := { chip with chipId := 3 } } entry5 t i)

theorem test_xp_tokens :
    (tags5.map (fun t => (t.st == .closed, t.a, digestBad entry5 t))) = [(true, 2 ^ 249 + 3 * 2 ^ 148, false)] ∧
    (xp 0).map (fun t => (t.hdr, t.payload)) = some (0x00E0F0120080A600, w256 (0x30 * 2 ^ 144)) ∧
    (xp 1).map (fun t => (t.hdr, t.payload)) = some (0x00E0F0120080AF00, w256 (0x02 * 2 ^ 88)) := by decide +kernel

def tags9 (ts : List Tok) : List Tag := ts.foldl (applyTok 7 entry9) []

theorem test_sum_over_two_chips :
    ((tags9 ([part 7 0xF01 1 0xF1800000 (w64 (max64 - 2 ^ 57)), part 7 0xF01 1 0x3E800000 (w64 (2 ^ 19))] ++ (xp 0).toList ++ (xp 1).toList)).map
      (fun t => (t.st == .closed, t.a, digestBad entry9 t, t.bytes entry9))) = [(true, 7 * 2 ^ 147, false, [0xE0, 0x3F])] := by
  decide +kernel

/-- The same four values through a FAST queue, in the order 2^100, 1.5, −2^100, 0.25. -/
theorem test_fast_sum :
    (([0x71800000, 0x3FC00000, 0xF1800000, 0x3E800000] : List W256).foldl (fun ts v => applyTok 7 (1 + 2 + 4 * 2 ^ 160) ts (part 7 0xF01 1 v 0)) []).map
      (·.fast) = [0x3E800000] := by decide +kernel

/-- Table 12.11: the signature of FSEQ 1,049. -/
def rec1049 : FRec :=
  { frec 0x08 .shadowMismatch 0x0959 with
    fseq := 1049, ctx := some 3, launch := some 212, node := some 0x30C85, eng := some 1, detail := 0x0004000000009361, ts := 0x00000A3C41F29B00 }
def chip1049 : State :=
  let s := on (fun d => { d with fs := { d.fs with hist := [(0x0959,
    { stamps := [1924930112 - 27 * 86400, 1924930112 - 12 * 86400, 1924930112], total := 3, failStamps := [], lastFailed := false,
      twice := false })] } })
  cfgd (fun k => { k with fwver := 0x00030102, ftv := 0x0103, now := 1924930112, shfrac := 3, boot := { k.boot with
    serial := [0x53, 0x50, 0x58, 0x32, 0x33, 0x30, 0x34, 0, 0, 0, 0, 0, 0, 1, 0x86, 0x2F] } }) s

theorem test_signature : signature chip1049.m.cfg chip1049.m.d rec1049 =
    [0xB5, 0x00, 0x01, 0x01, 0x50, 0x53, 0x50, 0x58, 0x32, 0x33, 0x30, 0x34, 0x00, 0x00, 0x00, 0x00, 0x00, 0x00, 0x01, 0x86, 0x2F,
     0x02, 0x1A, 0x00, 0x03, 0x01, 0x02, 0x03, 0x19, 0x01, 0x03, 0x04, 0xC1, 0x1A, 0x72, 0xBC, 0x1A, 0x40,
     0x05, 0x1B, 0x00, 0x00, 0x0A, 0x3C, 0x41, 0xF2, 0x9B, 0x00, 0x06, 0x19, 0x04, 0x19, 0x07, 0x08, 0x08, 0x08, 0x09, 0x00,
     0x0A, 0x19, 0x09, 0x59, 0x0B, 0x01, 0x0C, 0x03, 0x0D, 0x18, 0xD4, 0x0E, 0x1A, 0x00, 0x03, 0x0C, 0x85,
     0x0F, 0x48, 0x61, 0x93, 0x00, 0x00, 0x00, 0x00, 0x04, 0x00, 0x10, 0x01, 0x11, 0x83, 0x03, 0x00, 0x03, 0x12, 0xF4, 0x13, 0x03,
     0x14, 0x19, 0x09, 0x36] := by decide +kernel

/-- Chapter 11's step: the last word of its cairn record, MODE 0x82, FTV 0x0103, SEEDIDX 42, STEP 100,000. -/
theorem test_cairn : cairn 0x5C1E0A77D2B41963 0x0F3A92C46B18E705 0 100000 42 0x0103 0x82 =
    0x8203002A000186A000000000000000000F3A92C46B18E7055C1E0A77D2B41963 := by decide +kernel
end Sys2Proof.Tests
end

/-! ## The register window and the DCP's control space (R3, R5 to R7, R375, R386 to R389) -/

namespace Sys2Proof.Machine

/-! ### Host accesses: alignment -/

theorem answerRead_aligned (k : Cfg) (d : Dyn) (rid : Nat) {off size : Nat} (al : aligned off size = true) :
    answerRead k d off size rid = out (readValue k d off size rid).2 (.hostRead rid (w64 (readValue k d off size rid).1)) := by
  simp [answerRead, al]

theorem answerRead_misaligned (k : Cfg) (d : Dyn) (rid : Nat) {off size : Nat} (al : aligned off size = false) :
    answerRead k d off size rid = out d (.hostRead rid 0) := by
  simp [answerRead, al]

/-- Only a CTX_CANCEL waits for its replay record, and a 64-bit write at its offset is aligned. -/
theorem waitsReplay_misaligned (d : Dyn) (v : W64) {off size : Nat} (al : aligned off size = false) :
    waitsReplay d (.write off size v) = false := by
  rw [Bool.eq_false_iff]
  intro w
  simp only [waitsReplay, Bool.and_eq_true, decide_eq_true_eq] at w
  obtain ⟨⟨⟨⟨hsize, hpages⟩, hcancel⟩, -⟩, -⟩ := w
  simp only [inPages, Bool.and_eq_true, decide_eq_true_eq] at hpages
  rw [inPage] at hcancel
  simp [aligned, hsize] at al
  omega

theorem hostWrite_misaligned {s : State} (hs : s.hostOpen) (v : W64) {off size : Nat} (al : aligned off size = false) :
    hostWrite off size v s = .next (s.served s.fresh) := by
  rw [hostWrite, runBlock_eq, hostAccess_open hs _ (waitsReplay_misaligned _ v al), access, if_neg (by simp [al])]
  rfl

theorem hostRead_aligned {s : State} (hs : s.hostOpen) (rid : Nat) {off size : Nat} (al : aligned off size = true) :
    hostRead off size rid s = .next (s.served (out (readValue s.m.cfg s.fresh off size rid).2
      (.hostRead rid (w64 (readValue s.m.cfg s.fresh off size rid).1)))) := by
  rw [hostRead_open hs, answerRead_aligned _ _ _ al]

theorem hostRead_misaligned {s : State} (hs : s.hostOpen) (rid : Nat) {off size : Nat} (al : aligned off size = false) :
    hostRead off size rid s = .next (s.served (out s.fresh (.hostRead rid 0))) := by
  rw [hostRead_open hs, answerRead_misaligned _ _ _ al]

/-! ### The commands of an access -/

theorem exec_registerRead_host (off size : Nat) (rd : RegRead) (s : State) :
    exec (.registerRead (.host off) size rd) s = hostRead off size rd.rid s := rfl

theorem exec_counterRead (off size rid : Nat) (s : State) : exec (.counterRead off size rid) s = hostRead off size rid s := rfl

theorem exec_registerWrite_host (off size : Nat) (v : W64) (s : State) :
    exec (.registerWrite (.host off) size v) s = hostWrite off size v s := rfl

theorem exec_registerRead_dcp {s : State} (fw : s.m.cfg.fwRuns = true) (a n : Nat) (rd : RegRead) :
    exec (.registerRead (.dcp a) n rd) s = .next (s.servedBlock (dcpRead a n rd.hits s.block)) :=
  runFwBlock_open fw (fun b => tidy (dcpRead a n rd.hits b))

theorem exec_registerWrite_dcp {s : State} (fw : s.m.cfg.fwRuns = true) (a n : Nat) (v : W64) :
    exec (.registerWrite (.dcp a) n v) s = .next (s.servedBlock (dcpWriteReg a n v s.block)) :=
  runFwBlock_open fw (fun b => tidy (dcpWriteReg a n v b))

/-! ### Counters (R375) -/

section Counter
variable {k : Cfg} {off : Nat}

theorem is64_counter (hc : isCounter k off = true) (hp : inPages off = false) : is64 k off = true := by
  simp [is64, hc, hp]

/-- No other 64-bit register lies at a counter's offset. -/
theorem reg64_counter (d : Dyn) (hc : isCounter k off = true) (hp : inPages off = false) :
    reg64 k d off = (tgetD d.cnt off 0).toNat := by
  simp only [reg64, hp, Bool.false_eq_true, if_false]
  split
  case h_12 =>
    rw [if_neg (by simp [isCounter] at hc ⊢; omega), if_pos (by simp [hc])]
  all_goals simp [isCounter] at hc

/-- A sample clears the counter; that of BANK_SKEW also restarts the tallies of BANK_HOT (R375, R376). -/
theorem sampled_counter (d : Dyn) (hc : isCounter k off = true) :
    sampled k d off = { d with cnt := tdel d.cnt off, bankTally := if off = cBankSkew then [] else d.bankTally } := by
  rw [sampled, if_pos (by simp [hc])]
  by_cases h : off = cBankSkew
  · simp [h]
  · simp [h]

theorem readValue_counter_whole (d : Dyn) (rid : Nat) (hc : isCounter k off = true) (hp : inPages off = false) :
    readValue k d off 8 rid = ((tgetD d.cnt off 0).toNat,
      { d with cnt := tdel d.cnt off, bankTally := if off = cBankSkew then [] else d.bankTally }) := by
  simp only [readValue, is64_counter hc hp, if_true, reg64_counter d hc hp, sampled_counter d hc]

/-- A read of a counter's low half samples it and keeps the high half for the reader. -/
theorem readValue_counter_low (d : Dyn) (rid : Nat) (hc : isCounter k off = true) (hp : inPages off = false)
    (hs : off ≠ cBankSkew) :
    readValue k d off 4 rid = ((tgetD d.cnt off 0).toNat % p32,
      { d with cnt := tdel d.cnt off, latch := ((rid, off), w32 ((tgetD d.cnt off 0).toNat / p32)) ::
          d.latch.filter (fun e => e.1 ≠ (rid, off)) }) := by
  simp only [readValue, show (4 : Nat) ≠ 8 by decide, if_false, is64_counter hc hp, if_true, reg64_counter d hc hp,
    sampled_counter _ hc, hs, dropLatch]

end Counter

/-! ### Past the context pages the window holds no register (R5) -/

section PastPages
variable {off : Nat}

theorem inPages_past (h : 0x50000 ≤ off) : inPages off = false := by
  simp [inPages]; omega

theorem is64_past (k : Cfg) (h : 0x50000 ≤ off) : is64 k off = false := by
  simp [is64, isCounter, inPages_past h]; omega

theorem reg32_past (k : Cfg) (d : Dyn) (h : 0x50000 ≤ off) : reg32 k d off = 0 := by
  simp only [reg32, inPages_past h, Bool.false_eq_true, if_false]
  unfold global32
  split
  case h_40 => rfl
  all_goals omega

theorem write32_past (b : Block) (v : Nat) (h : 0x50000 ≤ off) : write32 b off v = b := by
  simp only [write32, inPages_past h, Bool.false_eq_true, if_false]
  unfold writeGlobal32
  split
  case h_19 => rfl
  all_goals omega

/-- The word below an upper half lies past the pages too. -/
theorem is64_low_past (k : Cfg) (h : 0x50000 ≤ off) : (off % 8 = 4 && is64 k (off - 4)) = false := by
  by_cases hm : off % 8 = 4
  · simp [is64_past k (show 0x50000 ≤ off - 4 by omega)]
  · simp [hm]

theorem readValue_past (k : Cfg) (d : Dyn) (size rid : Nat) (h : 0x50000 ≤ off) : readValue k d off size rid = (0, d) := by
  simp [readValue, is64_past k h, is64_low_past k h, reg32_past k d h, reg32_past k d (show 0x50000 ≤ off + 4 by omega)]

theorem applyWrite_past (b : Block) (size : Nat) (v : W64) (h : 0x50000 ≤ off) : applyWrite b off size v = b := by
  simp [applyWrite, is64_past b.cfg h, is64_low_past b.cfg h, write32_past _ _ h,
    write32_past _ _ (show 0x50000 ≤ off + 4 by omega)]

end PastPages

/-- HANG_LIMIT takes the low byte of what is written, and at least 2 (Table 13.2). -/
theorem hostWrite_hangLimit {s : State} (hs : s.hostOpen) (v : W64) :
    hostWrite 0x104 4 v s = .next (s.servedBlock
      { cfg := { s.m.cfg with hangLimit := BitVec.ofNat 8 (max 2 (v.toNat % 256)) }, d := s.fresh }) := by
  rw [hostWrite_global32 hs v (by decide) (by decide) (by simp [is64, inPages, isCounter])
    (fun _ => by simp [is64, inPages, isCounter])]
  have byte : v.toNat % p32 % 256 = v.toNat % 256 := Nat.mod_mod_of_dvd _ (by decide)
  simp only [writeGlobal32, setCfg, byte]
  rfl

/-! ### Reads of the DCP (R386 to R389) -/

theorem notHalted_of_fwRuns {k : Cfg} (fw : k.fwRuns = true) : k.dcpHalted = false := by
  simp only [Cfg.fwRuns, Bool.and_eq_true, Bool.not_eq_true'] at fw
  exact fw.2

/-- The words of the local SRAM in error that a read at an address meets (R338). -/
def sramMet (a : Nat) (hits : List Hit) : List Hit := hits.filter (fun h => h.word = .sram (a / 16) && a < sramBytes)

theorem sramMet_clean (a : Nat) {hits : List Hit} (h : Clean hits) : Clean (sramMet a hits) :=
  fun x hx => h x (List.mem_filter.mp hx).1

theorem dcpRead_waits {a : Nat} {hits : List Hit} {b : Block} (lost : (sramMet a hits).any (fun h => h.res == .uncorrectable) = true)
    (full : summaryFull b.d = true) (n : Nat) : dcpRead a n hits b = b :=
  if_pos (by rw [Bool.and_eq_true]; exact ⟨lost, full⟩)

/-- A read that waits for no record reports its words, and then reads unless one of them halted the DCP. -/
theorem dcpRead_reports {a : Nat} {hits : List Hit} {b : Block}
    (go : (sramMet a hits).any (fun h => h.res == .uncorrectable) = false ∨ summaryFull b.d = false) (n : Nat) :
    dcpRead a n hits b =
      if ((sramMet a hits).foldl sramHit b).cfg.dcpHalted then (sramMet a hits).foldl sramHit b
      else dcpReadReg a n ((sramMet a hits).foldl sramHit b) :=
  if_neg (by
    rw [Bool.and_eq_true]
    rintro ⟨lost, full⟩
    exact go.elim (fun clean => Bool.false_ne_true (clean.symm.trans lost)) (fun room => Bool.false_ne_true (room.symm.trans full)))

theorem sramHits_clean {hits : List Hit} (h : Clean hits) (b : Block) : hits.foldl sramHit b = b := by
  induction hits with
  | nil => rfl
  | cons a t ih =>
    have head : sramHit b a = b := by simp [sramHit, h a (by simp)]
    rw [List.foldl_cons, head]
    exact ih (fun x hx => h x (by simp [hx]))

theorem noneLost_clean {hits : List Hit} (h : Clean hits) : hits.any (fun x => x.res == .uncorrectable) = false :=
  List.any_eq_false.mpr (fun x hx => by simp [h x hx])

/-- With no word in error a running DCP's read is the read alone. -/
theorem dcpRead_clean {hits : List Hit} (h : Clean hits) (a n : Nat) {b : Block} (run : b.cfg.dcpHalted = false) :
    dcpRead a n hits b = dcpReadReg a n b := by
  have met := sramMet_clean a h
  rw [dcpRead_reports (.inl (noneLost_clean met)), sramHits_clean met, run, if_neg Bool.false_ne_true]

theorem exec_registerRead_dcp_clean {s : State} (fw : s.m.cfg.fwRuns = true) {hits : List Hit} (h : Clean hits) (a n rid : Nat) :
    exec (.registerRead (.dcp a) n ⟨rid, hits⟩) s = .next (s.servedBlock (dcpReadReg a n s.block)) := by
  rw [exec_registerRead_dcp fw, dcpRead_clean h a n (b := s.block) (notHalted_of_fwRuns fw)]

section DcpAccess
variable {a n : Nat}

theorem dcpReadReg_unassigned (b : Block) (r : dcpReaches a n = false) : dcpReadReg a n b = { b with d := out b.d .dcpFault } := by
  simp [dcpReadReg, r]

theorem dcpReadReg_system (b : Block) (r : dcpReaches a n = true) (h : sysBase ≤ a) :
    dcpReadReg a n b = { b with d := busReadOn .memory b.d (a - sysBase) n .dcp } := by
  simp [dcpReadReg, r, h]

/-- Below the system addresses a read answers. -/
theorem dcpReadReg_local (b : Block) (r : dcpReaches a n = true) (h : a < sysBase) (rx : a ≠ 0x2100A004) :
    dcpReadReg a n b = { b with d := out (useFree b.d sramBytes) (.dcpData (w64 (dcpValue b.cfg b.d a n))) } := by
  simp [dcpReadReg, r, Nat.not_le.mpr h, rx]

/-- A read of the monitor's receive register removes the character that it answers. -/
theorem dcpReadReg_monRx (b : Block) (r : dcpReaches a n = true) (rx : a = 0x2100A004) :
    dcpReadReg a n b = { b with
      d := out (useFree { b.d with mn := { b.d.mn with rx := b.d.mn.rx.tail } } sramBytes)
        (.dcpData (w64 (dcpValue b.cfg b.d a n))) } := by
  have low : ¬ sysBase ≤ a := by rw [rx]; decide
  simp only [dcpReadReg, r, low, if_pos rx, Bool.not_true, Bool.false_eq_true, if_false]

/-! ### Writes of the DCP -/

theorem dcpWriteReg_unassigned (v : W64) (b : Block) (r : dcpReaches a n = false) :
    dcpWriteReg a n v b = { b with d := out b.d .dcpFault } := by
  simp [dcpWriteReg, r]

theorem dcpWriteReg_system (v : W64) (b : Block) (r : dcpReaches a n = true) (h : sysBase ≤ a) :
    dcpWriteReg a n v b = { b with d := busWriteOn .memory b.d (a - sysBase) (leBytes n v.toNat) .dcp } := by
  simp [dcpWriteReg, r, h]

theorem dcpWriteReg_sram (v : W64) (b : Block) (r : dcpReaches a n = true) (h : a < sramBytes) :
    dcpWriteReg a n v b = { b with d := { b.d with
      ram := ((upFrom a n).zip (leBytes n v.toNat)).foldl (fun t x => tput t x.1 x.2) b.d.ram } } := by
  have low : ¬ sysBase ≤ a := by simp only [sramBytes, sysBase] at h ⊢; omega
  simp [dcpWriteReg, r, low, h]

/-- A register takes 4 bytes, or 8 as two of 4; a shorter write changes nothing. -/
theorem dcpWriteReg_register (v : W64) (b : Block) (r : dcpReaches a n = true) (h : sramBytes ≤ a) (h' : a < sysBase) :
    dcpWriteReg a n v b =
      if n = 4 then dcpWrite32 a (v.toNat % p32) b
      else if n = 8 then dcpWrite32 (a + 4) (v.toNat / p32) (dcpWrite32 a (v.toNat % p32) b)
      else b := by
  simp [dcpWriteReg, r, Nat.not_le.mpr h', Nat.not_lt.mpr h]

end DcpAccess

/-! ### The obligations -/

/-- Settles O21: neither an answer nor an effect looks past the test of alignment. -/
theorem misalignedAccessIgnored : Obligations.MisalignedAccessIgnored := by
  intro s off size rid v hits hs al
  exact ⟨hostRead_misaligned hs rid al, hostRead_misaligned hs rid al, hostWrite_misaligned hs v al⟩

/-- Settles O20: the gates are open, so that each access is its register operation, and the cases are those of `readValue`,
`applyWrite`, `dcpReadReg` and `dcpWriteReg`. -/
theorem registersReadAndWritten : Obligations.RegistersReadAndWritten := by
  constructor
  · intro s off rid hs
    refine ⟨fun size hits al => ?_, fun hc hp al => ?_, fun hc hp al _ skew => ?_, fun size v al w => ?_, fun v => ?_,
      fun size v hits past al => ?_⟩
    · exact ⟨hostRead_aligned hs rid al, hostRead_aligned hs rid al⟩
    · rw [exec_counterRead, hostRead_aligned hs rid al, readValue_counter_whole s.fresh rid hc hp]
      simp [w64, State.fresh]
    · rw [exec_counterRead, hostRead_aligned hs rid al, readValue_counter_low s.fresh rid hc hp skew]
      rfl
    · exact hostWrite_open hs al w
    · exact hostWrite_hangLimit hs v
    · constructor
      · rw [exec_registerRead_host, hostRead_aligned hs rid al, readValue_past _ _ _ _ past]
        rfl
      · rw [exec_registerWrite_host, hostWrite_open hs al (waitsReplay_global _ _ _ _ (inPages_past past)),
          applyWrite_past _ _ _ past, servedBlock_block]
  · intro s a n rid fw
    refine ⟨fun hits clean => ?_, fun hits => ?_, fun v => ?_⟩
    · simp only [exec_registerRead_dcp_clean fw clean]
      refine ⟨fun r => ?_, fun r sys => ?_, fun r low rx => ?_, fun r rx => ?_⟩
      · rw [dcpReadReg_unassigned _ r]; rfl
      · rw [dcpReadReg_system _ r sys]; rfl
      · rw [dcpReadReg_local _ r low rx]; rfl
      · rw [dcpReadReg_monRx _ r rx]; rfl
    · simp only [exec_registerRead_dcp fw]
      refine ⟨fun lost full => ?_, fun go => ?_⟩
      · rw [dcpRead_waits (b := s.block) lost full]
      · rw [dcpRead_reports (b := s.block) go]; rfl
    · simp only [exec_registerWrite_dcp fw]
      refine ⟨fun r => ?_, fun r sys => ?_, fun r sram => ?_, fun r low high => ⟨fun four => ?_, fun eight => ?_, fun short => ?_⟩⟩
      · rw [dcpWriteReg_unassigned v _ r]; rfl
      · rw [dcpWriteReg_system v _ r sys]; rfl
      · rw [dcpWriteReg_sram v _ r sram]; rfl
      · rw [dcpWriteReg_register v _ r low high, if_pos four]
      · rw [dcpWriteReg_register v _ r low high, if_neg (by omega), if_pos eight]
      · rw [dcpWriteReg_register v _ r low high, if_neg (by omega), if_neg (by omega)]

end Sys2Proof.Machine

/-! ## The ports of the launch table, of the firmware and of the controller (R17, R21, R299, R388, R389, R398, R405, R419, R447, R453) -/

namespace Sys2Proof.Machine

/-! ### The first element that satisfies a test -/

section MapFirst
variable {α : Type} {p : α → Bool} (f : α → α)

theorem mapFirst_of_none {l : List α} (no : ∀ x ∈ l, p x = false) : mapFirst p f l = l := by
  induction l with
  | nil => rfl
  | cons a t ih =>
    rw [mapFirst, no a (by simp), if_neg Bool.false_ne_true, ih (fun x hx => no x (by simp [hx]))]

theorem mapFirst_append_cons {pre : List α} {a : α} (no : ∀ x ∈ pre, p x = false) (yes : p a = true) (rest : List α) :
    mapFirst p f (pre ++ a :: rest) = pre ++ f a :: rest := by
  induction pre with
  | nil => exact if_pos yes
  | cons b t ih =>
    rw [List.cons_append, mapFirst, no b (by simp), if_neg Bool.false_ne_true, ih (fun x hx => no x (by simp [hx])), List.cons_append]

end MapFirst

/-! ### The launch table port (R299, R389) -/

/-- The request that a staged word gives (Table 13.22). -/
def stagedReq (w : BitVec 512) : Req :=
  { id := { c := bits w.toNat 16 6, r := bits w.toNat 24 3, dseq := w32 (bits w.toNat 32 32) }, svc := bit w.toNat 31,
    op := bits w.toNat 0 8, ops := BitVec.ofNat 384 (bits w.toNat 128 384), held := false }

theorem reqRoom_staged (w : BitVec 512) (d : Dyn) : reqRoom { d with lt := { d.lt with staged := w } } = reqRoom d := rfl

theorem ltReqPost_room (w : BitVec 512) (k : Cfg) {d : Dyn} (room : reqRoom d = true) :
    ltReqPost w k d = postReq { d with lt := { d.lt with staged := w } } (stagedReq w) :=
  if_neg (by rw [reqRoom_staged, room]; decide)

theorem ltReqPost_full (w : BitVec 512) (k : Cfg) {d : Dyn} (full : reqRoom d = false) :
    ltReqPost w k d = { d with lt := { d.lt with staged := w } } :=
  if_pos (by rw [reqRoom_staged, full]; decide)

/-- A pop takes the oldest return that the firmware still sees. -/
theorem ltRetPop_oldest (k : Cfg) {d : Dyn} {pre rest : List Ret} {r : Ret} (rets : d.lt.rets = pre ++ r :: rest)
    (seen : ∀ x ∈ pre, x.popped = true) (unseen : r.popped = false) :
    ltRetPop k d = { d with lt := { d.lt with rets := pre ++ { r with popped := true } :: rest } } := by
  rw [ltRetPop, rets, mapFirst_append_cons _ (fun x hx => by simp [seen x hx]) (by simp [unseen])]

theorem ltRetPop_none (k : Cfg) {d : Dyn} (seen : ∀ x ∈ d.lt.rets, x.popped = true) : ltRetPop k d = d := by
  rw [ltRetPop, mapFirst_of_none _ (fun x hx => by simp [seen x hx])]

theorem exec_ltReqPost {s : State} (h : s.firmware) (w : BitVec 512) :
    exec (.ltReqPost w) s = .next (s.served (ltReqPost w s.m.cfg s.fresh)) :=
  runSrvFw_open h _

theorem exec_ltRetPop {s : State} (h : s.firmware) : exec .ltRetPop s = .next (s.served (ltRetPop s.m.cfg s.fresh)) :=
  runSrvFw_open h _

/-! ### Freed returns leave the table (R17, R453) -/

theorem Ret.gone_of_used {r : Ret} (popped : r.popped = true) (used : r.fe = true ∨ 2 ≤ r.kind) : r.gone = true := by
  simpa [Ret.gone, Ret.spent, popped] using used

/-- A single return that is gone leaves the table, and its slot, where it has one, is freed. -/
theorem reapRets_head {d : Dyn} {r : Ret} {rest : List Ret} (rets : d.lt.rets = r :: rest) (gone : r.gone = true)
    (stay : ∀ x ∈ rest, x.gone = false) :
    reapRets d = r.slot.elim { d with lt := { d.lt with rets := rest } } (freeSlot { d with lt := { d.lt with rets := rest } }) := by
  have kept : rest.filter (fun x => !x.gone) = rest := List.filter_eq_self.mpr (fun x hx => by simp [stay x hx])
  have slots : rest.filterMap (fun x => if x.gone then x.slot else none) = [] :=
    List.filterMap_eq_nil_iff.mpr (fun x hx => by simp [stay x hx])
  cases slot : r.slot <;> simp [reapRets, rets, gone, slot, slots, kept]

theorem freeSlot_ended {d : Dyn} {n : Nat} {l : Launch} (atSlot : tget d.ls.slots n = some l) (ended : l.inFlight = false) :
    freeSlot d n = freeRows { d with ls := { d.ls with slots := tdel d.ls.slots n } } l := by
  simp [freeSlot, atSlot, ended]

/-! ### The firmware's ports (R388) -/

section FirmwarePorts
variable (k : Cfg) {d : Dyn} {s : State}

theorem monTx_room (ch : Byte) (room : d.mn.tx.length < 64) :
    monTx ch k d = { d with mn := { d.mn with tx := d.mn.tx ++ [ch] } } :=
  if_neg (Nat.not_le.mpr room)

theorem monTx_full (ch : Byte) (full : 64 ≤ d.mn.tx.length) : monTx ch k d = d := if_pos full

theorem monRxRead_none (rx : d.mn.rx = []) : monRxRead k d = out d (.dcpRead 0) := by
  rw [monRxRead, rx]

theorem monRxRead_oldest {ch : Byte} {rest : List Byte} (rx : d.mn.rx = ch :: rest) :
    monRxRead k d = out { d with mn := { d.mn with rx := rest } } (.dcpRead (w32 (ch.toNat + 2 ^ 8))) := by
  rw [monRxRead, rx]

theorem exec_monTx (fw : s.m.cfg.fwRuns = true) (ch : Byte) : exec (.monTx ch) s = .next (s.with (monTx ch s.m.cfg s.fresh)) :=
  runFw_open fw _

theorem exec_monRxRead (fw : s.m.cfg.fwRuns = true) : exec .monRxRead s = .next (s.with (monRxRead s.m.cfg s.fresh)) :=
  runFw_open fw _

theorem exec_trPost (fw : s.m.cfg.fwRuns = true) (w : W256) : exec (.trPost w) s = .next (s.with (trPost w s.m.cfg s.fresh)) :=
  runFw_open fw _

theorem exec_pwrReq (fw : s.m.cfg.fwRuns = true) (v : W32) : exec (.pwrReq v) s = .next { s with m := pwrReq v s.block } :=
  runFwBlock_open fw _

end FirmwarePorts

/-! ### The controller's port (R398, R447) -/

section ControllerPort
variable {b : Block} {s : State}

theorem mgtSigDataRead_none (sigs : b.d.fs.sigs = []) : mgtSigDataRead b = { b with d := out b.d (.mgtRead 0) } := by
  simp only [mgtSigDataRead, sigs]

theorem mgtSigDataRead_oldest {g : Nat × List Byte} {rest : List (Nat × List Byte)} (sigs : b.d.fs.sigs = g :: rest) :
    mgtSigDataRead b = { b with
      d := out { b.d with fs := { b.d.fs with sigPos := b.d.fs.sigPos + 4 } } (.mgtRead (w32 (leAt g.2 b.d.fs.sigPos 4))) } := by
  simp only [mgtSigDataRead, sigs]

theorem mgtSigAck_none (sigs : b.d.fs.sigs = []) : mgtSigAck b = b := by
  simp only [mgtSigAck, sigs]

theorem mgtSigAck_oldest {g : Nat × List Byte} {rest : List (Nat × List Byte)} (sigs : b.d.fs.sigs = g :: rest) :
    mgtSigAck b = { b with d := { b.d with fs := { b.d.fs with
      sigs := rest, sigPos := 0
      recs := tmod b.d.fs.recs g.1 (fun e => if e.served then { e with acked := true } else e) } } } := by
  simp only [mgtSigAck, sigs]

theorem exec_mgtTimeWrite (run : s.m.cfg.mgtRuns = true) (lo hi : W32) :
    exec (.mgtTimeWrite lo hi) s = .next { s with m := mgtTimeWrite lo hi s.block } :=
  runMgt_open run _

theorem exec_mgtSigDataRead (run : s.m.cfg.mgtRuns = true) : exec .mgtSigDataRead s = .next { s with m := mgtSigDataRead s.block } :=
  runMgt_open run _

theorem exec_mgtSigAck (run : s.m.cfg.mgtRuns = true) : exec .mgtSigAck s = .next { s with m := mgtSigAck s.block } :=
  runMgt_open run _

theorem exec_mgtStatusRead (run : s.m.cfg.mgtRuns = true) (health : Bool) :
    exec (.mgtStatusRead health) s = .next { s with m := mgtStatusRead health s.block } :=
  runMgt_open run _

end ControllerPort

/-! ### The obligations -/

/-- Settles O17: the cases are those of the free request entry, of the oldest return in view, and of the slot of a return that is gone
(log 91: a popped return stays until the front end has used it). -/
theorem launchTablePort : Obligations.LaunchTablePort := by
  intro s fw
  refine ⟨fun w => ⟨fun room => ?_, fun full => ?_⟩, fun pre r rest rets seen unseen => ?_, fun seen => ?_,
    fun d r rest rets popped used stay => ⟨fun slot => ?_, fun n l slot atSlot ended => ?_⟩⟩
  · rw [exec_ltReqPost fw, ltReqPost_room w _ room]; rfl
  · rw [exec_ltReqPost fw, ltReqPost_full w _ full]; rfl
  · rw [exec_ltRetPop fw, ltRetPop_oldest (d := s.fresh) _ rets seen unseen]; rfl
  · rw [exec_ltRetPop fw, ltRetPop_none (d := s.fresh) _ seen]
  · rw [reapRets_head rets (Ret.gone_of_used popped used) stay, slot]; rfl
  · rw [reapRets_head rets (Ret.gone_of_used popped used) stay, slot]
    exact freeSlot_ended atSlot ended

/-- Settles O26: each port is open, and its cases are those of the queue, the character or the signature that stands at it
(log 41: the controller's port is open out of reset and not frozen). -/
theorem firmwareAndControllerPorts : Obligations.FirmwareAndControllerPorts := by
  intro s
  constructor
  · intro fw
    refine ⟨fun ch room => ?_, fun ch full => ?_, fun ch rest rx => ?_, fun rx => ?_, fun w => ?_, fun v => ?_⟩
    · rw [exec_monTx fw, monTx_room (d := s.fresh) _ ch room]; rfl
    · rw [exec_monTx fw, monTx_full (d := s.fresh) _ ch full]
    · rw [exec_monRxRead fw, monRxRead_oldest (d := s.fresh) _ rx]; rfl
    · rw [exec_monRxRead fw, monRxRead_none (d := s.fresh) _ rx]
    · rw [exec_trPost fw]; rfl
    · rw [exec_pwrReq fw]; rfl
  · intro run
    refine ⟨fun lo hi => ?_, fun sigs => ⟨?_, ?_⟩, fun g rest sigs => ⟨?_, ?_⟩, ?_, ?_⟩
    · rw [exec_mgtTimeWrite run]; rfl
    · rw [exec_mgtSigDataRead run, mgtSigDataRead_none (b := s.block) sigs]; rfl
    · rw [exec_mgtSigAck run, mgtSigAck_none (b := s.block) sigs]; rfl
    · rw [exec_mgtSigDataRead run, mgtSigDataRead_oldest (b := s.block) sigs]; rfl
    · rw [exec_mgtSigAck run, mgtSigAck_oldest (b := s.block) sigs]; rfl
    · rw [exec_mgtStatusRead run]; rfl
    · rw [exec_mgtStatusRead run]; rfl

end Sys2Proof.Machine

/-! ## Graph commands, launches and operations of the counter banks (R34 to R38, R45, R46, R54, R61, R64,
R65, R70, R72, R73, R76, R85, R451) -/

namespace Sys2Proof.Machine

/-! ### The graph store when a request is taken -/

section TakenRequest
variable (k : Cfg) (d : Dyn)

theorem unholdRing_gs (id : CmdId) : (unholdRing d id).gs = d.gs := by
  unfold unholdRing
  split <;> rfl

theorem takeReq_gs (q : Req) : (takeReq d q).gs = d.gs := by
  unfold takeReq
  dsimp only
  split
  · rfl
  · exact unholdRing_gs _ _

/-- Drawing a key changes no graph (R70). -/
theorem graphKey_graphs (ops : BitVec 384) : (graphKey k d ops).2.gs.graphs = d.gs.graphs := by
  unfold graphKey
  split <;> rfl

end TakenRequest

/-! ### LOAD_GRAPH, UNLOAD_GRAPH and PATCH_GRAPH -/

section GraphRequests
variable {k : Cfg} {d : Dyn} {c : Nat} {q : Req} {g : Graph}

theorem loadGraph_free (front : frontOp d c cLoad = some q) (free : tget d.gs.graphs (gidOf q.ops) = none) {key : W64 × Dyn}
    (drawn : graphKey k (takeReq d q) q.ops = key) :
    loadGraph c k d = imageRequest k (putGraph key.2 (gidOf q.ops)
      (Graph.loading q.id (w64 (opn q.ops 24 8)) key.1 (k.health == .survey && fromFirmware key.2 q)))
      (ImageLoad.start q.id (w64 (opn q.ops 24 8)) 64) (.graphHdr (gidOf q.ops)) := by
  subst drawn
  rw [loadGraph, front]
  exact if_neg (by rw [graphKey_graphs, takeReq_gs, free]; decide)

theorem loadGraph_inUse (front : frontOp d c cLoad = some q) (inUse : (tget d.gs.graphs (gidOf q.ops)).isSome) {key : W64 × Dyn}
    (drawn : graphKey k (takeReq d q) q.ops = key) :
    loadGraph c k d = finish key.2 q.id cLoad .badDescriptor key.1.toNat := by
  subst drawn
  rw [loadGraph, front]
  exact if_pos (by rw [graphKey_graphs, takeReq_gs, inUse])

theorem unloadGraph_resident (front : frontOp d c cUnload = some q) (atId : tget d.gs.graphs (gidOf q.ops) = some g)
    (resident : g.st = .resident) (noPatch : g.patch = none) :
    unloadGraph c k d = unloadCheck k (putGraph (takeReq d q) (gidOf q.ops)
      { g with st := .unloading, patch := none, unload := some q.id }) (gidOf q.ops) := by
  simp only [unloadGraph, front, takeReq_gs, atId, resident, noPatch, ne_eq, not_true_eq_false, if_false]

theorem unloadGraph_patching (front : frontOp d c cUnload = some q) (atId : tget d.gs.graphs (gidOf q.ops) = some g)
    (resident : g.st = .resident) {x : ImageLoad} (patch : g.patch = some x) :
    unloadGraph c k d = unloadCheck k (putGraph
      (patchRefuse (dropRead (dropRead (takeReq d q) (.patchHdr (gidOf q.ops))) (.patchBody (gidOf q.ops))) (gidOf q.ops) g x.id
        .badDescriptor) (gidOf q.ops)
      { g with st := .unloading, patch := none, unload := some q.id }) (gidOf q.ops) := by
  simp only [unloadGraph, front, takeReq_gs, atId, resident, patch, ne_eq, not_true_eq_false, if_false]

theorem unloadGraph_notResident (front : frontOp d c cUnload = some q)
    (no : ∀ g, tget d.gs.graphs (gidOf q.ops) = some g → g.st ≠ .resident) :
    unloadGraph c k d = finish (takeReq d q) q.id cUnload .badDescriptor 0 := by
  simp only [unloadGraph, front, takeReq_gs]
  cases atId : tget d.gs.graphs (gidOf q.ops) with
  | none => rfl
  | some g => exact if_pos (no g atId)

theorem patchGraph_resident (front : frontOp d c cPatch = some q) (atId : tget d.gs.graphs (gidOf q.ops) = some g)
    (resident : g.st = .resident) (epochs : g.epochs.length < 4) (noPatch : g.patch = none) :
    patchGraph c k d = imageRequest k (putGraph (takeReq d q) (gidOf q.ops)
      { g with patch := some (ImageLoad.start q.id (w64 (opn q.ops 24 8)) 16) })
      (ImageLoad.start q.id (w64 (opn q.ops 24 8)) 16) (.patchHdr (gidOf q.ops)) := by
  have room : ¬ (decide (4 ≤ g.epochs.length) || g.patch.isSome) = true := by simp [noPatch, epochs]
  simp only [patchGraph, front, atId]
  rw [if_neg (not_not.mpr resident), if_neg room]

/-- A patch waits while its graph has four live epochs (R64) or another patch of it is being read (log 22). -/
theorem patchGraph_waits (front : frontOp d c cPatch = some q) (atId : tget d.gs.graphs (gidOf q.ops) = some g)
    (resident : g.st = .resident) (busy : 4 ≤ g.epochs.length ∨ g.patch.isSome) : patchGraph c k d = blockReq d q := by
  simp only [patchGraph, front, atId]
  rw [if_neg (not_not.mpr resident), if_pos (by simpa using busy)]

theorem patchGraph_notResident (front : frontOp d c cPatch = some q)
    (no : ∀ g, tget d.gs.graphs (gidOf q.ops) = some g → g.st ≠ .resident) :
    patchGraph c k d = finish (takeReq d q) q.id cPatch .badDescriptor 0 := by
  simp only [patchGraph, front]
  cases atId : tget d.gs.graphs (gidOf q.ops) with
  | none => rfl
  | some g => exact if_pos (no g atId)

end GraphRequests

/-! ### GRAPH_IMAGE_READ -/

section GraphImages
variable {k : Cfg} {d : Dyn} {gid : Nat} {g : Graph} {x : ImageLoad}

theorem graphImageRead_load (atId : tget d.gs.graphs gid = some g) (load : g.load = some x) :
    graphImageRead gid k d = loadImage k d gid g x := by
  simp only [graphImageRead, atId, load]

theorem graphImageRead_patch (atId : tget d.gs.graphs gid = some g) (load : g.load = none) (patch : g.patch = some x) :
    graphImageRead gid k d = patchImage k d gid g x := by
  simp only [graphImageRead, atId, load, patch]

section
variable (ready : x.ready = true)
include ready

theorem loadImage_bad (bad : x.bad = true) : loadImage k d gid g x = loadRefuse d gid g x.id .eccUncorr := by
  simp [loadImage, ready, bad]

theorem loadImage_header (good : x.bad = false) (header : x.header = true) :
    loadImage k d gid g x =
      if graphHeaderOk (x.bytes.take 64) then
        imageRequest k (putGraph d gid { g with load := some { x with header := false, want := leAt (x.bytes.take 64) 40 8 } })
          { x with header := false, want := leAt (x.bytes.take 64) 40 8 } (.graphBody gid)
      else loadRefuse d gid g x.id .badDescriptor := by
  cases ok : graphHeaderOk (x.bytes.take 64) <;> simp [loadImage, ready, good, header, ok]

theorem loadImage_body (good : x.bad = false) (body : x.header = false) :
    loadImage k d gid g x =
      if imageOk k (rpImg d x.id (digBytes x.bytes)) g.survey (imageDescs (x.bytes.take 64) (x.bytes.drop 64))
        (imageEdges (x.bytes.take 64) (x.bytes.drop 64)) then
        loadAccept k (rpImg d x.id (digBytes x.bytes)) gid g x.id (x.bytes.take 64) (x.bytes.drop 64)
      else loadRefuse (rpImg d x.id (digBytes x.bytes)) gid g x.id .badDescriptor := by
  cases ok : imageOk k (rpImg d x.id (digBytes x.bytes)) g.survey (imageDescs (x.bytes.take 64) (x.bytes.drop 64))
    (imageEdges (x.bytes.take 64) (x.bytes.drop 64)) <;> simp [loadImage, ready, good, body, ok]

end

/-- The header of a patch image (Table 2.11). -/
def PatchHeader (h : List Byte) : Prop :=
  leAt h 0 4 = 0x48504E44 ∧ leAt h 4 2 = 3 ∧ leAt h 6 2 = 0 ∧ leAt h 12 4 = 0 ∧ leAt h 8 4 ≤ 65536

/-- The model's test of a patch header fails just where the header is none of Table 2.11. -/
theorem patchHeaderFault_iff (h : List Byte) :
    (leAt h 0 4 ≠ 0x48504E44 || leAt h 4 2 ≠ 3 || leAt h 6 2 ≠ 0 || leAt h 12 4 ≠ 0 || 65536 < leAt h 8 4) = true
      ↔ ¬ PatchHeader h := by
  simp only [PatchHeader, Bool.or_eq_true, decide_eq_true_eq]
  omega

section
variable (ready : x.ready = true)
include ready

theorem patchImage_bad (bad : x.bad = true) : patchImage k d gid g x = patchRefuse d gid g x.id .eccUncorr := by
  simp [patchImage, ready, bad]

theorem patchImage_badHeader (good : x.bad = false) (header : x.header = true) (fault : ¬ PatchHeader (x.bytes.take 16)) :
    patchImage k d gid g x = patchRefuse d gid g x.id .badDescriptor := by
  simp only [patchImage, ready, good, header, Bool.not_true, Bool.false_eq_true, if_false, if_true]
  exact if_pos ((patchHeaderFault_iff _).mpr fault)

theorem patchImage_header (good : x.bad = false) (header : x.header = true) (ok : PatchHeader (x.bytes.take 16)) :
    patchImage k d gid g x =
      if leAt (x.bytes.take 16) 8 4 = 0 then patchApply k (rpImg d x.id (digBytes (x.bytes.take 16))) gid g x.id 0 []
      else
        imageRequest k
          (putGraph d gid { g with patch := some { x with header := false, want := 16 + 136 * leAt (x.bytes.take 16) 8 4 } })
          { x with header := false, want := 16 + 136 * leAt (x.bytes.take 16) 8 4 } (.patchBody gid) := by
  simp only [patchImage, ready, good, header, Bool.not_true, Bool.false_eq_true, if_false, if_true]
  exact if_neg (fun fault => (patchHeaderFault_iff _).mp fault ok)

theorem patchImage_body (good : x.bad = false) (body : x.header = false) :
    patchImage k d gid g x =
      patchApply k (rpImg d x.id (digBytes x.bytes)) gid g x.id (leAt (x.bytes.take 16) 8 4) (x.bytes.drop 16) := by
  simp [patchImage, ready, good, body]

end

end GraphImages

/-! ### LAUNCH -/

section Launching
variable {k : Cfg} {d : Dyn} {c : Nat} {q : Req}

theorem launch_held (front : frontOp d c cLaunch = some q)
    (held : launchesHeld k d = true ∨ takesLaunch k d q = false ∨ rpRoom d 1 false = false) : launch c k d = blockReq d q := by
  rw [launch, front]
  exact if_pos (by simpa [or_assoc] using held)

section
variable (front : frontOp d c cLaunch = some q) (go : launchesHeld k d = false) (takes : takesLaunch k d q = true)
  (room : rpRoom d 1 false = true)
include front go takes room

theorem launch_admitted {g : Graph} {e : Epoch} {slot row : Nat} (answer : admitLaunch k d (wantLaunch q) = .ok (g, e, slot, row)) :
    launch c k d = startLaunch k (takeReq d q) (wantLaunch q) g e slot row (opn q.ops 24 8) := by
  simp [launch, front, go, takes, room, answer]

theorem launch_waits (answer : admitLaunch k d (wantLaunch q) = .error .waits) : launch c k d = blockReq d q := by
  simp [launch, front, go, takes, room, answer]

theorem launch_refused {st : Status} (answer : admitLaunch k d (wantLaunch q) = .error (.refused st)) :
    launch c k d = refuseLaunch k (takeReq d q) q st := by
  simp [launch, front, go, takes, room, answer]

end

section
variable {w : Want} {g : Graph} (lists : listsOpen k d = true)
include lists

theorem admitLaunch_notResident (no : ∀ g, tget d.gs.graphs w.gid = some g → g.st ≠ .resident) :
    admitLaunch k d w = .error (.refused .badDescriptor) := by
  rw [admitLaunch, if_neg (by simp [lists])]
  cases atId : tget d.gs.graphs w.gid with
  | none => rfl
  | some g => exact if_pos (no g atId)

variable (atId : tget d.gs.graphs w.gid = some g) (resident : g.st = .resident)
include atId resident

theorem admitLaunch_damaged (damaged : g.damaged = true) : admitLaunch k d w = .error (.refused .eccUncorr) := by
  simp [admitLaunch, lists, atId, resident, damaged]

theorem admitLaunch_racing (whole : g.damaged = false) (racing : (k.det && g.racing) = true) :
    admitLaunch k d w = .error (.refused .determinism) := by
  simp only [admitLaunch, lists, atId, resident, whole, racing, Bool.not_true, Bool.false_eq_true, if_false, if_true, ne_eq,
    not_true_eq_false]

/-- Of a launch that no GRAPH node makes, an epoch that is not live has a status of its own (R65). -/
theorem admitLaunch_noEpoch (whole : g.damaged = false) (ordered : (k.det && g.racing) = false) (gone : pinEpoch g w = none)
    (root : w.parent = none) : admitLaunch k d w = .error (.refused .epochRetired) := by
  simp only [admitLaunch, lists, atId, resident, whole, ordered, gone, root, Bool.not_true, Bool.false_eq_true, if_false, ne_eq,
    not_true_eq_false, Option.isSome_none]

end

end Launching

/-! ### Operations at a counter bank -/

section BankOps
variable {k : Cfg} {d : Dyn} {b : Nat} {kind : OpKind} {o : BankOp} {rest : List BankOp}

theorem bankOp_idle (idle : nextOp 4 (bankQueue d b) = none) : bankOp kind b k d = d := by
  rw [bankOp, idle]

theorem bankOp_stays (next : nextOp 4 (bankQueue d b) = some (o, rest))
    (stays : o.kind ≠ kind ∨ d.pw.cbFallow = true ∨ bankRoom d b o = false) : bankOp kind b k d = d := by
  rw [bankOp, next]
  exact if_pos (by simpa [or_assoc] using stays)

theorem bankOp_legal (next : nextOp 4 (bankQueue d b) = some (o, rest)) (same : o.kind = kind) (powered : d.pw.cbFallow = false)
    (room : bankRoom d b o = true) (legal : opIllegal (getNode (setBankQueue d b rest) o.g) o = false) :
    bankOp kind b k d = settleAll (opApplied (applyOp k (setBankQueue d b rest) o) o) := by
  simp [bankOp, next, same, powered, room, legal]

theorem applyOp_dec (dec : o.kind = .dec) :
    applyOp k d o = testReady k (modLaunch (setNode d o.g { getNode d o.g with pend := (getNode d o.g).pend - 1 }) o.slot
      (fun l => { l with applied := l.applied + 1 })) o.slot o.g := by
  rw [applyOp, dec]

theorem applyOp_evt (evt : o.kind = .evt) :
    applyOp k d o = testReady k (setNode d o.g (setFlag (getNode d o.g) o.bit)) o.slot o.g := by
  rw [applyOp, evt]

theorem applyOp_decEvt (decEvt : o.kind = .decEvt) :
    applyOp k d o = testReady k (modLaunch
      (setNode d o.g { setFlag (getNode d o.g) o.bit with pend := (getNode d o.g).pend - 1 }) o.slot
      (fun l => { l with applied := l.applied + 1 })) o.slot o.g := by
  rw [applyOp, decEvt]

theorem applyOp_cancel (cancel : o.kind = .cancel) :
    applyOp k d o = if (getNode d o.g).st.waiting then cancelSkipped d o.slot o.g else d := by
  rw [applyOp, cancel]

end BankOps

/-- The command that applies operations of a kind at a bank. -/
def bankCommand (b : Nat) (hits : List Hit) : OpKind → Instr
  | .dec => .dec b hits
  | .evt => .evt b hits
  | .decEvt => .decEvt b hits
  | .cancel => .cancel b hits

theorem exec_bankCommand (b : Nat) (hits : List Hit) (kind : OpKind) (s : State) :
    exec (bankCommand b hits kind) s = runPart (bankUnit b) (withHits Stored.isNode hits (bankOp kind b)) s := by
  cases kind <;> rfl

theorem exec_bankCommand_held {s : State} {b : Nat} (h : s.serving) (waits : unitWaits s.fresh 0x03 (bankUnit b) = true)
    (hits : List Hit) (kind : OpKind) : exec (bankCommand b hits kind) s = .next (s.served s.fresh) := by
  rw [exec_bankCommand, runPart_held h waits]

theorem exec_bankCommand_clean {s : State} {b : Nat} (h : s.part (bankUnit b)) {hits : List Hit} (clean : Clean hits) (kind : OpKind) :
    exec (bankCommand b hits kind) s = .next (s.served (bankOp kind b s.m.cfg s.fresh)) := by
  rw [exec_bankCommand, runPart_open h, withHits_clean clean]

/-! ### The commands of a serving block -/

section Served
variable {s : State} (h : s.serving)
include h

theorem exec_loadGraph (c : Nat) : exec (.loadGraph c) s = .next (s.served (loadGraph c s.m.cfg s.fresh)) := runSrv_open h _

theorem exec_unloadGraph (c : Nat) : exec (.unloadGraph c) s = .next (s.served (unloadGraph c s.m.cfg s.fresh)) := runSrv_open h _

theorem exec_patchGraph (c : Nat) : exec (.patchGraph c) s = .next (s.served (patchGraph c s.m.cfg s.fresh)) := runSrv_open h _

theorem exec_graphImageRead (gid : Nat) : exec (.graphImageRead gid) s = .next (s.served (graphImageRead gid s.m.cfg s.fresh)) :=
  runSrv_open h _

theorem exec_launch (c : Nat) : exec (.launch c) s = .next (s.served (launch c s.m.cfg s.fresh)) := runSrv_open h _

end Served

/-! ### The obligations -/

/-- Settles O6: the three commands by the state of the graph that they name, the read by what it is of (a patch that waits behind another
one of its graph is log 22). -/
theorem graphCommands : Obligations.GraphCommands := by
  constructor
  · intro s c q h
    rw [exec_loadGraph h, exec_unloadGraph h, exec_patchGraph h]
    refine ⟨fun front => ⟨fun free => ?_, fun inUse => ?_⟩,
      fun front => ⟨fun g atId res noPatch => ?_, fun g x atId res patch => ?_, fun no => ?_⟩,
      fun front => ⟨fun g atId res epochs noPatch => ?_, fun g atId res busy => ?_, fun no => ?_⟩⟩
    · rw [loadGraph_free front free rfl]
    · rw [loadGraph_inUse front inUse rfl]
    · rw [unloadGraph_resident front atId res noPatch]
    · rw [unloadGraph_patching front atId res patch]
    · rw [unloadGraph_notResident front no]
    · rw [patchGraph_resident front atId res epochs noPatch]
    · rw [patchGraph_waits front atId res busy]
    · rw [patchGraph_notResident front no]
  · intro s gid g x h atId ready
    dsimp only
    rw [exec_graphImageRead h]
    constructor
    · intro load
      rw [graphImageRead_load (d := s.fresh) atId load]
      refine ⟨fun bad => ?_, fun good header fault => ?_, fun good header ok => ?_, fun good body => ⟨fun ok => ?_, fun fault => ?_⟩⟩
      · rw [loadImage_bad ready bad]
      · rw [loadImage_header ready good header, fault]; rfl
      · rw [loadImage_header ready good header, if_pos ok]
      · rw [loadImage_body ready good body, if_pos ok]
      · rw [loadImage_body ready good body, fault]; rfl
    · intro load patch
      rw [graphImageRead_patch (d := s.fresh) atId load patch]
      refine ⟨fun bad => ?_, fun good header fault => ?_, fun good header ok empty => ?_, fun good header ok entries => ?_,
        fun good body => ?_⟩
      · rw [patchImage_bad ready bad]
      · rw [patchImage_badHeader ready good header fault]
      · rw [patchImage_header ready good header ok, if_pos empty]
      · rw [patchImage_header ready good header ok, if_neg entries]
      · rw [patchImage_body ready good body]

/-- Settles O7: a launch is held, or else its answer is that of its admission. -/
theorem launchTaken : Obligations.LaunchTaken := by
  intro s c q h front
  dsimp only
  rw [exec_launch h]
  refine ⟨fun held => ?_, fun go takes room => ⟨fun g e slot row answer => ?_, fun waits => ?_, fun lists => ⟨fun no => ?_, ?_⟩⟩⟩
  · rw [launch_held front held]
  · rw [launch_admitted front go takes room answer]
  · rw [launch_waits front go takes room waits]
  · rw [launch_refused front go takes room (admitLaunch_notResident lists no)]
  · intro g atId res
    refine ⟨fun damaged => ?_, fun whole det racing => ?_, fun whole ordered gone => ?_⟩
    · rw [launch_refused front go takes room (admitLaunch_damaged lists atId res damaged)]
    · have racy : (s.m.cfg.det && g.racing) = true := by rw [det, racing]; rfl
      rw [launch_refused front go takes room (admitLaunch_racing lists atId res whole racy)]
    · rw [launch_refused front go takes room (admitLaunch_noEpoch lists atId res whole ordered gone rfl)]

/-- Settles O35: the next operation stays where it cannot be applied, and else has the effect of its kind (a CANCEL that lets operations
behind it go first is log 11). -/
theorem bankOperationsApplied : Obligations.BankOperationsApplied := by
  intro s b hits
  refine ⟨fun h waits => exec_bankCommand_held h waits hits, fun h clean => ?_⟩
  have answer : ∀ {kind : OpKind} {d : Dyn}, bankOp kind b s.m.cfg s.fresh = d →
      exec (bankCommand b hits kind) s = .next (s.served d) := fun e => e ▸ exec_bankCommand_clean h clean _
  refine ⟨fun idle kind => answer (bankOp_idle idle), fun o rest next => ⟨fun kind stays => answer (bankOp_stays next stays), ?_⟩⟩
  intro powered room legal
  have applies : ∀ {kind : OpKind} {d : Dyn}, o.kind = kind → applyOp s.m.cfg (setBankQueue s.fresh b rest) o = d →
      exec (bankCommand b hits kind) s = .next (s.served (settleAll (opApplied d o))) :=
    fun same e => e ▸ answer (bankOp_legal next same powered room legal)
  exact ⟨fun dec => applies dec (applyOp_dec dec), fun evt => applies evt (applyOp_evt evt),
    fun decEvt => applies decEvt (applyOp_decEvt decEvt),
    fun cancel waiting => applies cancel ((applyOp_cancel cancel).trans (if_pos waiting)),
    fun cancel begun => applies cancel ((applyOp_cancel cancel).trans (if_neg (Bool.eq_false_iff.mp begun)))⟩

end Sys2Proof.Machine

/-! ## Dependency resolution: illegal operations, scan, walkers, ready entries, the end of a launch, check intervals (R19, R57, R60, R74,
R75, R78 to R84, R87 to R89, R99, R161, R333, R339, R342, R344) -/

namespace Sys2Proof.Machine

/-! ### Illegal operations (R75) -/

theorem opIllegal_iff (n : NodeRec) (o : BankOp) :
    opIllegal n o = true ↔ n.st = .idle ∨ n.launch ≠ o.slot ∨ (n.pend = 0 ∧ (o.kind = .dec ∨ o.kind = .decEvt)) := by
  simp only [opIllegal, Bool.or_eq_true, Bool.and_eq_true, beq_iff_eq, decide_eq_true_eq, or_assoc, and_comm]

theorem bankOp_illegal {k : Cfg} {d : Dyn} {b : Nat} {o : BankOp} {rest : List BankOp} (next : nextOp 4 (bankQueue d b) = some (o, rest))
    (powered : d.pw.cbFallow = false) (room : bankRoom d b o = true)
    (illegal : opIllegal (getNode (setBankQueue d b rest) o.g) o = true) :
    bankOp o.kind b k d = settleAll (opApplied (illegalOp k (setBankQueue d b rest) b o) o) := by
  simp [bankOp, next, powered, room, illegal]

/-! ### The start scan (R74) -/

section Scan
variable {k : Cfg} {d : Dyn} {slot : Nat} {l : Launch}

theorem startScan_running (atSlot : tget d.ls.slots slot = some l) (running : l.phase = .running) :
    startScan slot k d = settle (l.indices.foldl (scanWord k slot) (d, [])).1 slot := by
  simp [startScan, atSlot, running]

theorem startScan_notRunning (no : ∀ l, tget d.ls.slots slot = some l → l.phase ≠ .running) : startScan slot k d = d := by
  unfold startScan
  cases atSlot : tget d.ls.slots slot with
  | none => rfl
  | some l => exact if_pos (no l atSlot)

end Scan

/-! ### Walkers (R78, R80) -/

section Walkers
variable {k : Cfg} {d : Dyn} {w : Nat} {x : Walker}

theorem edgeWalk_free (free : tget (takeSpan w d).nb.walkers w = none) : edgeWalk w k d = takeSpan w d := by
  simp only [edgeWalk, free]

variable (atWork : tget (takeSpan w d).nb.walkers w = some x)
include atWork

theorem edgeWalk_span {e : CqEntry} {l : Launch} {g : Graph} (entry : (takeSpan w d).nb.cq.find? (fun e => e.idx = x.cq) = some e)
    (launched : launchGraph (takeSpan w d) e.slot = some (l, g)) :
    edgeWalk w k d = settle (cqClear (walkLines w l g.key.toNat e 12 (takeSpan w d) x)) e.slot := by
  simp only [edgeWalk, atWork, entry, launched]

/-- The span of a launch that is gone stays as it is. -/
theorem edgeWalk_gone
    (gone : ∀ e, (takeSpan w d).nb.cq.find? (fun e => e.idx = x.cq) = some e → launchGraph (takeSpan w d) e.slot = none) :
    edgeWalk w k d = takeSpan w d := by
  simp only [edgeWalk, atWork]
  cases entry : (takeSpan w d).nb.cq.find? (fun e => e.idx = x.cq) with
  | none => rfl
  | some e => simp only [gone e entry]

end Walkers

/-! ### Ready entries (R82 to R84) -/

/-- The list of an entry takes it now: it has room at the entry's level and in the cycle, and no other bank's head goes before. -/
def Enters (k : Cfg) (d : Dyn) (e : REntry) : Prop :=
  entryRoom k d e = true ∧ tookNow d (entryList k d e) < listRate (entryList k d e) ∧ outranked k d e = false

/-- The model's test for an entry that stays fails just where the entry enters. -/
theorem entryStays_iff (k : Cfg) (d : Dyn) (e : REntry) :
    (!entryRoom k d e || listRate (entryList k d e) ≤ tookNow d (entryList k d e) || outranked k d e) = true ↔ ¬ Enters k d e := by
  simp only [Enters, Bool.or_eq_true, Bool.not_eq_true', decide_eq_true_eq, not_and_or, Bool.not_eq_true, Bool.not_eq_false, Nat.not_lt,
    or_assoc]

section ReadyEntries
variable {k : Cfg} {d : Dyn} {b : Nat} {e : REntry} {rest : List REntry}

theorem readyEntryEnter_empty (box : (outbox d b).dropWhile (·.void) = []) : readyEntryEnter b k d = setOutbox d b [] := by
  simp only [readyEntryEnter, box]

theorem readyEntryEnter_enters (box : (outbox d b).dropWhile (·.void) = e :: rest) (enters : Enters k (setOutbox d b (e :: rest)) e) :
    readyEntryEnter b k d =
      enterList k (setOutbox (setOutbox d b (e :: rest)) b (offerHead (setOutbox d b (e :: rest)).fc rest)) e := by
  simp only [readyEntryEnter, box]
  exact if_neg (fun stays => (entryStays_iff _ _ _).mp stays enters)

theorem readyEntryEnter_stays (box : (outbox d b).dropWhile (·.void) = e :: rest) (stays : ¬ Enters k (setOutbox d b (e :: rest)) e) :
    readyEntryEnter b k d = setOutbox d b (e :: rest) := by
  simp only [readyEntryEnter, box]
  exact if_pos ((entryStays_iff _ _ _).mpr stays)

end ReadyEntries

/-! ### Descriptor fills (R99, R339) -/

section DescriptorFills
variable {k : Cfg} {d : Dyn} {off : Nat} {j : RdJob}

theorem descriptorFill_notAsked (no : d.bus.reads.find? (fun j => j.use = .descFill off && j.shown) = none) (err : Bool) :
    descriptorFill off err k d = d := by
  simp only [descriptorFill, no]

variable (asked : d.bus.reads.find? (fun j => j.use = .descFill off && j.shown) = some j)
include asked

theorem descriptorFill_data : descriptorFill off false k d = dcFilled k d off false := by
  simp [descriptorFill, asked]

theorem descriptorFill_waits (full : summaryFull d = true) : descriptorFill off true k d = d := by
  simp [descriptorFill, asked, full]

theorem descriptorFill_error (room : summaryFull d = false) :
    descriptorFill off true k d = dcFilled k (fault k (useFree d 1) (responseRec d j)) off true := by
  simp [descriptorFill, asked, room]

end DescriptorFills

/-! ### The conservation sweep (R88) -/

/-- A running launch with no edge left to walk and every node terminal. -/
def Quiet (d : Dyn) (slot : Nat) (l : Launch) : Prop :=
  l.phase = .running ∧ launchQuiet d slot = true ∧ allTerminal d l = true

section Sweep
variable {k : Cfg} {d : Dyn} {slot : Nat}

theorem conservationSweep_quiet {l : Launch} (atSlot : tget d.ls.slots slot = some l) (quiet : Quiet d slot l) :
    conservationSweep slot k d = modLaunch d slot (fun x =>
      { x with phase := .swept (listSum (l.indices.map (fun g => (getNode d g).pend))) }) := by
  obtain ⟨running, walked, terminal⟩ := quiet
  simp [conservationSweep, atSlot, running, walked, terminal]

theorem conservationSweep_notQuiet (no : ∀ l, tget d.ls.slots slot = some l → ¬ Quiet d slot l) : conservationSweep slot k d = d := by
  unfold conservationSweep
  cases atSlot : tget d.ls.slots slot with
  | none => rfl
  | some l =>
    refine if_pos ?_
    by_contra quiet
    exact no l atSlot (by simpa [Quiet, and_assoc] using quiet)

end Sweep

/-! ### The completion return (R57, R89, R161, R333) -/

/-- The record of a launch whose sum fails (R89). -/
def sumRec (slot : Nat) (l : Launch) (fin : Nat) : FRec :=
  { frec 0x05 .conservation (rootUnit 1) with
    ctx := some l.id.c, launch := some slot, detail := w64 (l.initSum + (l.applied + fin) * 2 ^ 32) }

/-- The return waits: its own record cannot enter, or one of a failed operation of the launch waits. -/
def ReturnWaits (d : Dyn) (slot : Nat) (l : Launch) (fin : Nat) : Prop :=
  (¬ l.initSum = l.applied + fin ∧ summaryFull d = true) ∨
    d.fs.waiting.any (fun w => w.record.mech = 0x05 && w.record.launch = some slot) = true

/-- The running side once the sum has been checked. -/
def sumChecked (k : Cfg) (d : Dyn) (slot : Nat) (l : Launch) (fin : Nat) : Dyn :=
  if l.initSum = l.applied + fin then d else fault k d (sumRec slot l fin)

/-- The status with which a swept launch completes. -/
def sweptStatus (l : Launch) (fin : Nat) : Status := if l.initSum = l.applied + fin then l.failed.getD .ok else .conservation

/-- The slot's return has been posted. -/
def markReturned (d : Dyn) (slot : Nat) : Dyn := modLaunch d slot (fun l => { l with phase := .returned, relReserved := 0 })

/-- A child launch leaves its slot and its rows, and ends its GRAPH node. -/
def childReturned (k : Cfg) (d : Dyn) (slot : Nat) (l : Launch) (p : Nat × Nat) (st : Status) : Dyn :=
  childEnd (launchGone k (freeRows { launchSample k d slot true with
    ls := { (launchSample k d slot true).ls with slots := tdel (launchSample k d slot true).ls.slots slot } } l) l) p.1 p.2 st

theorem returnWaits_iff (d : Dyn) (slot : Nat) (l : Launch) (fin : Nat) :
    (!decide (l.initSum = l.applied + fin) && summaryFull d ||
      d.fs.waiting.any (fun w => w.record.mech = 0x05 && w.record.launch = some slot)) = true ↔ ReturnWaits d slot l fin := by
  simp only [ReturnWaits, Bool.or_eq_true, Bool.and_eq_true, Bool.not_eq_true', decide_eq_false_iff_not]

section CompletionReturn
variable {k : Cfg} {d : Dyn} {slot : Nat} {l : Launch} {x : Graph} {fin : Nat}

theorem launchCompletionReturn_notSwept (no : ∀ l x, launchGraph d slot = some (l, x) → ∀ fin, l.phase ≠ .swept fin) :
    launchCompletionReturn slot k d = d := by
  unfold launchCompletionReturn
  cases launched : launchGraph d slot with
  | none => rfl
  | some lx =>
    obtain ⟨l, x⟩ := lx
    cases phase : l.phase with
    | swept fin => exact absurd phase (no l x launched fin)
    | _ => simp only [phase]

variable (launched : launchGraph d slot = some (l, x)) (swept : l.phase = .swept fin)
include launched swept

theorem launchCompletionReturn_waits (waits : ReturnWaits d slot l fin) : launchCompletionReturn slot k d = d := by
  simp only [launchCompletionReturn, launched, swept]
  exact if_pos ((returnWaits_iff d slot l fin).mpr waits)

variable (go : ¬ ReturnWaits d slot l fin)
include go

theorem launchCompletionReturn_child {p : Nat × Nat} (child : l.parent = some p) :
    launchCompletionReturn slot k d = childReturned k (sumChecked k d slot l fin) slot l p (sweptStatus l fin) := by
  simp only [launchCompletionReturn, launched, swept, child]
  exact if_neg (fun waits => go ((returnWaits_iff d slot l fin).mp waits))

theorem launchCompletionReturn_host (root : l.parent = none) (host : l.svc = false) :
    launchCompletionReturn slot k d = launchGone k (launchSample k (markReturned
      (finishRet (sumChecked k d slot l fin) (launchRet (sumChecked k d slot l fin) slot l x.prog (sweptStatus l fin))) slot) slot true) l := by
  simp only [launchCompletionReturn, launched, swept, root, host]
  exact if_neg (fun waits => go ((returnWaits_iff d slot l fin).mp waits))

/-- A service launch counts STEP (R161). -/
theorem launchCompletionReturn_service (root : l.parent = none) (service : l.svc = true) {r : Dyn}
    (returned : r = markReturned
      (pushRet (sumChecked k d slot l fin) (launchRet (sumChecked k d slot l fin) slot l x.prog (sweptStatus l fin))) slot) :
    launchCompletionReturn slot k d = launchGone k (launchSample k { r with step := r.step + 1 } slot true) l := by
  subst returned
  simp only [launchCompletionReturn, launched, swept, root, service]
  exact if_neg (fun waits => go ((returnWaits_iff d slot l fin).mp waits))

end CompletionReturn

/-! ### Child launches (R60) -/

/-- The task of a GRAPH node that has not ended. -/
def graphTask (d : Dyn) (g : Nat) : Option Task := d.dp.tasks.find? (fun t => t.g = g && t.op = kGraph && !t.ended)

/-- The GRAPH node of a task runs, and its child launch is still to be made. -/
def ChildDue (d : Dyn) (g : Nat) (t : Task) : Prop :=
  hasChild d t.slot g = false ∧ (getNode d g).st = .running ∧ (getNode d g).launch = t.slot

/-- What a GRAPH node of a launch asks for, from the words of its descriptor. -/
def childWant (d : Dyn) (g : Nat) (t : Task) (l : Launch) : Want :=
  { id := l.id, svc := l.svc, gid := (nodeDesc d t.slot g).b 0 12, epsel := (nodeDesc d t.slot g).b 12 1 = 1,
    epoch := (nodeDesc d t.slot g).b 16 8, bases := l.bases, seedidx := l.seedidx, wdigest := l.wdigest, idigest := l.idigest,
    parent := some (t.slot, g) }

/-- What a GRAPH node does on the answer to its child's admission (R60). -/
def childAnswered (k : Cfg) (d : Dyn) (g : Nat) (t : Task) (l : Launch) : Except NoTake (Graph × Epoch × Nat × Nat) → Dyn
  | .error .waits => d
  | .error (.refused st) => internalEnd d t.slot g st
  | .ok (gr, e, slot, row) => startLaunch k d (childWant d g t l) gr e slot row 0

/-- The model's test for a node with no child launch to make fails just where one is due. -/
theorem childNotDue_iff (d : Dyn) (g : Nat) (t : Task) :
    (hasChild d t.slot g || (getNode d g).st ≠ .running || (getNode d g).launch ≠ t.slot) = true ↔ ¬ ChildDue d g t := by
  simp only [ChildDue, Bool.or_eq_true, decide_eq_true_eq, ← Bool.not_eq_true]
  tauto

section ChildLaunches
variable {k : Cfg} {d : Dyn} {g : Nat} {t : Task} {l : Launch}

theorem childLaunch_notDue (no : ∀ t l, graphTask d g = some t → tget d.ls.slots t.slot = some l → ¬ ChildDue d g t) :
    childLaunch g k d = d := by
  unfold childLaunch
  cases task : d.dp.tasks.find? (fun t => t.g = g && t.op = kGraph && !t.ended) with
  | none => rfl
  | some t =>
    dsimp only
    cases atSlot : tget d.ls.slots t.slot with
    | none => rfl
    | some l => exact if_pos ((childNotDue_iff d g t).mpr (no t l task atSlot))

variable (task : graphTask d g = some t) (atSlot : tget d.ls.slots t.slot = some l) (due : ChildDue d g t)
include task atSlot due

theorem childLaunch_due :
    childLaunch g k d =
      if l.failed.isSome then internalEnd d t.slot g .cancelled
      else if 8 ≤ nesting d 9 t.slot then internalEnd d t.slot g .badDescriptor
      else childAnswered k d g t l (admitLaunch k d (childWant d g t l)) := by
  rw [graphTask] at task
  simp only [childLaunch, task, atSlot]
  rw [if_neg (fun notDue => (childNotDue_iff d g t).mp notDue due)]
  rw [← childWant]
  cases admitLaunch k d (childWant d g t l) with
  | error stop => cases stop <;> rfl
  | ok x => simp only [childAnswered]

theorem childLaunch_failed (failed : l.failed.isSome = true) : childLaunch g k d = internalEnd d t.slot g .cancelled := by
  rw [childLaunch_due task atSlot due, if_pos failed]

theorem childLaunch_tooDeep (sound : l.failed = none) (deep : 8 ≤ nesting d 9 t.slot) :
    childLaunch g k d = internalEnd d t.slot g .badDescriptor := by
  rw [childLaunch_due task atSlot due, if_neg (by simp [sound]), if_pos deep]

theorem childLaunch_asks (sound : l.failed = none) (shallow : nesting d 9 t.slot < 8) :
    childLaunch g k d = childAnswered k d g t l (admitLaunch k d (childWant d g t l)) := by
  rw [childLaunch_due task atSlot due, if_neg (by simp [sound]), if_neg (Nat.not_le.mpr shallow)]

end ChildLaunches

/-! ### Check intervals (R87, R342, R344) -/

section Intervals
variable {k : Cfg} {d : Dyn}

theorem checkIntervalClose_early (early : intervalOver d = false) : checkIntervalClose k d = d := by
  simp [checkIntervalClose, early]

/-- A close latches counts, tallies and touch masks, and the next interval begins (R87, R344). -/
def intervalLatched (d : Dyn) : Dyn :=
  { d with
    nb := { d.nb with
      latchedSent := d.nb.sent, latchedAcc := d.nb.accepted, sent := [], accepted := [],
      tallies := (tallyStubs d).map (fun x => (x, rootTally d x)), reported := (tallyStubs d).map (fun x => (x, stubTally d x)),
      intervalFrom := d.ts },
    ls := { d.ls with slots := d.ls.slots.map (fun e => (e.1, { e.2 with touchPrev := e.2.touch, touch := 0 })) },
    fe := { d.fe with
      ledger := (d.fe.ledger.filter (fun e => !e.old)).map (fun e => { e with old := true, banksPrev := e.banks, banks := 0 }) } }

theorem checkIntervalClose_over (closes : intervalOver d = true) : checkIntervalClose k d = intervalLatched d := by
  simp only [checkIntervalClose, closes, Bool.not_true, Bool.false_eq_true, if_false, intervalLatched]

theorem foldl_unchanged {α β : Type} {f : β → α → β} {b : β} {l : List α} (h : ∀ a ∈ l, f b a = b) : l.foldl f b = b :=
  List.foldlRecOn l f (motive := (· = b)) rfl (fun _ kept a ha => kept ▸ h a ha)

theorem comparePair_agrees {c : HeldCompare} (agrees : c.sent = c.accepted) : comparePair k d c = d := if_pos agrees

theorem tallyMismatch_agrees {root got : Nat × Nat} (agrees : root = got) (stub : Nat) : tallyMismatch k d stub root got = d :=
  if_pos (by simp [agrees])

/-- Where banks accepted what walkers sent, no pair of the interval disagrees. -/
theorem pairs_agree (same : d.nb.latchedAcc = d.nb.latchedSent) (d' : Dyn) (keys : List Nat) :
    (isort pairOrder (keys.map (pairCompare d d.nb.latchedAcc))).foldl (comparePair k) d' = d' := by
  refine foldl_unchanged (fun c hc => comparePair_agrees ?_)
  obtain ⟨i, -, rfl⟩ := List.mem_map.mp (mem_isort.mp hc)
  simp only [pairCompare, same]

/-- With no report that differs, nothing that waited and everything in agreement, a comparison only drops what was latched. -/
theorem intervalCompare_agrees (same : d.nb.latchedAcc = d.nb.latchedSent) (noneHeld : d.nb.heldCmp = [])
    (stubs : ∀ t ∈ d.nb.tallies, tgetD d.nb.reported t.1 (0, 0) = t.2) :
    intervalCompare [] [] k d = settleAll
      { d with nb := { d.nb with latchedSent := [], latchedAcc := [], tallies := [], reported := [] } } := by
  have untouched : ({ d with nb := { d.nb with heldCmp := [] } } : Dyn) = d := by rw [← noneHeld]
  have tallied : d.nb.tallies.foldl (fun d' t => tallyMismatch k d' t.1 t.2 (tgetD d.nb.reported t.1 (0, 0))) d = d :=
    foldl_unchanged (fun t ht => tallyMismatch_agrees (stubs t ht).symm t.1)
  simp only [intervalCompare, List.filter_nil, List.foldl_nil, List.find?_nil, Option.elim_none, noneHeld, untouched, tallied,
    pairs_agree same]

end Intervals

/-! ### The commands of a serving block -/

section Resolving
variable {s : State} (h : s.serving)
include h

theorem exec_startScan (slot : Nat) : exec (.startScan slot) s = .next (s.served (startScan slot s.m.cfg s.fresh)) := runSrv_open h _

theorem exec_descriptorFill (off : Nat) (err : Bool) :
    exec (.descriptorFill off err) s = .next (s.served (descriptorFill off err s.m.cfg s.fresh)) := runSrv_open h _

theorem exec_conservationSweep (slot : Nat) :
    exec (.conservationSweep slot) s = .next (s.served (conservationSweep slot s.m.cfg s.fresh)) := runSrv_open h _

theorem exec_launchCompletionReturn (slot : Nat) :
    exec (.launchCompletionReturn slot) s = .next (s.served (launchCompletionReturn slot s.m.cfg s.fresh)) := runSrv_open h _

theorem exec_childLaunch (g : Nat) : exec (.childLaunch g) s = .next (s.served (childLaunch g s.m.cfg s.fresh)) := runSrv_open h _

theorem exec_checkIntervalClose : exec .checkIntervalClose s = .next (s.served (checkIntervalClose s.m.cfg s.fresh)) := runSrv_open h _

theorem exec_intervalCompare (accepted tallies : List (Nat × Nat × Nat)) :
    exec (.intervalCompare accepted tallies) s = .next (s.served (intervalCompare accepted tallies s.m.cfg s.fresh)) := runSrv_open h _

end Resolving

theorem exec_edgeWalk_clean {s : State} (h : s.part (rootUnit 1)) (w : Nat) {hits : List Hit} (clean : Clean hits) :
    exec (.edgeWalk w hits) s = .next (s.served (edgeWalk w s.m.cfg s.fresh)) :=
  (runPart_open h _).trans (by rw [withHits_clean clean])

theorem exec_readyEntryEnter {s : State} {b : Nat} (h : s.part (bankUnit b)) :
    exec (.readyEntryEnter b) s = .next (s.served (readyEntryEnter b s.m.cfg s.fresh)) := runPart_open h _

/-! ### The obligations -/

/-- Settles O36: an operation that a bank could apply is recorded instead where its word makes it illegal. -/
theorem illegalOperationRecorded : Obligations.IllegalOperationRecorded := by
  intro s b hits o rest h clean next powered room _ illegal
  refine (exec_bankCommand_clean h clean o.kind).trans ?_
  rw [bankOp_illegal next powered room ((opIllegal_iff _ _).mpr illegal)]
  rfl

/-- Settles O37: the scan by the launch's phase, the walk by what the walker has, the entry by its list, the fill by the read that asked
for it. -/
theorem scanWalkAndReady : Obligations.ScanWalkAndReady := by
  intro s
  refine ⟨fun h => ⟨fun slot l atSlot running => ?_, fun slot no => ?_, fun off err no => ?_,
      fun off j asked => ⟨?_, fun full => ?_, fun room => ?_⟩⟩,
    fun h w hits clean => ⟨fun free => ?_, fun x e l g atWork entry launched => ?_, fun x atWork gone => ?_⟩,
    fun b h => ⟨fun box => ?_, fun e rest box => ⟨fun enters => ?_, fun stays => ?_⟩⟩⟩
  · rw [exec_startScan h, startScan_running (d := s.fresh) atSlot running]
  · rw [exec_startScan h, startScan_notRunning (d := s.fresh) no]
  · rw [exec_descriptorFill h, descriptorFill_notAsked (d := s.fresh) no]
  · rw [exec_descriptorFill h, descriptorFill_data (d := s.fresh) asked]
  · rw [exec_descriptorFill h, descriptorFill_waits (d := s.fresh) asked full]
  · rw [exec_descriptorFill h, descriptorFill_error (d := s.fresh) asked room]
  · rw [exec_edgeWalk_clean h w clean, edgeWalk_free free]
  · rw [exec_edgeWalk_clean h w clean, edgeWalk_span atWork entry launched]
  · rw [exec_edgeWalk_clean h w clean, edgeWalk_gone atWork gone]
  · rw [exec_readyEntryEnter h, readyEntryEnter_empty box, box]
  · rw [box] at enters ⊢
    rw [exec_readyEntryEnter h, readyEntryEnter_enters box enters]
  · rw [box] at stays ⊢
    rw [exec_readyEntryEnter h, readyEntryEnter_stays box stays]

/-- Settles O38: the sweep by whether the launch is quiet, the return by what it waits for and who made the launch, the GRAPH node by the
admission of its child (a child's slot is free at its end by log 23, its node's CANCELLED end is log 51). -/
theorem launchEnds : Obligations.LaunchEnds := by
  intro s h
  refine ⟨fun slot => ⟨fun l atSlot quiet => ?_, fun no => ?_, fun no => ?_,
      fun l x fin launched swept => ⟨fun waits => ?_, fun p go child => ?_, fun go root => ⟨fun host => ?_, fun service => ?_⟩⟩⟩,
    fun g => ⟨fun no => ?_, fun t l task atSlot due => ⟨fun failed => ?_, fun sound deep => ?_,
      fun sound shallow => ⟨fun waits => ?_, fun st refused => ?_, fun gr e n row admitted => ?_⟩⟩⟩⟩
  · rw [exec_conservationSweep h, conservationSweep_quiet (d := s.fresh) atSlot quiet]
  · rw [exec_conservationSweep h, conservationSweep_notQuiet (d := s.fresh) no]
  · rw [exec_launchCompletionReturn h, launchCompletionReturn_notSwept no]
  · rw [exec_launchCompletionReturn h, launchCompletionReturn_waits launched swept waits]
  · rw [exec_launchCompletionReturn h, launchCompletionReturn_child launched swept go child]
    rfl
  · rw [exec_launchCompletionReturn h, launchCompletionReturn_host launched swept go root host]
    rfl
  · rw [exec_launchCompletionReturn h, launchCompletionReturn_service launched swept go root service rfl]
    rfl
  · rw [exec_childLaunch h, childLaunch_notDue (d := s.fresh) no]
  · rw [exec_childLaunch h, childLaunch_failed (d := s.fresh) task atSlot due failed]
  · rw [exec_childLaunch h, childLaunch_tooDeep (d := s.fresh) task atSlot due sound deep]
  · rw [exec_childLaunch h, childLaunch_asks (d := s.fresh) task atSlot due sound shallow, childWant, waits]
    rfl
  · rw [exec_childLaunch h, childLaunch_asks (d := s.fresh) task atSlot due sound shallow, childWant, refused]
    rfl
  · rw [exec_childLaunch h, childLaunch_asks (d := s.fresh) task atSlot due sound shallow, childWant, admitted]
    rfl

/-- Settles O39: the close and the comparison, and that a comparison in which everything agrees finds nothing. -/
theorem checkIntervalsCompared : Obligations.CheckIntervalsCompared := by
  intro s h
  refine ⟨fun early => ?_, fun closes => ?_, fun accepted tallies => ?_, fun same noneHeld stubs => ?_⟩
  · rw [exec_checkIntervalClose h, checkIntervalClose_early early]
  · rw [exec_checkIntervalClose h, checkIntervalClose_over closes]
    rfl
  · rw [exec_intervalCompare h]
    rfl
  · rw [exec_intervalCompare h, intervalCompare_agrees (d := s.fresh) same noneHeld stubs]
    rfl

end Sys2Proof.Machine

/-! ## Placement: a dispatcher's cycle, what it commits, and its timers (R94 to R102, R111 to R122, R131, R157, R172, R234, R235, R237,
R244, R341) -/

namespace Sys2Proof.Machine

/-! ### A cycle with one entry (R97) -/

/-- A dispatcher at the beginning of its cycle, with no candidate known to commit in it. -/
abbrev cycleStart (disp : Disp) (k : Cfg) (d : Dyn) : PState := PState.start (cycleBegin disp k d).2 (issueSlots disp) []

theorem cycleStart_left (disp : Disp) (k : Cfg) (d : Dyn) : 2 ≤ (cycleStart disp k d).left := by
  cases disp
  · exact (by decide : 2 ≤ 8)
  · exact Nat.le_refl 2

section OneEntry
variable {disp : Disp} {k : Cfg} {d d' : Dyn} {it : Item} {c : Bool}
  (one : cycleItems disp (cycleBegin disp k d).2 (cycleBegin disp k d).1 = [it])
include one

/-- An entry that is not issued commits nothing. -/
theorem placement_stays
    (examined : examine disp k (cycleBegin disp k d).1 (cycleStart disp k d) it = (c, { cycleStart disp k d with d := d' })) :
    placement disp k d = d' :=
  placement_one one examined (Nat.zero_le 1)

/-- A tile or a cold fetch takes no part in the conflicts between candidates. -/
theorem placement_synthesises {n : Nat} {leaves : List Nat} {root : Bool}
    (examined : examine disp k (cycleBegin disp k d).1 (cycleStart disp k d) it = (c, (cycleStart disp k d).spend d' n leaves root)) :
    placement disp k d = d' :=
  placement_one one examined (Nat.zero_le 1)

theorem placement_issues {e : REntry} {x : Desc} {n : Nat} {leaves : List Nat} {root : Bool}
    (examined : examine disp k (cycleBegin disp k d).1 (cycleStart disp k d) it =
      (c, ((cycleStart disp k d).commits e x).spend d' n leaves root)) :
    placement disp k d = d' :=
  placement_one one examined (Nat.le_refl 1)

end OneEntry

/-! ### Closed tiles (R234, R235, R237) -/

/-- The closed tile `j` of a ROUTE, whose block is written. -/
abbrev closedTile (r : Route) (j : Nat) : Option Tile := r.tiles.find? (fun t => t.j = j && t.st == .acked)

/-- The free leaves for the tiles of a ROUTE. -/
abbrev tileFree (k : Cfg) (d : Dyn) (r : Route) : List Nat :=
  (synthEligible k d (leafSet k d (lTparcel r.e)) (lTclass r.e) (getNode d r.g).prio r.g).filter (leafFree k d kKernel 1)

/-- The leaf of a tile: a holder of its expert that is free, else a free leaf (R237). -/
def tileChoice (k : Cfg) (d : Dyn) (r : Route) (t : Tile) : Option (Nat × Dyn) :=
  let hold := (holdersOf d (lGbase r.e + t.expert)).filter (tileFree k d r).contains
  best .root (lTclass r.e) d (if hold.isEmpty then tileFree k d r else hold)

/-- The leaf of the shadow copy of a tile, in another unit than `l`. -/
def tileSecond (k : Cfg) (d d1 : Dyn) (r : Route) (l : Nat) : Option (Nat × Dyn) :=
  best .root (lTclass r.e) d1 ((tileFree k d r).filter (unitsDiffer l))

/-- The units of the ROUTE's leaf set are not all that of `l`. -/
abbrev tileMulti (k : Cfg) (d : Dyn) (r : Route) (l : Nat) : Bool := (leafSet k d (lTparcel r.e)).any (unitsDiffer l)

/-- A tile is issued on the leaves of its copies, of which `l` is the first; `d'` is `d` with the rotation pointers moved. -/
def tileIssued (k : Cfg) (d d' : Dyn) (cq slot chan j : Nat) (r : Route) (t : Tile) (l : Nat) (copies : List Copy) : Dyn :=
  let idx := lGbase r.e + t.expert
  let body := lCode r.e + r.blockAddr j * p64 + (64 + 8 * t.recs.length) * 2 ^ 128
  let committed := commitSynth k d' cq slot r.g kKernel (getNode d r.g).prio (.tile chan j idx) copies body
  tileCommitted (modTile committed slot chan j (fun t => { t with st := .issued })) idx l

section Tiles
variable {k : Cfg} {p : PState} {slot chan j : Nat}

theorem commitTile_none (no : ∀ r, getRoute p.d slot chan = some r → closedTile r j = none) : commitTile k p slot chan j = p := by
  unfold commitTile
  cases route : getRoute p.d slot chan with
  | none => rfl
  | some r =>
    simp only [no r route]

variable {r : Route} {t : Tile} (route : getRoute p.d slot chan = some r) (tile : closedTile r j = some t)
include route tile

theorem commitTile_stays (stays : tileChoice k p.d r t = none ∨ cqFree p.d = none) : commitTile k p slot chan j = p := by
  unfold commitTile
  simp only [route, tile]
  split
  next choice entry =>
    rcases stays with no | no
    · exact absurd (choice.symm.trans no) (Option.some_ne_none _)
    · exact absurd (entry.symm.trans no) (Option.some_ne_none _)
  next => rfl

variable {l cq : Nat} {d1 : Dyn} (choice : tileChoice k p.d r t = some (l, d1)) (entry : cqFree p.d = some cq)
include choice entry

/-- With SHADOW and a second unit in the set, a tile without a second leaf stays. -/
theorem commitTile_alone (want : (getNode p.d r.g).shadow = true) (two : tileMulti k p.d r l = true)
    (second : tileSecond k p.d d1 r l = none) : commitTile k p slot chan j = { p with d := d1 } := by
  rw [tileChoice] at choice
  rw [tileSecond] at second
  simp only [commitTile, route, tile, choice, entry, want, two, second]
  rfl

variable (unused : p.used = [])
include unused

theorem commitTile_plain (plain : (getNode p.d r.g).shadow = false) :
    commitTile k p slot chan j = p.spend (tileIssued k p.d d1 cq slot chan j r t l [copyOf l false]) 1 [l] true := by
  rw [tileChoice] at choice
  simp only [commitTile, route, tile, choice, entry, unused, plain, Bool.false_and, Bool.false_eq_true, if_false, regionOpen_one]
  rfl

/-- SHADOW is skipped, and counted, where no second unit lies in the set (R118). -/
theorem commitTile_skip (want : (getNode p.d r.g).shadow = true) (single : tileMulti k p.d r l = false) :
    commitTile k p slot chan j =
      p.spend (tileIssued k p.d (count d1 cShadowSkip 1) cq slot chan j r t l [copyOf l false]) 1 [l] true := by
  rw [tileChoice] at choice
  simp only [commitTile, route, tile, choice, entry, unused, want, single, Bool.and_false, Bool.false_and, Bool.false_eq_true, if_false,
    regionOpen_one]
  rfl

theorem commitTile_two (left : 2 ≤ p.left) (want : (getNode p.d r.g).shadow = true) (two : tileMulti k p.d r l = true) {m : Nat}
    {d2 : Dyn} (second : tileSecond k p.d d1 r l = some (m, d2)) :
    commitTile k p slot chan j =
      p.spend (tileIssued k p.d d2 cq slot chan j r t l [copyOf l false, copyOf m true]) 2 [l, m] true := by
  rw [tileChoice] at choice
  rw [tileSecond] at second
  simp only [commitTile, route, tile, choice, entry, unused, want, two, Bool.and_self, if_true, second, regionOpen_two]
  exact if_neg (by simp [Nat.not_lt.mpr left])

end Tiles

theorem examine_tile {disp : Disp} {k : Cfg} {list : List REntry} {p q : PState} {slot chan j prio age : Nat}
    (free : synthFree k p.d slot chan false = true) (committed : commitTile k p slot chan j = q) :
    examine disp k list p (.tile slot chan j prio age) = (true, q) := committed ▸ if_pos free

theorem examine_tile_idle {disp : Disp} {k : Cfg} {list : List REntry} {p : PState} {slot chan j prio age : Nat}
    (idle : synthFree k p.d slot chan false = false ∨ ∀ r, getRoute p.d slot chan = some r → closedTile r j = none) :
    examine disp k list p (.tile slot chan j prio age) = (synthFree k p.d slot chan false, p) := by
  cases free : synthFree k p.d slot chan false with
  | false => exact if_neg (by simp [free])
  | true => exact examine_tile free (commitTile_none (idle.resolve_left (by simp [free])))

/-! ### Cold fetches (R244) -/

/-- The leaf of a cold fetch: a free DMA-class leaf of parcel 0. -/
def fetchChoice (k : Cfg) (d : Dyn) (r : Route) : Option (Nat × Dyn) :=
  best .root 5 d ((synthEligible k d (leafSet k d 65536) 5 (getNode d r.g).prio r.g).filter (leafFree k d kColdfetch 1))

/-- A cold fetch is issued on the leaf `l`, and waits no more; `d'` is `d` with the rotation pointer moved. -/
def fetchIssued (k : Cfg) (d d' : Dyn) (cq slot chan idx : Nat) (r : Route) (l : Nat) : Dyn :=
  let e := gazEntry d' idx
  let body := gCold e + gHot e * p64 + gSize e * 2 ^ 128 + idx * 2 ^ 160
  let issued := commitSynth k d' cq slot r.g kColdfetch (getNode d r.g).prio (.fetch chan idx) [copyOf l false] body
  { issued with rt := { issued.rt with fetchWait := issued.rt.fetchWait.filter (fun f => f ≠ (slot, chan, idx)) } }

section Fetches
variable {k : Cfg} {p : PState} {slot chan idx : Nat}

theorem commitFetch_none (no : getRoute p.d slot chan = none) : commitFetch k p slot chan idx = p := by
  simp only [commitFetch, no]

variable {r : Route} (route : getRoute p.d slot chan = some r)
include route

theorem commitFetch_stays (stays : fetchChoice k p.d r = none ∨ cqFree p.d = none) : commitFetch k p slot chan idx = p := by
  simp only [commitFetch, route]
  split
  next choice entry =>
    rcases stays with no | no
    · exact absurd (choice.symm.trans no) (Option.some_ne_none _)
    · exact absurd (entry.symm.trans no) (Option.some_ne_none _)
  next => rfl

theorem commitFetch_issued {l cq : Nat} {d1 : Dyn} (choice : fetchChoice k p.d r = some (l, d1)) (entry : cqFree p.d = some cq)
    (unused : p.used = []) :
    commitFetch k p slot chan idx = p.spend (fetchIssued k p.d d1 cq slot chan idx r l) 1 [l] true := by
  rw [fetchChoice] at choice
  simp only [commitFetch, route, choice, entry, unused, regionOpen_one]
  rfl

end Fetches

theorem examine_fetch {disp : Disp} {k : Cfg} {list : List REntry} {p q : PState} {slot chan idx prio : Nat}
    (free : synthFree k p.d slot chan true = true) (committed : commitFetch k p slot chan idx = q) :
    examine disp k list p (.fetch slot chan idx prio) = (true, q) := committed ▸ if_pos free

theorem examine_fetch_idle {disp : Disp} {k : Cfg} {list : List REntry} {p : PState} {slot chan idx prio : Nat}
    (idle : synthFree k p.d slot chan true = false ∨ getRoute p.d slot chan = none) :
    examine disp k list p (.fetch slot chan idx prio) = (synthFree k p.d slot chan true, p) := by
  cases free : synthFree k p.d slot chan true with
  | false => exact if_neg (by simp [free])
  | true => exact examine_fetch free (commitFetch_none (idle.resolve_left (by simp [free])))

/-! ### A node executed inside Denut (R96, R97) -/

section Internal
variable {k : Cfg} {list : List REntry} {p q : PState} {e : REntry} {disp : Disp}
  (internal : onEngines (nodeDesc p.d e.slot e.g).op = false)
include internal

theorem examine_internal_busy (busy : internalFree p.d e (nodeDesc p.d e.slot e.g) = false) :
    examine disp k list p (.node e) = (false, p) := by
  rw [examine_internal internal, busy]
  rfl

theorem examine_internal_free (free : internalFree p.d e (nodeDesc p.d e.slot e.g) = true)
    (committed : commitInternal k list (p.looked e) e (nodeDesc p.d e.slot e.g) = q) :
    examine disp k list p (.node e) = (true, q) := by
  rw [examine_internal internal, free, committed]
  rfl

end Internal

section InternalKinds
variable {k : Cfg} {d : Dyn} {e : REntry} {x : Desc}

theorem internalBegins_route (route : x.op = kRoute) : internalBegins k d e x = routeIssue k d e.slot e.g x := if_pos route

theorem internalBegins_stat (stat : x.op = kStat) :
    internalBegins k d e x = statIssue k d e.slot e.g (((tget d.ls.slots e.slot).map (fun l => l.id.c)).getD 0) x := by
  simp [internalBegins, stat, kStat, kRoute]

theorem internalBegins_host (host : x.op = kHost) :
    internalBegins k d e x = internalEnd (hostReturn d e.slot x) e.slot e.g .ok := by
  simp [internalBegins, host, kHost, kStat, kRoute]

theorem internalBegins_graph (graph : x.op = kGraph) : internalBegins k d e x = d := by
  simp [internalBegins, graph, kGraph, kHost, kStat, kRoute]

end InternalKinds

/-! ### A SECTION (R115 to R117, R157) -/

section Sections
variable {k : Cfg} {list : List REntry} {p q : PState} {e : REntry} {disp : Disp} (sect : (nodeDesc p.d e.slot e.g).op = kSection)
include sect

theorem examine_section_reserves
    (no : sectionReady k p.d e (nodeDesc p.d e.slot e.g) (sectionMembers k p.d (nodeDesc p.d e.slot e.g)) = false) :
    examine disp k list p (.node e) = (false,
      { p with d := reserve p.d e (nodeDesc p.d e.slot e.g) (sectionMembers k p.d (nodeDesc p.d e.slot e.g)) }) := by
  rw [examine_section sect]
  dsimp only
  rw [no]
  rfl

theorem examine_section_ready
    (ready : sectionReady k p.d e (nodeDesc p.d e.slot e.g) (sectionMembers k p.d (nodeDesc p.d e.slot e.g)) = true)
    (committed : commitSection disp k list (p.looked e) e (nodeDesc p.d e.slot e.g)
      (sectionMembers k p.d (nodeDesc p.d e.slot e.g)) = q) :
    examine disp k list p (.node e) = (true, q) := by
  rw [examine_section sect]
  dsimp only
  rw [ready, committed]
  rfl

end Sections

/-! ### A node on a leaf of its own, or on two (R100, R111 to R118) -/

section Placed
variable {k : Cfg} {list : List REntry} {p q : PState} {e : REntry} {disp : Disp}
  (engines : onEngines (nodeDesc p.d e.slot e.g).op = true) (other : (nodeDesc p.d e.slot e.g).op ≠ kSection)
  (free : someFree k p.d e (nodeDesc p.d e.slot e.g) = true)
include engines other free

theorem examine_none (placed : place disp k (p.looked e).d e (nodeDesc p.d e.slot e.g) = .none) :
    examine disp k list p (.node e) = (true, p.looked e) := examine_placed engines other free placed

theorem examine_wait {l : Nat} (placed : place disp k (p.looked e).d e (nodeDesc p.d e.slot e.g) = .wait l) :
    examine disp k list p (.node e) = (true, { p with d := waitFor disp (p.looked e).d e l }) := examine_placed engines other free placed

theorem examine_leaf {l : Nat} {d : Dyn} (placed : place disp k (p.looked e).d e (nodeDesc p.d e.slot e.g) = .leaf l d)
    (committed : commitOn disp k list { p with d := d } e (nodeDesc p.d e.slot e.g) l = q) :
    examine disp k list p (.node e) = (true, q) := committed ▸ examine_placed engines other free placed

end Placed

section Shadow
variable {k : Cfg} {d : Dyn} {e : REntry} {x : Desc}

/-- A node takes one leaf: SHADOW is clear, or PIN is set, or its leaf set lies in one unit (R118). -/
def OneLeaf (k : Cfg) (d : Dyn) (e : REntry) (x : Desc) : Prop :=
  (getNode d e.g).shadow = false ∨ x.pin = true ∨
    (leafSet k d x.target).any (fun a => (leafSet k d x.target).any (fun b => unitsDiffer a b)) = false

theorem all_same_unit_eq (ls : List Nat) :
    ls.all (fun l => ls.all (fun m => !unitsDiffer l m)) = !ls.any (fun a => ls.any (fun b => unitsDiffer a b)) := by
  simp only [List.not_any_eq_all_not]

theorem shadowChoice_one (one : OneLeaf k d e x) :
    shadowChoice k d e x = (false,
      if (getNode d e.g).shadow then modNode (count d cShadowSkip 1) e.g (fun n => { n with shadow := false }) else d) := by
  unfold shadowChoice
  cases shadow : (getNode d e.g).shadow with
  | false => rfl
  | true =>
    refine (if_neg (by decide)).trans (if_pos ?_)
    rw [all_same_unit_eq]
    rcases one with clear | pin | unit
    · exact absurd clear (by simp [shadow])
    · rw [pin]; rfl
    · rw [unit]; exact Bool.or_true _

theorem shadowChoice_two (two : ¬ OneLeaf k d e x) : shadowChoice k d e x = (true, d) := by
  simp only [OneLeaf, not_or, Bool.not_eq_false, Bool.not_eq_true] at two
  obtain ⟨shadow, noPin, units⟩ := two
  simp only [shadowChoice, shadow, noPin, all_same_unit_eq, units]
  rfl

end Shadow

section OneLeafCommit
variable {disp : Disp} {k : Cfg} {list : List REntry} {p : PState} {e : REntry} {x : Desc} {l : Nat} {a d : Dyn}
  (unused : p.used = []) (single : shadowChoice k a e x = (false, d))
include unused single

theorem commitOn_one_back {d' : Dyn} (turned : turnBack disp list p d e x = some d') :
    commitOn disp k list { p with d := a } e x l = { p with d := d' } := by
  rw [commitOn_one unused single, turned]

theorem commitOn_one_noEntry (passes : turnBack disp list p d e x = none) (full : cqFree d = none) :
    commitOn disp k list { p with d := a } e x l = { p with d := d } := by
  rw [commitOn_one unused single, passes, full]

theorem commitOn_one_done (passes : turnBack disp list p d e x = none) {idx : Nat} (entry : cqFree d = some idx) :
    commitOn disp k list { p with d := a } e x l = (p.commits e x).spend (oneBegins disp k d idx e x l) 1 [l] (disp = .root) := by
  rw [commitOn_one unused single, passes, entry]

end OneLeafCommit

section TwoLeafCommit
variable {disp : Disp} {k : Cfg} {list : List REntry} {p : PState} {e : REntry} {x : Desc} {l m : Nat} {a d dm : Dyn}
  (unused : p.used = []) (left : 2 ≤ p.left) (shadowed : shadowChoice k a e x = (true, d))
  (second : best disp x.cls d ((eligible k d e.g x).filter (fun m => unitsDiffer l m && leafFree k d x.op x.bodyWords m)) = some (m, dm))
include unused left shadowed second

theorem commitOn_two_back {d' : Dyn} (turned : turnBack disp list p d e x = some d') :
    commitOn disp k list { p with d := a } e x l = { p with d := d' } := by
  rw [commitOn_two unused left shadowed second, turned]

theorem commitOn_two_noEntry (passes : turnBack disp list p d e x = none) (full : cqFree d = none) :
    commitOn disp k list { p with d := a } e x l = { p with d := d } := by
  rw [commitOn_two unused left shadowed second, passes, full]

theorem commitOn_two_done (passes : turnBack disp list p d e x = none) {idx : Nat} (entry : cqFree d = some idx) :
    commitOn disp k list { p with d := a } e x l =
      (p.commits e x).spend (twoBegin disp k dm idx e x l m) 2 [l, m] (disp = .root) := by
  rw [commitOn_two unused left shadowed second, passes, entry]

end TwoLeafCommit

/-! ### The end of an affinity wait (R102) -/

section AffinityWaits
variable {k : Cfg} {d : Dyn} {g : Nat}

theorem affinityWaitExpiry_early (early : ∀ w, d.dp.waits.find? (fun w => w.g = g) = some w →
    cyclesSince d w.since < (nodeDesc d (getNode d g).launch g).affWait) : affinityWaitExpiry g k d = d := by
  unfold affinityWaitExpiry
  cases waits : d.dp.waits.find? (fun w => w.g = g) with
  | none => rfl
  | some w => exact if_pos (early w waits)

theorem affinityWaitExpiry_over {w : AffWait} (waits : d.dp.waits.find? (fun w => w.g = g) = some w)
    (past : (nodeDesc d (getNode d g).launch g).affWait ≤ cyclesSince d w.since) : affinityWaitExpiry g k d = endWait d w true := by
  simp only [affinityWaitExpiry, waits]
  exact if_neg (Nat.not_lt.mpr past)

end AffinityWaits

/-! ### The deadline of a node (R120 to R122, R172) -/

/-- A live node of a running launch whose deadline the timestamp has reached. -/
def TimeoutDue (d : Dyn) (g : Nat) (l : Launch) : Prop :=
  (getNode d g).st ≠ .idle ∧ (getNode d g).st.terminal = false ∧ l.phase = .running ∧
    (nodeDesc d (getNode d g).launch g).waitTo ≠ 0 ∧ reached d.ts (nodeDeadline d l (getNode d g).launch g) = true

/-- The model's test for a node that does not time out fails just where its time-out is due. -/
theorem timeoutNotDue_iff (d : Dyn) (g : Nat) (l : Launch) :
    ((getNode d g).st == .idle || (getNode d g).st.terminal || l.phase ≠ .running || (nodeDesc d (getNode d g).launch g).waitTo = 0
      || !reached d.ts (nodeDeadline d l (getNode d g).launch g)) = true ↔ ¬ TimeoutDue d g l := by
  simp only [TimeoutDue, Bool.or_eq_true, beq_iff_eq, decide_eq_true_eq, Bool.not_eq_true', ← Bool.not_eq_true]
  tauto

/-- A node ends as timed out: its task stops, or what it has of waits is dropped; its launch fails, and child launches with it. -/
def timedOut (d : Dyn) (g : Nat) : Dyn :=
  let slot := (getNode d g).launch
  let counted := count d cNodeTmo 1
  let stopped := match taskOf counted slot g with
    | some t => timeoutTask counted t
    | none => dropWaiting counted slot g
  let failed := failLaunch (modNode stopped g (fun n => { n with st := .timedOut, start := false })) slot .timeout
  settle (if (nodeDesc failed slot g).op = kGraph then cancelChildren failed slot g else failed) slot

section Timeouts
variable {k : Cfg} {d : Dyn} {g : Nat}

theorem waitTimeout_notDue (no : ∀ l, tget d.ls.slots (getNode d g).launch = some l → ¬ TimeoutDue d g l) : waitTimeout g k d = d := by
  unfold waitTimeout
  cases atSlot : tget d.ls.slots (getNode d g).launch with
  | none => simp only [atSlot]
  | some l =>
    simp only [atSlot]
    exact if_pos ((timeoutNotDue_iff d g l).mpr (no l atSlot))

theorem waitTimeout_due {l : Launch} (atSlot : tget d.ls.slots (getNode d g).launch = some l) (due : TimeoutDue d g l) :
    waitTimeout g k d = timedOut d g := by
  simp only [waitTimeout, atSlot]
  exact if_neg (fun notDue => (timeoutNotDue_iff d g l).mp notDue due)

end Timeouts

/-! ### The commands -/

theorem exec_placement_clean {s : State} {disp : Disp} (h : s.part (dispUnit disp)) {hits : List Hit} (clean : Clean hits) :
    exec (.placement disp hits) s = .next (s.served (placement disp s.m.cfg s.fresh)) :=
  (runPart_open h _).trans (by rw [withHits_clean clean])

theorem exec_affinityWaitExpiry {s : State} (h : s.serving) (g : Nat) :
    exec (.affinityWaitExpiry g) s = .next (s.served (affinityWaitExpiry g s.m.cfg s.fresh)) := runSrv_open h _

theorem exec_waitTimeout {s : State} (h : s.serving) (g : Nat) :
    exec (.waitTimeout g) s = .next (s.served (waitTimeout g s.m.cfg s.fresh)) := runSrv_open h _

/-! ### The obligations -/

/-- Settles O40: a cycle of one entry is the examination of that entry, a closed tile's by its leaves and its SHADOW, a cold fetch's by its
leaf (the age of a fetch is log 99, the holders that a shadow copy does not join are log 100). -/
theorem dispatcherCycle : Obligations.DispatcherCycle := by
  intro s disp hits
  refine ⟨fun h waits => runPart_held h waits _, fun h clean => ?_⟩
  have answer : ∀ {d : Dyn}, placement disp s.m.cfg s.fresh = d → exec (.placement disp hits) s = .next (s.served d) :=
    fun e => e ▸ exec_placement_clean h clean
  refine ⟨fun alone => answer (if_pos alone), fun conflict => answer (if_neg conflict), fun nothing => answer (placement_none nothing),
    fun slot chan j prio age one => ⟨fun no => ?_, fun r t free route tile => ⟨fun no => ?_, fun l d1 cq choice entry =>
      ⟨fun plain => ?_, fun want single => ?_, fun want two second => ?_, fun m d2 want two second => ?_⟩⟩⟩,
    fun slot chan idx prio one => ⟨fun no => ?_, fun r free route => ⟨fun no => ?_, fun l d1 cq choice entry => ?_⟩⟩⟩
  · exact answer (placement_stays one (examine_tile_idle no))
  · exact answer (placement_stays one (examine_tile free (commitTile_stays route tile no)))
  · exact answer (placement_synthesises one (examine_tile free (commitTile_plain route tile choice entry rfl plain)))
  · exact answer (placement_synthesises one (examine_tile free (commitTile_skip route tile choice entry rfl want single)))
  · exact answer (placement_stays one (examine_tile free (commitTile_alone route tile choice entry want two second)))
  · exact answer (placement_synthesises one (examine_tile free (commitTile_two (p := cycleStart disp s.m.cfg s.fresh)
      route tile choice entry rfl (cycleStart_left _ _ _) want two second)))
  · exact answer (placement_stays one (examine_fetch_idle no))
  · exact answer (placement_stays one (examine_fetch free (commitFetch_stays route no)))
  · exact answer (placement_synthesises one (examine_fetch free (commitFetch_issued route choice entry rfl)))

/-- Settles O41: a node executed inside Denut by its unit, a SECTION by its members (overlapping reservations are log 74), any other node
by what `place` answers and whether it takes one leaf; an affinity wait and a deadline by whether they have passed. -/
theorem nodePlacedAndTimed : Obligations.NodePlacedAndTimed := by
  refine ⟨fun s disp hits e h clean => ?_, fun s g h => ⟨fun early => ?_, fun w waits past => ?_⟩,
    fun s g h => ⟨fun no => ?_, fun l atSlot due => ?_⟩⟩
  · intro k list d0 p x d1 answers packet one
    have answer : ∀ {d : Dyn}, placement disp k s.fresh = d → answers d := fun e => e ▸ exec_placement_clean h clean
    refine ⟨fun internal => ⟨fun busy => ?_, fun free => ⟨fun d' turned => ?_, fun passes full => ?_, fun idx passes entry => ?_⟩⟩,
      fun sect => ⟨fun no => ?_, fun ready => ⟨fun shut => ?_, fun room opened =>
        ⟨fun d' turned => ?_, fun passes full => ?_, fun idx passes entry => ?_⟩⟩⟩,
      fun engines other => ⟨fun shut => ?_, fun free => ⟨fun placed => ?_, fun l placed => ?_, fun l d2 placed =>
        ⟨fun single => ⟨fun d' turned => ?_, fun passes full => ?_, fun idx passes entry => ?_⟩,
          fun double => ⟨fun noSecond => ?_, fun m d' second =>
            ⟨fun d' turned => ?_, fun passes full => ?_, fun idx passes entry => ?_⟩⟩⟩⟩⟩⟩
    · exact answer (placement_stays one (examine_internal_busy internal busy))
    · exact answer (placement_stays one (examine_internal_free internal free (commitInternal_back turned)))
    · exact answer (placement_stays one (examine_internal_free internal free (commitInternal_full passes full)))
    · have begins := placement_issues one (examine_internal_free internal free (commitInternal_done passes entry))
      exact ⟨fun route => answer (begins.trans (internalBegins_route route)), fun stat => answer (begins.trans (internalBegins_stat stat)),
        fun host => answer (begins.trans (internalBegins_host host)), fun graph => answer (begins.trans (internalBegins_graph graph))⟩
    · exact answer (placement_stays one (examine_section_reserves sect no))
    · exact answer (placement_stays one (examine_section_ready sect ready (commitSection_full shut)))
    · exact answer (placement_stays one (examine_section_ready sect ready (commitSection_back room opened turned)))
    · exact answer (placement_stays one (examine_section_ready sect ready (commitSection_noEntry room opened passes full)))
    · have begins := placement_issues one (examine_section_ready sect ready (commitSection_done room opened passes entry))
      exact ⟨fun due => answer (begins.trans (if_pos due)), fun notDue => answer (begins.trans (if_neg (Bool.eq_false_iff.mp notDue)))⟩
    · exact answer (placement_stays one (examine_shut engines other shut))
    · exact answer (placement_stays one (examine_none engines other free placed))
    · exact answer (placement_stays one
        (examine_wait (p := cycleStart disp k s.fresh) engines other free placed))
    · exact answer (placement_stays one (examine_leaf engines other free placed
        (commitOn_one_back rfl (shadowChoice_one single) turned)))
    · exact answer (placement_stays one (examine_leaf engines other free placed
        (commitOn_one_noEntry rfl (shadowChoice_one single) passes full)))
    · exact answer (placement_issues one (examine_leaf engines other free placed
        (commitOn_one_done rfl (shadowChoice_one single) passes entry)))
    · exact answer (placement_stays one (examine_leaf engines other free placed
        (commitOn_alone (shadowChoice_two double) noSecond)))
    · exact answer (placement_stays one (examine_leaf engines other free placed
        (commitOn_two_back (p := cycleStart disp k s.fresh) rfl (cycleStart_left _ _ _) (shadowChoice_two double) second turned)))
    · exact answer (placement_stays one (examine_leaf engines other free placed
        (commitOn_two_noEntry (p := cycleStart disp k s.fresh) rfl (cycleStart_left _ _ _) (shadowChoice_two double) second passes full)))
    · exact answer (placement_issues one (examine_leaf engines other free placed
        (commitOn_two_done (p := cycleStart disp k s.fresh) rfl (cycleStart_left _ _ _) (shadowChoice_two double) second passes entry)))
  · rw [exec_affinityWaitExpiry h, affinityWaitExpiry_early (d := s.fresh) early]
  · rw [exec_affinityWaitExpiry h, affinityWaitExpiry_over (d := s.fresh) waits past]
  · rw [exec_waitTimeout h, waitTimeout_notDue (d := s.fresh) no]
  · rw [exec_waitTimeout h, waitTimeout_due (d := s.fresh) atSlot due]
    rfl

end Sys2Proof.Machine

/-! ## Work ports: notices, READ, MARK, REWIND, RELEASE and the protocol errors (R127, R131, R133 to R136, R139 to R143, R341) -/

namespace Sys2Proof.Machine

/-! ### An engine that presents nothing (Table 12.12) -/

section Presenting
variable {k : Cfg} {d : Dyn} {l : Nat}

/-- The model's test for an engine that can present nothing now. -/
theorem portShut_iff : (!k.taskEngine l || opBlocked d l) = true ↔ k.taskEngine l = false ∨ opBlocked d l = true := by
  rw [Bool.or_eq_true, Bool.not_eq_true']

theorem not_portShut (task : k.taskEngine l = true) (free : opBlocked d l = false) : ¬ (!k.taskEngine l || opBlocked d l) = true := by
  simp [task, free]

end Presenting

/-! ### Notices (R127, R131, R134) -/

/-- The lowest tag that no noticed packet of a port holds. -/
def Engine.freshTag (e : Engine) : Nat := freshNat ((e.pkts.filter (·.noticed)).map (·.ptag))

theorem Engine.freshTag_unused (e : Engine) : ∀ q ∈ e.pkts, q.noticed = true → q.ptag ≠ e.freshTag := by
  intro q hq noticed same
  have used : e.freshTag ∈ (e.pkts.filter (·.noticed)).map (·.ptag) := List.mem_map.mpr ⟨q, List.mem_filter.mpr ⟨hq, noticed⟩, same⟩
  exact (freshNat_spec _).1 used

theorem Engine.freshTag_lowest (e : Engine) : ∀ n < e.freshTag, ∃ q ∈ e.pkts, q.noticed = true ∧ q.ptag = n := by
  intro n hn
  have used : n ∈ (e.pkts.filter (·.noticed)).map (·.ptag) := (freshNat_spec _).2 n hn
  obtain ⟨q, hq, tag⟩ := List.mem_map.mp used
  obtain ⟨inPort, noticed⟩ := List.mem_filter.mp hq
  exact ⟨q, inPort, noticed, tag⟩

section Notices
variable {d : Dyn} {l : Nat} (k : Cfg)

theorem packetNotice_idle (no : ∀ p, (getEng d l).pkts.find? (fun p => !p.noticed) = some p → p.bodyWait = true) :
    packetNotice l k d = d := by
  unfold packetNotice
  cases first : (getEng d l).pkts.find? (fun p => !p.noticed) with
  | none => simp only [first]
  | some p =>
    simp only [first]
    exact if_pos (no p first)

theorem packetNotice_oldest {p : Pkt} (first : (getEng d l).pkts.find? (fun p => !p.noticed) = some p) (written : p.bodyWait = false) :
    packetNotice l k d = serveBlocked k (setEng d l { getEng d l with
      asm := p.words.getLastD (getEng d l).asm, pkts := noticeFirst (getEng d l).freshTag (getEng d l).pkts
      rp := (getEng d l).rp.onNotice (getEng d l).freshTag
      sp := (getEng d l).sp.map (fun s => s.onNotice (getEng d l).freshTag) }) l := by
  simp only [packetNotice, first, written]
  rfl

end Notices

theorem noticeFirst_oldest {tag : Nat} {ps : List Pkt} {p : Pkt} (first : ps.find? (fun p => !p.noticed) = some p) :
    noticeFirst tag ps = ps.filter (·.noticed) ++ [{ p with noticed := true, ptag := tag, beats := 4 * p.words.length }]
      ++ dropFirst (fun q => !q.noticed) (ps.filter (fun q => !q.noticed)) := by
  simp only [noticeFirst, first]

/-! ### A blocked READ (R133, R135, R136) -/

section Blocked
variable {k : Cfg} {d d' : Dyn} {l : Nat}

section
variable (blocked : (getEng d l).blocked.isSome = true)
include blocked

theorem serveBlocked_word (word : readWord k d l = some d') : serveBlocked k d l = d' := by
  simp [serveBlocked, Option.isSome_iff_ne_none.mp blocked, word]

theorem serveBlocked_idle (word : readWord k d l = none) {r : Nat} (reason : idleReason k d l = some r) :
    serveBlocked k d l = idleItem d l r (waited d (getEng d l)) := by
  simp [serveBlocked, Option.isSome_iff_ne_none.mp blocked, word, reason]

end

theorem serveBlocked_waits (word : readWord k d l = none) (reason : idleReason k d l = none) : serveBlocked k d l = d := by
  simp [serveBlocked, word, reason]

/-- A READ is blocked, with its time-out and its arrival. -/
def readBlocked (d : Dyn) (l : Nat) (tmo : BitVec 21) : Dyn :=
  { modEng d l (fun e => { e with blocked := some (BitVec.ofNat 21 (capTo tmo.toNat), d.fc), reqAge := d.rep.reqAge }) with
    rep := { d.rep with reqAge := d.rep.reqAge + 1 } }

theorem readBlocked_blocked (d : Dyn) (l : Nat) (tmo : BitVec 21) : (getEng (readBlocked d l tmo) l).blocked.isSome = true := by
  have changed : ({ getEng d l with blocked := some (BitVec.ofNat 21 (capTo tmo.toNat), d.fc), reqAge := d.rep.reqAge } : Engine) ≠ .init :=
    fun same => Option.some_ne_none _ (congrArg Engine.blocked same)
  have reads : getEng (readBlocked d l tmo) l = _ := getEng_setEng d l changed
  rw [reads]
  rfl

theorem idleTimeout_early (early : ∀ b, (getEng d l).blocked = some b → b.1 = 0 ∨ cyclesSince d b.2 < b.1.toNat) :
    idleTimeout l k d = d := by
  unfold idleTimeout
  cases blocked : (getEng d l).blocked with
  | none => rfl
  | some b => exact if_pos (by simpa using early b blocked)

theorem idleTimeout_over {b : BitVec 21 × W64} (blocked : (getEng d l).blocked = some b) (timed : b.1 ≠ 0)
    (past : b.1.toNat ≤ cyclesSince d b.2) : idleTimeout l k d = idleItem d l 1 (cyclesSince d b.2) := by
  simp only [idleTimeout, blocked]
  exact if_neg (by simpa [past] using timed)

end Blocked

/-! ### READ, MARK and REWIND (R133, R139, R141) -/

section PortCommands
variable {k : Cfg} {d : Dyn} {l : Nat}

section
variable (shut : k.taskEngine l = false ∨ opBlocked d l = true)
include shut

theorem read_shut (tmo : BitVec 21) : read l tmo k d = d := if_pos (portShut_iff.mpr shut)

theorem mark_shut : mark l k d = d := if_pos (portShut_iff.mpr shut)

theorem rewind_shut : rewind l k d = d := if_pos (portShut_iff.mpr shut)

end

variable (task : k.taskEngine l = true) (free : opBlocked d l = false)
include task free

theorem read_second (blocked : (getEng d l).blocked.isSome = true) (tmo : BitVec 21) : read l tmo k d = protoError k d l 0 0 [] :=
  (if_neg (not_portShut task free)).trans (if_pos blocked)

theorem read_first (unblocked : (getEng d l).blocked = none) (tmo : BitVec 21) :
    read l tmo k d = serveBlocked k (readBlocked d l tmo) l :=
  (if_neg (not_portShut task free)).trans (if_neg (by simp [unblocked]))

theorem mark_open : mark l k d = modEng d l (fun e => { e with sp := some e.rp }) := if_neg (not_portShut task free)

theorem rewind_saved {p : Pt} (saved : (getEng d l).sp = some p) :
    rewind l k d = serveBlocked k (modEng d l (fun e => { e with rp := p })) l := by
  refine (if_neg (not_portShut task free)).trans ?_
  simp only [saved]

theorem rewind_noMark (unsaved : (getEng d l).sp = none) : rewind l k d = out d (.noMark l) := by
  refine (if_neg (not_portShut task free)).trans ?_
  simp only [unsaved]

end PortCommands

/-! ### RELEASE (R140 to R143) -/

/-- The packet `p` is released: its words leave the port, and its credit and its report are on their way. -/
def released (d : Dyn) (l : Nat) (p : Pkt) (status : Byte) (digest : W64) : Dyn :=
  let r : Report := { task := p.task, slot := p.slot, g := p.g, leaf := l,
                      code := if p.fallow && status = 0 then BitVec.ofNat 8 Status.bankFallow.code else status,
                      digest := digest, tokdig := p.tokdig, hang := false }
  { dropPkt d l p with rep := { (dropPkt d l p).rep with
      credits := (dropPkt d l p).rep.credits ++ [(l, p.words.length, if p.op = kThread then 1 else 0, p.task)]
      reports := (dropPkt d l p).rep.reports ++ [r] } }

section Releases
variable {k : Cfg} {d : Dyn} {l ptag : Nat} (status : Byte) (digest : W64)

theorem release_shut (shut : k.taskEngine l = false ∨ opBlocked d l = true) : release l ptag status digest k d = d :=
  if_pos (portShut_iff.mpr shut)

variable (task : k.taskEngine l = true) (free : opBlocked d l = false)
include task free

theorem release_untaken (untaken : ∀ p, (getEng d l).tagged ptag = some p → p.taken = false) :
    release l ptag status digest k d = protoError k d l 3 status.toNat [] := by
  have nothing : ((getEng d l).tagged ptag).filter (·.taken) = none :=
    Option.filter_eq_none_iff.mpr (fun p tagged => by simp [untaken p tagged])
  refine (if_neg (not_portShut task free)).trans ?_
  rw [nothing]

/-- A status that no engine may use makes a record; the packet goes all the same (R142). -/
theorem release_taken {p : Pkt} (tagged : (getEng d l).tagged ptag = some p) (taken : p.taken = true) :
    release l ptag status digest k d =
      if status.toNat ∈ releaseCodes then released d l p status digest
      else fault k (released d l p status digest) { frec 0x0B .badDescriptor (unitOf l) with
        ctx := some p.ctx, launch := some p.slot, node := some p.g, eng := some (leafSlot l), detail := w64 (3 + status.toNat * 2 ^ 8) } := by
  refine (if_neg (not_portShut task free)).trans ?_
  rw [tagged, Option.filter_some_pos taken]
  simp only [List.contains_iff_mem, released]

end Releases

/-! ### The commands of a port -/

section PortsServed
variable {s : State} (h : s.serving) (l : Nat)
include h

theorem exec_read (tmo : BitVec 21) : exec (.read l tmo) s = .next (s.served (read l tmo s.m.cfg s.fresh)) := runSrv_open h _

theorem exec_mark : exec (.mark l) s = .next (s.served (mark l s.m.cfg s.fresh)) := runSrv_open h _

theorem exec_rewind : exec (.rewind l) s = .next (s.served (rewind l s.m.cfg s.fresh)) := runSrv_open h _

theorem exec_idleTimeout : exec (.idleTimeout l) s = .next (s.served (idleTimeout l s.m.cfg s.fresh)) := runSrv_open h _

theorem exec_release (ptag : Nat) (status : Byte) (digest : W64) :
    exec (.release l ptag status digest) s = .next (s.served (release l ptag status digest s.m.cfg s.fresh)) := runSrv_open h _

end PortsServed

theorem exec_packetNotice {s : State} {l : Nat} (h : s.part (unitOf l)) :
    exec (.packetNotice l) s = .next (s.served (packetNotice l s.m.cfg s.fresh)) := runPart_open h _

/-! ### A protocol error (R141) -/

/-- A protocol error with no answer counts in PORT_ERR and makes a record, and leaves every port alone. -/
theorem protoError_effect (k : Cfg) (d : Dyn) (l op status : Nat) :
    (protoError k d l op status []).en = d.en ∧
      (tgetD (protoError k d l op status []).cnt cPortErr 0).toNat = min max64 ((tgetD d.cnt cPortErr 0).toNat + 1) := by
  constructor
  · exact fault_en k (count d cPortErr 1) _
  · rw [← count_self d cPortErr 1 Nat.one_pos]
    exact congrArg BitVec.toNat (fault_cnt k (count d cPortErr 1) _ (by decide))

/-! ### The obligations -/

/-- Settles O42: a notice by the oldest packet without one, a READ by what stands at its read point, a REWIND by the saved point, a
time-out by the cycles since the READ came (a READ served after REWIND is log 47). -/
theorem workPortOperations : Obligations.WorkPortOperations := by
  intro s l k e
  refine ⟨fun h waits => runPart_held h waits _, fun h => ⟨fun no => ?_, fun p first written => ?_⟩,
    fun h => ⟨fun shut => ⟨fun tmo => ?_, ?_, ?_⟩, fun task free => ⟨fun tmo unblocked => ?_, ?_, fun p saved => ?_, fun unsaved => ?_⟩,
      fun early => ?_, fun b blocked timed past => ?_⟩⟩
  · rw [exec_packetNotice h, packetNotice_idle k no]
  · refine ⟨e.freshTag, e.freshTag_unused, e.freshTag_lowest, ?_⟩
    rw [exec_packetNotice h, packetNotice_oldest k first written, noticeFirst_oldest first]
  · rw [exec_read h, read_shut shut]
  · rw [exec_mark h, mark_shut shut]
  · rw [exec_rewind h, rewind_shut shut]
  · have answer : ∀ {d : Dyn}, serveBlocked k (readBlocked s.fresh l tmo) l = d → exec (.read l tmo) s = .next (s.served d) :=
      fun served => by rw [exec_read h, read_first task free unblocked, served]
    have blocked := readBlocked_blocked s.fresh l tmo
    exact ⟨fun d' word => answer (serveBlocked_word blocked word), fun r word reason => answer (serveBlocked_idle blocked word reason),
      fun word reason => answer (serveBlocked_waits word reason)⟩
  · rw [exec_mark h, mark_open task free]
  · rw [exec_rewind h, rewind_saved task free saved]
  · rw [exec_rewind h, rewind_noMark task free unsaved]
  · rw [exec_idleTimeout h, idleTimeout_early early]
  · rw [exec_idleTimeout h, idleTimeout_over blocked timed past]

/-- Settles O43: both commands are the protocol error of their engine. -/
theorem portProtocolErrors : Obligations.PortProtocolErrors := by
  rintro s l i detail h task free (⟨ptag, status, digest, rfl, rfl, untaken⟩ | ⟨tmo, rfl, rfl, blocked⟩)
  · obtain ⟨ports, counted⟩ := protoError_effect s.m.cfg s.fresh l 3 status.toNat
    refine ⟨_, ?_, ports, counted, rfl⟩
    rw [exec_release h, release_untaken status digest task free untaken]
  · obtain ⟨ports, counted⟩ := protoError_effect s.m.cfg s.fresh l 0 0
    refine ⟨_, ?_, ports, counted, rfl⟩
    rw [exec_read h, read_second task free blocked]

end Sys2Proof.Machine

/-! ## Heartbeats, taken reports, credits and completion reports (R77, R96, R102, R107, R117, R142 to R144, R342, R346, R350, R361) -/

namespace Sys2Proof.Machine

/-! ### HEARTBEAT and HANG (R346) -/

section Silence
variable {k : Cfg} {d : Dyn} {l : Nat}

theorem heartbeat_noEngine (other : k.taskEngine l = false) : heartbeat l k d = d := if_pos (by simp [other])

theorem heartbeat_pulse (task : k.taskEngine l = true) :
    heartbeat l k d = modEng d l (fun e => { e with silence := 0, hung := false }) := if_neg (by simp [task])

/-- An engine that holds taken packets has been silent for HANG_LIMIT × 65,536 cycles, no decision stands, and a record can enter. -/
def HangDue (k : Cfg) (d : Dyn) (l : Nat) : Prop :=
  (getEng d l).holdsTaken = true ∧ (getEng d l).hung = false ∧ summaryFull d = false ∧
    k.hangLimit.toNat * 65536 ≤ (getEng d l).silence

theorem hangNotDue_iff : (!(getEng d l).holdsTaken || (getEng d l).hung || summaryFull d
    || decide ((getEng d l).silence < k.hangLimit.toNat * 65536)) = true ↔ ¬ HangDue k d l := by
  simp only [HangDue, Bool.or_eq_true, Bool.not_eq_true', decide_eq_true_eq, ← Bool.not_eq_true, ← Nat.not_lt]
  tauto

/-- The reports with HANG of an engine's taken packets that have none yet. -/
def hangReports (l : Nat) (e : Engine) : List Report :=
  (e.pkts.filter (fun p => p.taken && !p.hung)).map (fun p =>
    { task := p.task, slot := p.slot, g := p.g, leaf := l, code := BitVec.ofNat 8 Status.hang.code, digest := 0, tokdig := 0, hang := true })

/-- An engine is decided hung; the reports of its packets are on their way. -/
def hangReported (d : Dyn) (l : Nat) : Dyn :=
  let e := getEng d l
  let d := setEng d l { e with pkts := mapIf (fun p => p.taken && !p.hung) (fun p => { p with hung := true }) e.pkts, hung := true }
  { d with rep := { d.rep with reports := d.rep.reports ++ hangReports l e } }

theorem hang_notDue (no : ¬ HangDue k d l) : hang l k d = d := if_pos (hangNotDue_iff.mpr no)

theorem hang_due (due : HangDue k d l) :
    hang l k d = fault k (hangReported d l)
      { frec 0x07 .hang (unitOf l) with eng := some (leafSlot l), detail := w64 (getEng d l).silence } :=
  if_neg (fun notDue => hangNotDue_iff.mp notDue due)

end Silence

/-! ### Taken reports (R96, R144) -/

/-- The taken report `t` of a leaf has reached the root. -/
def takenArrived (d : Dyn) (l : Nat) (t : Nat × Nat) : Dyn :=
  modTask { d with rep := { d.rep with takens := dropFirst (fun x => x = t) d.rep.takens } } t.2
    (fun x => x.setCopy l (fun c => { c with taken := true }))

/-- An issued node's task, every copy of whose packet is taken, begins to run. -/
def TaskRuns (d : Dyn) (x : Task) : Prop :=
  x.kind = .node ∧ x.ended = false ∧ x.copies.all (·.taken) = true ∧ (getNode d x.g).st = .issued

theorem taskRuns_iff (d : Dyn) (x : Task) :
    (decide (x.kind = .node) && !x.ended && x.copies.all (·.taken) && (getNode d x.g).st == .issued) = true ↔ TaskRuns d x := by
  simp only [TaskRuns, Bool.and_eq_true, decide_eq_true_eq, Bool.not_eq_true', beq_iff_eq, and_assoc]

section TakenReports
variable {k : Cfg} {d : Dyn} {l : Nat}

theorem takenReport_none (empty : d.rep.takens.find? (fun t => t.1 = l) = none) : takenReport l k d = d := by
  simp only [takenReport, empty]

variable {t : Nat × Nat} (oldest : d.rep.takens.find? (fun t => t.1 = l) = some t)
include oldest

theorem takenReport_runs {x : Task} (atIdx : taskAt (takenArrived d l t) t.2 = some x) (runs : TaskRuns (takenArrived d l t) x) :
    takenReport l k d = modNode (takenArrived d l t) x.g (fun n => { n with st := .running }) := by
  rw [takenArrived] at atIdx runs
  simp only [takenReport, oldest, atIdx]
  exact if_pos ((taskRuns_iff _ x).mpr runs)

theorem takenReport_waits (no : ∀ x, taskAt (takenArrived d l t) t.2 = some x → ¬ TaskRuns (takenArrived d l t) x) :
    takenReport l k d = takenArrived d l t := by
  rw [takenArrived] at no ⊢
  simp only [takenReport, oldest]
  split
  · rfl
  next x atIdx => exact if_neg (fun runs => no x atIdx ((taskRuns_iff _ x).mp runs))

end TakenReports

/-! ### Credits (R102, R107, R115, R143) -/

section Credits
variable {k : Cfg} {d : Dyn} {l : Nat}

/-- The credit `c` has come back to its leaf. -/
def creditArrived (d : Dyn) (l : Nat) (c : Nat × Nat × Nat × Nat) : Dyn :=
  modEng { d with rep := { d.rep with credits := dropFirst (fun x => x = c) d.rep.credits } } l (fun e =>
    { e with used := e.used - c.2.1, threads := e.threads - c.2.2.1,
             secHeld := if e.secTask.isSome then e.secHeld + c.2.1 else e.secHeld })

theorem creditReturn_none (empty : d.rep.credits.find? (fun c => c.1 = l) = none) : creditReturn l k d = d := by
  simp only [creditReturn, empty]

theorem creditReturn_oldest {c : Nat × Nat × Nat × Nat} (oldest : d.rep.credits.find? (fun c => c.1 = l) = some c) :
    creditReturn l k d = sectionCredit k (serveWaits k (creditArrived d l c) l) c.2.2.2 := by
  simp only [creditReturn, oldest, creditArrived]

end Credits

/-! ### A completion report reaches the root (R143, R144, Table 12.12) -/

/-- Report `i` must wait: for an older one of its leaf, or for the taken report or the credit of its packet. -/
def ReportEarly (d : Dyn) (i : Nat) (r : Report) : Prop :=
  (∃ x ∈ d.rep.reports.take i, x.leaf = r.leaf) ∨ (r.leaf, r.task) ∈ d.rep.takens ∨
    (r.hang = false ∧ ∃ x ∈ d.rep.credits, x.1 = r.leaf ∧ x.2.2.2 = r.task)

/-- The report is of a survey's packet, and the record of an earlier one waits. -/
def ReportJudged (d : Dyn) (r : Report) : Prop :=
  mechWaits d 0x0D = true ∧ (taskAt d r.task).any (fun t => t.op = kSurvey) = true

theorem reportWaits_iff (d : Dyn) (i : Nat) (r : Report) :
    (((d.rep.reports.take i).any (fun x => x.leaf = r.leaf) || d.rep.takens.any (fun x => x = (r.leaf, r.task))
        || (!r.hang && d.rep.credits.any (fun x => x.1 = r.leaf && x.2.2.2 = r.task)))
      || (mechWaits d 0x0D && (taskAt d r.task).any (fun t => t.op = kSurvey))) = true ↔ ReportEarly d i r ∨ ReportJudged d r := by
  simp only [ReportEarly, ReportJudged, Bool.or_eq_true, Bool.and_eq_true, Bool.not_eq_true', List.any_eq_true, decide_eq_true_eq,
    exists_eq_right, or_assoc]

/-- The reports on their way but for report `i`. -/
def reportOut (d : Dyn) (i : Nat) : Dyn := { d with rep := { d.rep with reports := d.rep.reports.eraseIdx i } }

section CompletionReports
variable {k : Cfg} {d : Dyn} {i : Nat} {r : Report}

theorem completionReport_none (empty : d.rep.reports[i]? = none) : completionReport i k d = d := by
  simp only [completionReport, empty]

variable (onWay : d.rep.reports[i]? = some r)
include onWay

theorem completionReport_waits
    (waits : ReportEarly d i r ∨ ReportJudged d r ∨ d.fs.waiting.length < (sampleReport k (reportOut d i) r).fs.waiting.length) :
    completionReport i k d = d := by
  simp only [completionReport, onWay]
  rcases or_assoc.mpr waits with held | full
  · exact if_pos ((reportWaits_iff d i r).mpr held)
  · rw [reportOut] at full
    rw [if_pos full, ite_self]

theorem completionReport_sampled (due : ¬ ReportEarly d i r) (free : ¬ ReportJudged d r)
    (room : (sampleReport k (reportOut d i) r).fs.waiting.length ≤ d.fs.waiting.length) :
    completionReport i k d = sampleReport k (reportOut d i) r := by
  simp only [completionReport, onWay]
  rw [if_neg (fun held => ((reportWaits_iff d i r).mp held).elim due free)]
  exact if_neg (Nat.not_lt.mpr room)

end CompletionReports

/-! ### What a sampled report does (R77, R117, R142, R342, R346, R350, R361) -/

/-- The copy of a packet that a report speaks of: one on its leaf, not released yet. -/
abbrev reportedCopy (t : Task) (r : Report) : Option Copy := t.copies.find? (fun c => c.leaf = r.leaf && !c.released)

/-- The status that a report gives its copy. -/
def Report.status (r : Report) : Status := if r.hang then .hang else releaseStatus r.code.toNat

/-- The task once its copy `c` has been reported: a copy keeps its first report. -/
def taskReported (d : Dyn) (r : Report) (t : Task) (c : Copy) : Task :=
  let rep := if c.report.isSome then c.report else some (r.status, r.digest.toNat, r.tokdig)
  t.setCopy r.leaf (fun c => { c with report := rep, failAt := if c.report.isSome then c.failAt else d.fc.toNat, released := !r.hang })

/-- The running side once the report of the copy `c` is in its task, recorded and judged. -/
def reportJudged (k : Cfg) (d : Dyn) (r : Report) (t : Task) (c : Copy) : Dyn :=
  let t' := taskReported d r t c
  surveyJudge k (eccReport k (modTask d r.task (fun _ => t')) t' r r.status) t' c r.status r.digest.toNat

/-- USERS of the expert of a tile whose ROUTE has gone before it falls with the report that decides the tile. -/
def tileUserGone (k : Cfg) (d : Dyn) (t t' : Task) : Dyn :=
  match t.kind with
  | .tile _ _ idx =>
    if (taskVerdict k d t).isNone && (taskVerdict k d t').isSome then modGaz d idx (fun x => { x with use := x.use - 1 }) else d
  | _ => d

section Sampling
variable {k : Cfg} {d : Dyn} {r : Report}

theorem sampleReport_stray (no : ∀ t, taskAt d r.task = some t → reportedCopy t r = none) : sampleReport k d r = strayReport k d r := by
  unfold sampleReport
  cases atIdx : taskAt d r.task with
  | none => rfl
  | some t => simp only [no t atIdx]

variable {t : Task} {c : Copy} (atIdx : taskAt d r.task = some t) (copy : reportedCopy t r = some c)
include atIdx copy

theorem sampleReport_ended (ended : t.ended = true) :
    sampleReport k d r = discardReport (tileUserGone k (reportJudged k d r t c) t (taskReported d r t c)) (taskReported d r t c) := by
  simp only [sampleReport, atIdx, copy]
  exact if_pos ended

theorem sampleReport_live (live : t.ended = false) :
    sampleReport k d r = match taskVerdict k (reportJudged k d r t c) (taskReported d r t c) with
      | none => reportJudged k d r t c
      | some v => finishTask k v.2.2 (taskReported d r t c) v.1 v.2.1 := by
  simp only [sampleReport, atIdx, copy]
  exact if_neg (fun ended => Bool.false_ne_true (live.symm.trans ended))

theorem sampleReport_undecided (live : t.ended = false)
    (verdict : taskVerdict k (reportJudged k d r t c) (taskReported d r t c) = none) : sampleReport k d r = reportJudged k d r t c := by
  rw [sampleReport_live atIdx copy live, verdict]

theorem sampleReport_decided (live : t.ended = false) {v : Status × Nat × Dyn}
    (verdict : taskVerdict k (reportJudged k d r t c) (taskReported d r t c) = some v) :
    sampleReport k d r = finishTask k v.2.2 (taskReported d r t c) v.1 v.2.1 := by
  rw [sampleReport_live atIdx copy live, verdict]

end Sampling

/-- The verdict of a task of one packet is that packet's report. -/
theorem taskVerdict_single (k : Cfg) (d : Dyn) {t : Task} {c : Copy} (one : t.copies = [c]) :
    taskVerdict k d t = c.report.map (fun r => (r.1, r.2.1, d)) := by
  simp only [taskVerdict, one]

/-- The first report of a task of one packet gives its status and digest. -/
theorem taskVerdict_firstReport (k : Cfg) (d d' : Dyn) {r : Report} {t : Task} {c : Copy} (copy : reportedCopy t r = some c)
    (one : t.copies = [c]) (first : c.report = none) :
    taskVerdict k d' (taskReported d r t c) = some (r.status, r.digest.toNat, d') := by
  have leaf : c.leaf = r.leaf := by
    have found := List.find?_some copy
    rw [Bool.and_eq_true, decide_eq_true_eq] at found
    exact found.1
  have copies : (taskReported d r t c).copies =
      [{ c with report := some (r.status, r.digest.toNat, r.tokdig), failAt := d.fc.toNat, released := !r.hang }] := by
    simp [taskReported, Task.setCopy, mapIf, one, leaf, first]
  rw [taskVerdict_single k d' copies]
  rfl

theorem Report.status_ok {r : Report} (noHang : r.hang = false) (code : r.code = 0) : r.status = .ok := by
  rw [Report.status, noHang, code]
  rfl

/-- OK of a task's one packet ends the task. -/
theorem sampleReport_singleOk {k : Cfg} {d : Dyn} {r : Report} {t : Task} {c : Copy} (atIdx : taskAt d r.task = some t)
    (copy : reportedCopy t r = some c) (one : t.copies = [c]) (first : c.report = none) (live : t.ended = false)
    (noHang : r.hang = false) (code : r.code = 0) :
    sampleReport k d r = finishTask k (reportJudged k d r t c) (taskReported d r t c) .ok r.digest.toNat := by
  have verdict := taskVerdict_firstReport k d (reportJudged k d r t c) copy one first
  rw [Report.status_ok noHang code] at verdict
  have decided := sampleReport_decided atIdx copy live verdict
  exact decided

/-! ### The commands -/

section ReportsServed
variable {s : State} (h : s.serving) (l : Nat)
include h

theorem exec_heartbeat : exec (.heartbeat l) s = .next (s.served (heartbeat l s.m.cfg s.fresh)) := runSrv_open h _

theorem exec_hang : exec (.hang l) s = .next (s.served (hang l s.m.cfg s.fresh)) := runSrv_open h _

theorem exec_takenReport : exec (.takenReport l) s = .next (s.served (takenReport l s.m.cfg s.fresh)) := runSrv_open h _

theorem exec_creditReturn : exec (.creditReturn l) s = .next (s.served (creditReturn l s.m.cfg s.fresh)) := runSrv_open h _

end ReportsServed

theorem exec_completionReport {s : State} (h : s.part (rootUnit 1)) (i : Nat) :
    exec (.completionReport i) s = .next (s.served (completionReport i s.m.cfg s.fresh)) := runPart_open h _

/-! ### The obligation -/

/-- Settles O44: a RELEASE by the status of a taken packet, HANG by whether it is due (one decision until the next pulse is log 48), the
reports by what of them is on its way, a completion report by its task and the verdict that it completes (RUNNING with the last copy
taken is log 46, stray and discarded reports are log 86, a report that waits for its record is log 19). -/
theorem packetReleasedAndReported : Obligations.PacketReleasedAndReported := by
  refine ⟨fun s l h => ⟨fun shut ptag status digest => ?_,
      fun ptag status digest p task free tagged taken => ⟨fun legal => ?_, fun illegal => ?_⟩,
      fun other => ?_, fun task => ?_, fun no => ?_, fun holds unhung room silent => ?_⟩,
    fun s l h => ⟨fun empty => ?_, fun t oldest => ⟨fun x atIdx runs => ?_, fun no => ?_⟩, fun empty => ?_, fun c oldest => ?_⟩,
    fun s i => ⟨fun h waits => runPart_held h waits _, fun h => ⟨fun empty => ?_, fun r onWay =>
      ⟨fun waits => ?_, fun due free room => ?_, fun no => ?_, fun t c atIdx copy =>
        ⟨fun ended => ?_, fun live => ⟨fun verdict => ?_, fun v verdict => ?_⟩, fun one first live noHang code => ?_⟩⟩⟩⟩⟩
  · rw [exec_release h, release_shut status digest shut]
  · rw [exec_release h, release_taken status digest task free tagged taken, if_pos legal]
    rfl
  · rw [exec_release h, release_taken status digest task free tagged taken, if_neg illegal]
    rfl
  · rw [exec_heartbeat h, heartbeat_noEngine other]
  · rw [exec_heartbeat h, heartbeat_pulse task]
  · rw [exec_hang h, hang_notDue]
    rintro ⟨holds, unhung, room, silent⟩
    simp [holds, unhung, room, Nat.not_lt.mpr silent] at no
  · rw [exec_hang h, hang_due ⟨holds, unhung, room, silent⟩]
    rfl
  · rw [exec_takenReport h, takenReport_none (d := s.fresh) empty]
  · rw [exec_takenReport h, takenReport_runs (d := s.fresh) oldest atIdx runs]
    rfl
  · rw [exec_takenReport h, takenReport_waits (d := s.fresh) oldest no]
    rfl
  · rw [exec_creditReturn h, creditReturn_none (d := s.fresh) empty]
  · rw [exec_creditReturn h, creditReturn_oldest (d := s.fresh) oldest]
    rfl
  · rw [exec_completionReport h, completionReport_none (d := s.fresh) empty]
  · rw [exec_completionReport h, completionReport_waits (d := s.fresh) onWay waits]
  · rw [exec_completionReport h, completionReport_sampled (d := s.fresh) onWay due free room]
    rfl
  · exact sampleReport_stray no
  · exact sampleReport_ended atIdx copy ended
  · exact sampleReport_undecided atIdx copy live verdict
  · exact sampleReport_decided atIdx copy live verdict
  · exact sampleReport_singleOk atIdx copy one first live noHang code

end Sys2Proof.Machine

/-! ## Presenting operations of the token interface, and SEND (R141, R174, R176 to R178, R185 to R192, R348, R378) -/

namespace Sys2Proof.Machine

/-! ### What every operation shares (R141, R177, R178) -/

/-- The command `i` is an operation presented with this code: `ok` says whether its operand word is well formed, `sig` that it waits behind
a NO_ROUTE record of the signal owner (Table 12.12). -/
def PresentedAs (s : State) (l ptag : Nat) (i : Instr) (code : Nat) (ok sig : Bool) : Prop :=
  ∃ f, exec i s = .next (s.served (if (sig && unitWaits s.fresh 0x10 (rootUnit 7)) = true then s.fresh
    else presentOp s.m.cfg s.fresh l ptag code ok f))

section Presented
variable {s : State} {l ptag code : Nat} {i : Instr} {ok sig : Bool} (presented : PresentedAs s l ptag i code ok sig)
include presented

theorem PresentedAs.waits
    (waits : s.m.cfg.taskEngine l = false ∨ opBlocked s.fresh l = true ∨ firstFree 8 0 (tkeys (getEng s.fresh l).ops) = none ∨
      (sig = true ∧ unitWaits s.fresh 0x10 (rootUnit 7) = true)) : exec i s = .next (s.served s.fresh) := by
  obtain ⟨f, answer⟩ := presented
  rw [answer]
  rcases or_assoc.mpr (or_assoc.mpr waits) with engine | ⟨isSig, held⟩
  · rw [presentOp_waits (or_assoc.mp engine), ite_self]
  · rw [if_pos (by rw [isSig, held]; rfl)]

theorem PresentedAs.protocolError {j : Nat} (task : s.m.cfg.taskEngine l = true) (free : opBlocked s.fresh l = false)
    (slot : firstFree 8 0 (tkeys (getEng s.fresh l).ops) = some j) (go : sig = true → unitWaits s.fresh 0x10 (rootUnit 7) = false)
    (bad : (∀ p, (getEng s.fresh l).tagged ptag = some p → p.taken = false) ∨ ok = false) :
    exec i s = .next (s.served (protoError s.m.cfg s.fresh l code 0 [.tokRsp l j .badDescriptor 0 0 0 0])) := by
  obtain ⟨f, answer⟩ := presented
  rw [answer, presentOp_bad task free slot bad, if_neg]
  rintro held
  obtain ⟨isSig, waits⟩ := (Bool.and_eq_true _ _).mp held
  exact Bool.false_ne_true ((go isSig).symm.trans waits)

end Presented

/-- What the statement says of every operation, from the way it is presented. -/
theorem PresentedAs.settled {s : State} {l ptag code : Nat} {i : Instr} {ok sig : Bool} (presented : PresentedAs s l ptag i code ok sig)
    {sigs malformed reserved : Prop} (isSig : sigs ↔ sig = true) (isBad : malformed ∨ reserved → ok = false) :
    let untaken := ∀ p, (getEng s.fresh l).tagged ptag = some p → p.taken = false
    ((s.m.cfg.taskEngine l = false ∨ opBlocked s.fresh l = true ∨ firstFree 8 0 (tkeys (getEng s.fresh l).ops) = none ∨
        (sigs ∧ unitWaits s.fresh 0x10 (rootUnit 7) = true)) → exec i s = .next (s.served s.fresh)) ∧
    (∀ j, s.m.cfg.taskEngine l = true → opBlocked s.fresh l = false → firstFree 8 0 (tkeys (getEng s.fresh l).ops) = some j →
      (sigs → unitWaits s.fresh 0x10 (rootUnit 7) = false) → untaken ∨ malformed ∨ reserved →
      exec i s = .next (s.served (protoError s.m.cfg s.fresh l code 0 [.tokRsp l j .badDescriptor 0 0 0 0]))) := by
  refine ⟨fun waits => presented.waits ?_, fun j task free slot go bad => ?_⟩
  · rw [isSig] at waits
    exact waits
  · exact presented.protocolError task free slot (fun yes => go (isSig.mpr yes)) (bad.imp_right isBad)

/-! ### The operations, one by one -/

section Operations
variable {s : State} (h : s.serving) (l ptag : Nat)
include h

theorem exec_send_first (hdr : W64) (payload : W256) (tmask : W32) :
    exec (.send l ⟨0, ptag⟩ hdr payload tmask) s = .next (s.served (send l ptag hdr payload tmask s.m.cfg s.fresh)) := runSrv_open h _

theorem presentedAs_send (hdr : W64) (payload : W256) (tmask : W32) :
    PresentedAs s l ptag (.send l ⟨0, ptag⟩ hdr payload tmask) 0 (hMc hdr || tmask = 0) false :=
  ⟨_, exec_send_first h l ptag hdr payload tmask⟩

theorem presentedAs_reserved {c : BitVec 4} (ten : 10 ≤ c.toNat) (hdr : W64) (payload : W256) (tmask : W32) :
    PresentedAs s l ptag (.send l ⟨c, ptag⟩ hdr payload tmask) c.toNat false false := by
  have other : ¬ c = 0 := by rintro rfl; exact absurd ten (by decide)
  exact ⟨_, (runSrv_open h _).trans (by rw [if_neg other, if_pos ten]; rfl)⟩

/-- A code of another operation does nothing through SEND's row. -/
theorem exec_send_other {c : BitVec 4} (one : 1 ≤ c.toNat) (ten : c.toNat < 10) (hdr : W64) (payload : W256) (tmask : W32) :
    exec (.send l ⟨c, ptag⟩ hdr payload tmask) s = .next (s.served s.fresh) := by
  have other : ¬ c = 0 := by rintro rfl; exact absurd one (by decide)
  exact (runSrv_open h _).trans (by rw [if_neg other, if_neg (Nat.not_le.mpr ten)])

theorem presentedAs_claim (qmask : Byte) (sel : Bool) : PresentedAs s l ptag (.claim l ptag qmask sel) 1 true false :=
  ⟨_, runSrv_open h _⟩

theorem presentedAs_unclaim (qmask : Byte) : PresentedAs s l ptag (.unclaim l ptag qmask) 2 true false := ⟨_, runSrv_open h _⟩

variable {hits : List Hit} (clean : Clean hits)
include clean

theorem presentedAs_recv (q : Nat) (tmo : BitVec 21) : PresentedAs s l ptag (.recv l ptag q tmo hits) 3 true false :=
  ⟨_, (runSrv_open h _).trans (by rw [withHits_clean clean]; rfl)⟩

/-- RAISE and TAKE. -/
theorem presentedAs_sigOp {i : Instr} {code timeout : Nat} {sig n : W16}
    (runs : exec i s = runSrv (withHits Stored.isSignal hits (sigOp l ptag code sig n timeout)) s) :
    PresentedAs s l ptag i code true true :=
  ⟨_, (runs.trans (runSrv_open h _)).trans (by rw [withHits_clean clean]; rfl)⟩

/-- CR_ACQUIRE, CR_COMMIT, CR_WAIT and CR_DRAIN. -/
theorem presentedAs_crOp {i : Instr} {code creg v timeout : Nat}
    (runs : exec i s = runSrv (withHits Stored.isCreg hits (crOp l ptag code creg v timeout)) s) :
    PresentedAs s l ptag i code true false :=
  ⟨_, (runs.trans (runSrv_open h _)).trans (by rw [withHits_clean clean]; rfl)⟩

end Operations

/-! ### SEND of a taken packet (R174, R176, R185 to R192, R348) -/

/-- What of a payload its header's LEN names. -/
abbrev sentPayload (hdr : W64) (payload : W256) : W256 := w256 (bits payload.toNat 0 (8 * hLen hdr))

/-- The targets of a group that TMASK names, each with the header of its token. -/
def namedTargets (hdr : W64) (tmask : W32) (ts : List W32) : List (Nat × W64) :=
  (((upFrom 0 ts.length).zip ts).filter (fun x => bit tmask.toNat x.1)).map (fun x => (x.1, targetHdr hdr x.2))

/-- The targets that the sending stub refuses have their statuses. -/
def targetsRefused (k : Cfg) (d : Dyn) (l j : Nat) (named : List (Nat × W64)) : Dyn :=
  named.foldl (fun d x => match targetRefused k d l x.2 with
    | some st => tgtStatus (stubNak d l) l j x.1 st
    | none => d) d

section Sending
variable {s : State} {l ptag j : Nat} {p : Pkt} {hdr : W64} {payload : W256} {tmask : W32}
  (presents : Presents s l ptag j p) (word : hMc hdr = true ∨ tmask = 0)
include presents word

/-- The operand word is well formed, so that the operation has its own effect. -/
theorem presentOp_send (f : Pkt → Nat → Dyn) :
    presentOp s.m.cfg s.fresh l ptag 0 (hMc hdr || decide (tmask = 0)) f = f p j := by
  rw [show (hMc hdr || decide (tmask = 0)) = true by simpa using word]
  exact presentOp_taken presents 0 s.m.cfg rfl f

theorem send_malformedHeader (form : sendFormOk hdr = false) :
    send l ptag hdr payload tmask s.m.cfg s.fresh = refuseSend s.fresh l j p.slot .badDescriptor := by
  rw [send, presentOp_send presents word, if_pos (by simp [form])]

variable (form : sendFormOk hdr = true)
include form

section OneToken
variable (single : hMc hdr = false)
include single

theorem send_noRoute (absent : noRoute s.m.cfg s.fresh l hdr = true) :
    send l ptag hdr payload tmask s.m.cfg s.fresh = refuseSend s.fresh l j p.slot .noRoute := by
  rw [send, presentOp_send presents word]
  simp [form, single, absent]

theorem send_shadow (routed : noRoute s.m.cfg s.fresh l hdr = false) (shadow : p.shadow = true) :
    send l ptag hdr payload tmask s.m.cfg s.fresh = shadowSend s.fresh l j p (sentPayload hdr payload) [hdr] := by
  rw [send, presentOp_send presents word]
  simp [form, single, routed, shadow]

theorem send_one (routed : noRoute s.m.cfg s.fresh l hdr = false) (plain : p.shadow = false) :
    send l ptag hdr payload tmask s.m.cfg s.fresh = tryOp s.m.cfg (putOp s.fresh l j
      { newOp s.fresh p 0 hdr (sentPayload hdr payload) 0 with tgts := [{ i := 0, hdr := hdr, st := .held }] }) l j := by
  rw [send, presentOp_send presents word]
  simp [form, single, routed, plain]

end OneToken

section ToGroup
variable (multi : hMc hdr = true)
include multi

theorem send_noGroup (undefined : tget s.m.d.tk.groups (hGroup hdr) = none) :
    send l ptag hdr payload tmask s.m.cfg s.fresh = refuseSend s.fresh l j p.slot .noRoute := by
  rw [send, presentOp_send presents word]
  simp [form, multi, undefined]

variable {ts : List W32} (group : tget s.m.d.tk.groups (hGroup hdr) = some ts)
include group

theorem send_groupNone (nobody : namedTargets hdr tmask ts = []) :
    send l ptag hdr payload tmask s.m.cfg s.fresh = ans s.fresh l j p.slot .ok 0 := by
  rw [namedTargets] at nobody
  rw [send, presentOp_send presents word]
  simp only [form, multi, State.fresh_tk, group, nobody]
  rfl

variable (named : namedTargets hdr tmask ts ≠ [])
include named

theorem send_groupShadow (shadow : p.shadow = true) :
    send l ptag hdr payload tmask s.m.cfg s.fresh =
      shadowSend s.fresh l j p (sentPayload hdr payload) ((namedTargets hdr tmask ts).map (·.2)) := by
  have notEmpty : (namedTargets hdr tmask ts).isEmpty = false := by simpa using named
  rw [namedTargets] at notEmpty
  rw [send, presentOp_send presents word]
  simp only [form, multi, State.fresh_tk, group, notEmpty, shadow]
  rfl

theorem send_group (plain : p.shadow = false) :
    send l ptag hdr payload tmask s.m.cfg s.fresh =
      sendDone s.m.cfg (tryOp s.m.cfg (targetsRefused s.m.cfg (putOp s.fresh l j
        { newOp s.fresh p 0 hdr (sentPayload hdr payload) tmask.toNat with
          tgts := (namedTargets hdr tmask ts).map (fun x => { i := x.1, hdr := x.2, st := .held }) })
        l j (namedTargets hdr tmask ts)) l j) l j none := by
  have notEmpty : (namedTargets hdr tmask ts).isEmpty = false := by simpa using named
  rw [namedTargets] at notEmpty
  rw [send, presentOp_send presents word]
  simp only [form, multi, State.fresh_tk, group, notEmpty, plain]
  rfl

end ToGroup

end Sending

/-! ### The obligation -/

/-- Settles O46: an operation by how it is presented (a reserved code through SEND's row is log 105), a SEND by its header, its group and
whether its packet is a shadow copy's (a non-zero TMASK of one token is log 115). -/
theorem tokenSent : Obligations.TokenSent := by
  refine ⟨fun s l ptag hits hdr payload tmask qmask sel q creg n sig v tmo i code h clean => ?_,
    fun s l ptag hdr payload tmask c h one ten => exec_send_other h l ptag one ten hdr payload tmask,
    fun s l ptag j p hdr payload tmask presents word => ?_⟩
  · intro sigs reserved malformed untaken kinds
    rcases kinds with ⟨rfl, rfl⟩ | ⟨rfl, rfl⟩ | ⟨rfl, rfl⟩ | ⟨rfl, rfl⟩ | ⟨rfl, rfl⟩ | ⟨rfl, rfl⟩ | ⟨rfl, rfl⟩ | ⟨rfl, rfl⟩ | ⟨rfl, rfl⟩ |
      ⟨rfl, rfl⟩ | ⟨c, ten, rfl, rfl⟩
    · refine (presentedAs_send h l ptag hdr payload tmask).settled (by simp [sigs]) ?_
      rintro (⟨-, -, single, masked⟩ | ⟨c, ten, same, -⟩)
      · rw [single, decide_eq_false masked]
        rfl
      · cases same
        exact absurd ten (by decide)
    · exact (presentedAs_claim h l ptag qmask sel).settled (by simp [sigs]) (by simp [malformed, reserved])
    · exact (presentedAs_unclaim h l ptag qmask).settled (by simp [sigs]) (by simp [malformed, reserved])
    · exact (presentedAs_recv h l ptag clean q tmo).settled (by simp [sigs]) (by simp [malformed, reserved])
    · exact (presentedAs_sigOp h l ptag clean rfl).settled (by simp [sigs]) (by simp [malformed, reserved])
    · exact (presentedAs_sigOp h l ptag clean rfl).settled (by simp [sigs]) (by simp [malformed, reserved])
    · exact (presentedAs_crOp h l ptag clean rfl).settled (by simp [sigs]) (by simp [malformed, reserved])
    · exact (presentedAs_crOp h l ptag clean rfl).settled (by simp [sigs]) (by simp [malformed, reserved])
    · exact (presentedAs_crOp h l ptag clean rfl).settled (by simp [sigs]) (by simp [malformed, reserved])
    · exact (presentedAs_crOp h l ptag clean rfl).settled (by simp [sigs]) (by simp [malformed, reserved])
    · exact (presentedAs_reserved h l ptag ten hdr payload tmask).settled (by simp [sigs]) (fun _ => rfl)
  · intro k pay answers refused
    have answer : ∀ {d : Dyn}, send l ptag hdr payload tmask k s.fresh = d → answers d :=
      fun sent => sent ▸ exec_send_first presents.1 l ptag hdr payload tmask
    refine ⟨fun form => answer (send_malformedHeader presents word form),
      fun form single => ⟨fun absent => answer (send_noRoute presents word form single absent),
        fun routed shadow => answer (send_shadow presents word form single routed shadow),
        fun routed plain => answer (send_one presents word form single routed plain)⟩,
      fun form multi undefined => answer (send_noGroup presents word form multi undefined),
      fun form multi ts group => ⟨fun nobody => answer (send_groupNone presents word form multi group nobody),
        fun named shadow => answer (send_groupShadow presents word form multi group named shadow),
        fun named plain => answer (send_group presents word form multi group named plain)⟩⟩

end Sys2Proof.Machine

/-! ## Chainage, the watches and the timestamp (R148, R151, R153 to R160, R167, R172, R406, R454) -/

namespace Sys2Proof.Machine

/-! ### The firing order (R153) -/

theorem fireBefore_iff (a b : (Nat × Nat) × Nat × Nat) : fireBefore a b = true ↔
    a.1.1 < b.1.1 ∨ (a.1.1 = b.1.1 ∧ (b.1.2 < a.1.2 ∨ (a.1.2 = b.1.2 ∧
      (a.2.1 < b.2.1 ∨ (a.2.1 = b.2.1 ∧ a.2.2 ≤ b.2.2))))) := by
  unfold fireBefore
  split_ifs <;> simp <;> omega

theorem fireBefore_total (a b : (Nat × Nat) × Nat × Nat) : fireBefore a b = true ∨ fireBefore b a = true := by
  simp only [fireBefore_iff]
  omega

theorem fireBefore_trans (a b c : (Nat × Nat) × Nat × Nat) (ab : fireBefore a b = true) (bc : fireBefore b c = true) :
    fireBefore a c = true := by
  simp only [fireBefore_iff] at *
  omega

theorem mem_firing {l : List Watch} {w : Watch} : w ∈ firing l ↔ w ∈ l ∧ w.found.isSome = true ∧ w.fired = false := by
  simp [firing]

theorem firing_inOrder (l : List Watch) : (firing l).Pairwise (fun a b => fireBefore a.key b.key = true) :=
  isort_sorted (fun a b => fireBefore_total a.key b.key) (fun a b c => fireBefore_trans a.key b.key c.key) _

theorem mem_svcFiring {l : List SvcWatch} {w : SvcWatch} : w ∈ svcFiring l ↔ w ∈ l ∧ w.found.isSome = true := by
  simp [svcFiring]

theorem svcFiring_inOrder (l : List SvcWatch) : (svcFiring l).Pairwise (fun a b => fireBefore a.key b.key = true) :=
  isort_sorted (fun a b => fireBefore_total a.key b.key) (fun a b c => fireBefore_trans a.key b.key c.key) _

/-- At most four counts of records are asked after, so that no more than four entries fire. -/
theorem firingNow_eq (d : Dyn) (l : List SvcWatch) :
    firingNow d l = (svcFiring l).take ((upFrom 1 4).filter (fun n => rpRoom d n false)).length := by
  have most : ((upFrom 1 4).filter (fun n => rpRoom d n false)).length ≤ 4 := List.length_filter_le _ _
  rw [firingNow, List.take_take, Nat.min_eq_left most]

/-! ### CHAIN_ADVANCE (R148, R151, R160, R406) -/

/-- The counter of stream `i` has gone on by `n`, and every entry of the watches has been tested. -/
def chainAdvanced (d : Dyn) (i : Nat) (n : W16) : Dyn :=
  watchTest { d with ch := { d.ch with chain := tset d.ch.chain i (chain d i + n.setWidth 64) 0 } }

section Advance
variable {k : Cfg} {d : Dyn} {i : Nat}

theorem chainAdvance_ignored (no : 16 ≤ i ∨ k.inReset = true ∨ k.frozen = true) (n : W16) : chainAdvance i n k d = d :=
  if_pos (by rcases no with stream | reset | frozen <;> simp [*])

theorem chainAdvance_counted (stream : i < 16) (run : k.inReset = false) (warm : k.frozen = false) (n : W16) :
    chainAdvance i n k d = chainAdvanced d i n :=
  if_neg (by simp [run, warm, stream])

variable {b : Block}

theorem advance_ignored (no : 16 ≤ i ∨ b.cfg.inReset = true ∨ b.cfg.frozen = true) (n : W16) : advance i n b = b := by
  simp [advance, chainAdvance_ignored no]

theorem advance_stays (stream : i < 16) (run : b.cfg.inReset = false) (warm : b.cfg.frozen = false) {n : W16}
    (stays : b.cfg.doze = .awake ∨ foundCount (chainAdvanced b.d i n) ≤ foundCount b.d) :
    advance i n b = { b with d := chainAdvanced b.d i n } := by
  rw [advance, chainAdvance_counted stream run warm]
  refine if_neg fun wakes => ?_
  rcases stays with awake | none
  · simp [Cfg.asleep, awake] at wakes
  · simp [Nat.not_lt.mpr none] at wakes

theorem advance_wakes (stream : i < 16) (run : b.cfg.inReset = false) (warm : b.cfg.frozen = false) {n : W16}
    (dozes : b.cfg.doze ≠ .awake) (finds : foundCount b.d < foundCount (chainAdvanced b.d i n)) :
    advance i n b = wake { b with d := chainAdvanced b.d i n } := by
  rw [advance, chainAdvance_counted stream run warm]
  exact if_pos (by simp [Cfg.asleep, run, warm, dozes, finds])

end Advance

theorem exec_chainAdvance (i : Nat) (n : W16) (s : State) :
    exec (.chainAdvance i n) s = .next (s.servedBlock (advance i n s.block)) := rfl

/-! ### The release watch (R155, R454) -/

section Releases
variable (k : Cfg) {n : Nat} {w : Watch} {shut : List Nat} {d : Dyn}

theorem fireReleases_nil (n : Nat) (shut : List Nat) (d : Dyn) : fireReleases k n [] shut d = d := by
  cases n <;> rfl

/-- An entry whose bank is shut, or has no room, shuts its bank for the entries behind it. -/
theorem fireReleases_passes (t : List Watch) (no : nodeBank d w.slot w.g ∈ shut ∨ readyRoom d w.slot w.g = false) :
    fireReleases k (n + 1) (w :: t) shut d = fireReleases k (n + 1) t (nodeBank d w.slot w.g :: shut) d :=
  if_pos (by simpa using no)

theorem fireReleases_fires (t : List Watch) (bank : nodeBank d w.slot w.g ∉ shut) (room : readyRoom d w.slot w.g = true) :
    fireReleases k (n + 1) (w :: t) shut d = fireReleases k n t shut (becomeReady k
      { d with ch := { d.ch with release := d.ch.release.filter (fun x => !(x.slot = w.slot && x.g = w.g)) } } w.slot w.g) :=
  if_neg (by simpa [room] using bank)

end Releases

section Watches
variable {s : State} (h : s.serving)
include h

theorem exec_releaseWatchFire : exec .releaseWatchFire s = .next (s.served (releaseWatchFire s.m.cfg s.fresh)) := runSrv_open h _

theorem exec_sectionEndFire : exec .sectionEndFire s = .next (s.served (sectionEndFire s.m.cfg s.fresh)) := runSrv_open h _

theorem exec_expiryFire : exec .expiryFire s = .next (s.served (expiryFire s.m.cfg s.fresh)) := runSrv_open h _

theorem exec_admissionFire : exec .admissionFire s = .next (s.served (admissionFire s.m.cfg s.fresh)) := runSrv_open h _

end Watches

/-! ### TS_BACK (R167, R172) -/

/-- The backward step from the timestamp that stands to `ts` has been counted and recorded. -/
def tsBackRecorded (k : Cfg) (d : Dyn) (ts : W64) : Dyn :=
  fault k (count d cTsBack 1) { frec 0x0E .timeout (7 * 4096 + 4) with
    detail := w64 (d.ts.toNat % p32 + ts.toNat % p32 * p32) }

section Timestamp
variable {k : Cfg} {d : Dyn} {ts : W64}

theorem tsBack_ignored (no : reached ts d.ts = true ∨ tsHeld d = true) : tsBack ts k d = d :=
  if_pos (by simpa using no)

section Backward
variable (back : reached ts d.ts = false) (free : tsHeld d = false)
include back free

theorem tsBack_recordWaits (waits : tsHeld (tsBackRecorded k d ts) = true) : tsBack ts k d = tsBackRecorded k d ts :=
  (if_neg (by simp [back, free])).trans (if_pos waits)

theorem tsBack_recordEnters (enters : tsHeld (tsBackRecorded k d ts) = false) :
    tsBack ts k d = { tsBackRecorded k d ts with ts := ts } :=
  (if_neg (by simp [back, free])).trans (if_neg (ne_true_of_eq_false enters))

end Backward

end Timestamp

theorem exec_tsBack_open {s : State} (run : s.m.cfg.mgtRuns = true) (ts : W64) :
    exec (.tsBack ts) s = .next (s.served (tsBack ts s.m.cfg s.fresh)) :=
  congrArg (fun b => Host.Outcome.next ({ s with m := b } : State)) (if_pos run)

theorem exec_tsBack_shut {s : State} (shut : s.m.cfg.mgtRuns = false) (ts : W64) : exec (.tsBack ts) s = .next (s.with s.fresh) :=
  congrArg (fun b => Host.Outcome.next ({ s with m := b } : State)) (if_neg (ne_true_of_eq_false shut))

theorem Cfg.mgtRuns_eq_false {k : Cfg} (shut : k.inReset = true ∨ k.frozen = true) : k.mgtRuns = false := by
  rcases shut with reset | frozen <;> simp [Cfg.mgtRuns, *]

theorem Cfg.mgtRuns_eq_true {k : Cfg} (run : k.inReset = false) (warm : k.frozen = false) : k.mgtRuns = true := by
  simp [Cfg.mgtRuns, run, warm]

/-! ### The obligation -/

/-- Settles O53: an advance by its stream, the resets and the doze, a watch by the entries that it finds reached, a timestamp by whether it
runs back (the layout of the admission report is log 39). -/
theorem chainageAndWatches : Obligations.ChainageAndWatches := by
  unfold Obligations.ChainageAndWatches
  intro s
  refine ⟨fun i n => ?_, fun l => ⟨fun w => mem_firing, firing_inOrder l⟩, fun l => ⟨fun w => mem_svcFiring, svcFiring_inOrder l⟩,
    fun h => ⟨?_, fun n w t shut d => ?_, ?_, firingNow_eq _, ?_, ?_⟩, fun ts => ?_⟩
  · refine ⟨fun no => ?_, fun stream run warm => ⟨fun stays => ?_, fun dozes finds => ?_⟩⟩
    · rw [exec_chainAdvance, advance_ignored (b := s.block) no]
      rfl
    · rw [exec_chainAdvance, advance_stays (b := s.block) stream run warm stays]
      rfl
    · rw [exec_chainAdvance, advance_wakes (b := s.block) stream run warm dozes finds]
      rfl
  · exact exec_releaseWatchFire h
  · exact ⟨fireReleases_nil _ n shut d, rfl, fireReleases_passes _ t, fireReleases_fires _ t⟩
  · exact exec_sectionEndFire h
  · exact exec_expiryFire h
  · exact exec_admissionFire h
  · refine ⟨fun shut => exec_tsBack_shut (Cfg.mgtRuns_eq_false shut) ts, fun run warm => ?_⟩
    rw [exec_tsBack_open (Cfg.mgtRuns_eq_true run warm)]
    refine ⟨fun no => ?_, fun back free => ⟨fun waits => ?_, fun enters => ?_⟩⟩
    · rw [tsBack_ignored (d := s.fresh) no]
    · rw [tsBack_recordWaits (d := s.fresh) back free waits]
      rfl
    · rw [tsBack_recordEnters (d := s.fresh) back free enters]
      rfl

end Sys2Proof.Machine

/-! ## CHAIN_PRESET, STEP and the index registers (R150, R328, R371 to R373, R379, R420, R421) -/

namespace Sys2Proof.Machine

/-! ### CHAIN_PRESET (R150, R371) -/

section ChainPresets
variable {k : Cfg} {d : Dyn} {i : Nat}

theorem chainPreset_watched (stream : i < 16) (watched : streamWatched d i = true) (v : W64) :
    chainPreset i v k d = { d with ch := { d.ch with preref := d.ch.preref ||| BitVec.ofNat 16 (2 ^ i) } } :=
  (if_neg (Nat.not_le.mpr stream)).trans (if_pos watched)

section Unwatched
variable (stream : i < 16) (free : streamWatched d i = false) (v : W64)
include stream free

theorem chainPreset_noRoom (full : rpRoom d 1 true = false) : chainPreset i v k d = dropWrite k d (0xC00 + 8 * i) :=
  (if_neg (Nat.not_le.mpr stream)).trans ((if_neg (ne_true_of_eq_false free)).trans (if_pos (by rw [full]; rfl)))

theorem chainPreset_recorded (room : rpRoom d 1 true = true) :
    chainPreset i v k d = let r := rpPut d 0x08 true 0 i (v.toNat * 2 ^ 64) [] none
      { r with ch := { r.ch with chain := tset r.ch.chain i v 0 } } :=
  (if_neg (Nat.not_le.mpr stream)).trans ((if_neg (ne_true_of_eq_false free)).trans (if_neg (by simp [room])))

end Unwatched
end ChainPresets

/-! ### STEP (R163, R372) -/

section Steps
variable {k : Cfg} {d : Dyn} (v : W64)

theorem stepWrite_running (run : d.sv.run = true) : stepWrite v k d = d := if_pos run

theorem stepWrite_noRoom (idle : d.sv.run = false) (full : rpRoom d 1 true = false) : stepWrite v k d = dropWrite k d 0x28 :=
  (if_neg (ne_true_of_eq_false idle)).trans (if_pos (by rw [full]; rfl))

theorem stepWrite_recorded (idle : d.sv.run = false) (room : rpRoom d 1 true = true) :
    stepWrite v k d = { rpPut d 0x09 true 0 0 (v.toNat * 2 ^ 64) [] none with step := v } :=
  (if_neg (ne_true_of_eq_false idle)).trans (if_neg (by simp [room]))

end Steps

/-! ### SVC_REQ_TAIL and SVC_RES_HEAD (R373) -/

section ServiceIndices
variable {k : Cfg} {d : Dyn} {v : W32}

theorem svcReqTail_idle (idle : d.sv.run = false) (v : W32) : svcReqTail v k d = d := if_pos (by rw [idle]; rfl)

theorem svcReqTail_within (run : d.sv.run = true) (fits : dist32 d.sv.reqHead v ≤ 2 ^ d.sv.reqLog2) :
    svcReqTail v k d = modSv d (fun s => { s with reqTail := v, reqPend := true }) :=
  (if_neg (by simp [run])).trans (if_neg (Nat.not_lt.mpr fits))

/-- The entry of a TAIL past the ring's size: its DSEQ, SUB and stamp are free. -/
def tailPastEntry (d : Dyn) (v : W32) : BitVec 512 :=
  BitVec.ofNat 512 (entryWord 2 .badDescriptor ((freeW d 0).setWidth 32) 7 (bits (freeW d 1).toNat 0 8) d.sv.reqHead
    (v.setWidth 64) (freeW d 2))

theorem svcReqTail_past (run : d.sv.run = true) (past : 2 ^ d.sv.reqLog2 < dist32 d.sv.reqHead v) :
    svcReqTail v k d = addPost k (svcStop k (useFree d 3) false) d.sv.ctx (tailPastEntry d v) :=
  (if_neg (by simp [run])).trans (if_pos past)

theorem svcResHead_ignored (no : d.sv.run = false ∨ dist32 d.sv.resHead d.sv.resTail < dist32 d.sv.resHead v) :
    svcResHead v k d = d :=
  if_pos (by simpa using no)

theorem svcResHead_within (run : d.sv.run = true) (fits : dist32 d.sv.resHead v ≤ dist32 d.sv.resHead d.sv.resTail) :
    svcResHead v k d = svcTryEnd k (flushResults k d.sv.results (modSv d (fun s => { s with resHead := v }))) :=
  if_neg (by simp [run, fits])

end ServiceIndices

/-! ### REPLAY_HEAD and TRACE_SPILL_HEAD (R379, R421) -/

section RingHeads
variable {b : Block} {v : W32}

theorem replayHeadWrite_within (fits : dist32 b.d.rp.head v ≤ dist32 b.d.rp.head b.d.rp.tail) :
    replayHeadWrite v b = { b with d := { b.d with rp :=
      { b.d.rp with head := v, full := b.d.rp.full && ringLacks b.cfg { b.d.rp with head := v } } } } :=
  congrArg (fun rp => ({ b with d := { b.d with rp := rp } } : Block)) (if_pos fits)

theorem replayHeadWrite_past (past : dist32 b.d.rp.head b.d.rp.tail < dist32 b.d.rp.head v) :
    replayHeadWrite v b = { b with d := { b.d with rp := { b.d.rp with headErr := true } } } :=
  congrArg (fun rp => ({ b with d := { b.d with rp := rp } } : Block)) (if_neg (Nat.not_le.mpr past))

theorem traceSpillHeadWrite_within
    (fits : dist32 b.d.tr.spillHead (v &&& ~~~(31 : W32)) ≤ dist32 b.d.tr.spillHead b.d.tr.spillTail) :
    traceSpillHeadWrite v b = { b with d := { b.d with tr := { b.d.tr with spillHead := v &&& ~~~(31 : W32) } } } :=
  if_neg (Nat.not_lt.mpr fits)

theorem traceSpillHeadWrite_past
    (past : dist32 b.d.tr.spillHead b.d.tr.spillTail < dist32 b.d.tr.spillHead (v &&& ~~~(31 : W32))) :
    traceSpillHeadWrite v b = b :=
  if_pos past

end RingHeads

/-! ### The commands -/

/-- A write at CHAIN[i] is CHAIN_PRESET of stream `i`. -/
theorem write64_chain {i : Nat} (stream : i < 16) (b : Block) (v : W64) : write64 b (0xC00 + 8 * i) v = onD b (chainPreset i v) := by
  have global : inPages (0xC00 + 8 * i) = false := by simp [inPages]; omega
  rw [write64, global, if_neg Bool.false_ne_true]
  split
  case isTrue => rw [Nat.add_sub_cancel_left, Nat.mul_div_cancel_left i (by decide)]
  case isFalse past => simp at past; omega
  all_goals omega

theorem is64_chain {i : Nat} (stream : i < 16) (k : Cfg) : is64 k (0xC00 + 8 * i) = true := by
  have global : inPages (0xC00 + 8 * i) = false := by simp [inPages]; omega
  simp [is64, global]
  omega

section Positions
variable {s : State} (hs : s.hostOpen)
include hs

theorem exec_chainPreset {i : Nat} (stream : i < 16) (v : W64) :
    exec (.chainPreset i v) s = .next (s.served (chainPreset i v s.m.cfg s.fresh)) := by
  show hostWrite (if i < 16 then 0xC00 + 8 * i else 0x50000) 8 v s = _
  rw [if_pos stream, hostWrite_global64 hs v (by simp [aligned]; omega) (by simp [inPages]; omega) (is64_chain stream _),
    write64_chain stream, servedBlock_onD]

/-- No stream has this number: the write reaches no register. -/
theorem exec_chainPreset_none {i : Nat} (none : 16 ≤ i) (v : W64) : exec (.chainPreset i v) s = .next (s.served s.fresh) := by
  show hostWrite (if i < 16 then 0xC00 + 8 * i else 0x50000) 8 v s = _
  rw [if_neg (Nat.not_lt.mpr none), hostWrite_open hs (by decide) (waitsReplay_global _ _ _ _ (by decide)),
    applyWrite_past _ _ _ (Nat.le_refl _), servedBlock_block]

theorem exec_stepWrite (v : W64) : exec (.stepWrite v) s = .next (s.served (stepWrite v s.m.cfg s.fresh)) :=
  hostWrite_global64 hs v (by decide) (by decide) (by simp [is64, inPages])

/-- The index registers are 32-bit registers of the global page. -/
theorem hostWrite_index {off : Nat} (reg : off ∈ [0x814, 0x81C, 0x910, 0xA14]) (v : W32) :
    hostWrite off 4 (v.setWidth 64) s = .next (s.servedBlock (writeGlobal32 s.block off ((v.setWidth 64).toNat % p32))) := by
  simp only [List.mem_cons, List.not_mem_nil, or_false] at reg
  rcases reg with rfl | rfl | rfl | rfl <;>
    exact hostWrite_global32 hs _ (by decide) (by decide) (by simp [is64, inPages, isCounter]) (by simp [is64, inPages, isCounter])

theorem exec_svcReqTail (v : W32) : exec (.svcReqTail v) s = .next (s.served (svcReqTail v s.m.cfg s.fresh)) := by
  rw [show exec (.svcReqTail v) s = hostWrite 0x814 4 (v.setWidth 64) s from rfl, hostWrite_index hs (by decide)]
  simp only [writeGlobal32, w32_ofHost, servedBlock_onD]

theorem exec_svcResHead (v : W32) : exec (.svcResHead v) s = .next (s.served (svcResHead v s.m.cfg s.fresh)) := by
  rw [show exec (.svcResHead v) s = hostWrite 0x81C 4 (v.setWidth 64) s from rfl, hostWrite_index hs (by decide)]
  simp only [writeGlobal32, w32_ofHost, servedBlock_onD]

theorem exec_replayHeadWrite (v : W32) : exec (.replayHeadWrite v) s = .next (s.servedBlock (replayHeadWrite v s.block)) := by
  rw [show exec (.replayHeadWrite v) s = hostWrite 0x910 4 (v.setWidth 64) s from rfl, hostWrite_index hs (by decide)]
  simp only [writeGlobal32, w32_ofHost]

theorem exec_traceSpillHeadWrite (v : W32) :
    exec (.traceSpillHeadWrite v) s = .next (s.servedBlock (traceSpillHeadWrite v s.block)) := by
  rw [show exec (.traceSpillHeadWrite v) s = hostWrite 0xA14 4 (v.setWidth 64) s from rfl, hostWrite_index hs (by decide)]
  simp only [writeGlobal32, w32_ofHost]

end Positions

/-! ### The obligation -/

/-- Settles O18: a preset by its stream, the watches and the room for its record, STEP by the service and that room, an index by how far
it lies from the one that bounds it. -/
theorem positionsWritten : Obligations.PositionsWritten := by
  unfold Obligations.PositionsWritten
  refine ⟨fun s i v hs => ⟨fun none => exec_chainPreset_none hs none v, fun stream watched => ?_,
      fun stream free => ⟨fun room => ?_, fun full => ?_⟩, fun run => ?_, fun idle => ⟨fun room => ?_, fun full => ?_⟩⟩,
    fun s v hs => ⟨fun idle => ⟨?_, ?_⟩, fun run => ⟨fun fits => ?_, fun past => ?_, fun fits => ?_, fun past => ?_⟩,
      fun fits => ?_, fun past => ?_, fun fits => ?_, fun past => ?_⟩⟩
  · rw [exec_chainPreset hs stream, chainPreset_watched stream watched]
    rfl
  · rw [exec_chainPreset hs stream, chainPreset_recorded stream free v room]
  · rw [exec_chainPreset hs stream, chainPreset_noRoom stream free v full]
  · rw [exec_stepWrite hs, stepWrite_running (d := s.fresh) v run]
  · rw [exec_stepWrite hs, stepWrite_recorded (d := s.fresh) v idle room]
  · rw [exec_stepWrite hs, stepWrite_noRoom (d := s.fresh) v idle full]
  · rw [exec_svcReqTail hs, svcReqTail_idle (d := s.fresh) idle]
  · rw [exec_svcResHead hs, svcResHead_ignored (d := s.fresh) (.inl idle)]
  · rw [exec_svcReqTail hs, svcReqTail_within (d := s.fresh) run fits]
    rfl
  · rw [exec_svcReqTail hs, svcReqTail_past (d := s.fresh) run past]
    rfl
  · rw [exec_svcResHead hs, svcResHead_within (d := s.fresh) run fits]
    rfl
  · rw [exec_svcResHead hs, svcResHead_ignored (d := s.fresh) (.inr past)]
  · rw [exec_replayHeadWrite hs, replayHeadWrite_within (b := s.block) fits]
    rfl
  · rw [exec_replayHeadWrite hs, replayHeadWrite_past (b := s.block) past]
    rfl
  · rw [exec_traceSpillHeadWrite hs, traceSpillHeadWrite_within (b := s.block) fits]
    rfl
  · rw [exec_traceSpillHeadWrite hs, traceSpillHeadWrite_past (b := s.block) past, servedBlock_block]

end Sys2Proof.Machine

/-! ## Signals: SIGNAL, RAISE, TAKE and the time-out of TAKE (R170, R171, R213, R214, R348) -/

namespace Sys2Proof.Machine

/-! ### A raise at the root (R171, R214) -/

section RaisedAt
variable {d : Dyn} {i n : Nat}

theorem raiseAt_held (held : rebasing d (.signal i) = true) (n : Nat) : raiseAt d i n = (none, d) := if_pos held

section Free
variable (free : rebasing d (.signal i) = false)
include free

theorem raiseAt_ecc (ecc : (getSig d i).ecc = true) (n : Nat) : raiseAt d i n = (some .eccUncorr, d) :=
  (if_neg (ne_true_of_eq_false free)).trans (if_pos ecc)

variable (sound : (getSig d i).ecc = false)
include sound

theorem raiseAt_zero (zero : n = 0) : raiseAt d i n = (some .ok, d) :=
  (if_neg (ne_true_of_eq_false free)).trans ((if_neg (ne_true_of_eq_false sound)).trans (if_pos zero))

theorem raiseAt_range (nonzero : n ≠ 0) (exceeds : 2 ^ 32 ≤ dist32 (getSig d i).taken (getSig d i).raised + n) :
    raiseAt d i n = (some .rangeFault, d) :=
  (if_neg (ne_true_of_eq_false free)).trans ((if_neg (ne_true_of_eq_false sound)).trans ((if_neg nonzero).trans (if_pos exceeds)))

theorem raiseAt_applied (nonzero : n ≠ 0) (fits : dist32 (getSig d i).taken (getSig d i).raised + n < 2 ^ 32) :
    raiseAt d i n = (some .ok, serveSig (setSig d i { getSig d i with raised := (getSig d i).raised + w32 n }) i) :=
  (if_neg (ne_true_of_eq_false free)).trans ((if_neg (ne_true_of_eq_false sound)).trans ((if_neg nonzero).trans
    (if_neg (Nat.not_le.mpr fits))))

end Free
end RaisedAt

/-! ### SIGNAL (R170, R214) -/

section SignalCommands
variable {k : Cfg} {d : Dyn} {c : Nat} {q : Req} (front : frontOp d c cSignal = some q)
include front

theorem signal_recordWaits (waits : unitWaits d 0x10 (rootUnit 7) = true) : signal c k d = blockReq d q := by
  rw [signal, front]
  exact if_pos waits

variable (free : unitWaits d 0x10 (rootUnit 7) = false)
include free

variable {d' : Dyn}

theorem signal_lineRead (look : mapLookup k false d (mapKey c (opn q.ops 16 2)) = (none, d')) : signal c k d = d' := by
  simp [signal, front, free, look]

variable {v : W32} (look : mapLookup k false d (mapKey c (opn q.ops 16 2)) = (some v, d'))
include look

theorem signal_unmapped (unmapped : sigOf v = none) :
    signal c k d = finish (takeReq (sigFault k d' c (opn q.ops 16 2)) q) q.id cSignal .noRoute 0 := by
  simp [signal, front, free, look, unmapped]

variable {i : Nat} (mapped : sigOf v = some i)
include mapped

theorem signal_held (held : rebasing d' (.signal i) = true) : signal c k d = blockReq d' q := by
  simp [signal, front, free, look, mapped, raiseAt_held held]

theorem signal_decided {st : Status} {d'' : Dyn} (raised : raiseAt d' i (opn q.ops 18 2) = (some st, d'')) :
    signal c k d = finish (takeReq d'' q) q.id cSignal st 0 := by
  simp [signal, front, free, look, mapped, raised]

end SignalCommands

theorem exec_signal_clean {s : State} (h : s.serving) (c : Nat) {hits : List Hit} (clean : Clean hits) :
    exec (.signal c hits) s = .next (s.served (signal c s.m.cfg s.fresh)) :=
  (runSrv_open h _).trans (by rw [withHits_clean clean])

/-- Settles O9: SIGNAL by its lookup, by the entry of its identifier, and by the raise at the root. -/
theorem signalCommand : Obligations.SignalCommand := by
  unfold Obligations.SignalCommand
  intro s c hits q h clean front
  have answer : ∀ {d : Dyn}, signal c s.m.cfg s.fresh = d → exec (.signal c hits) s = .next (s.served d) :=
    fun signalled => signalled ▸ exec_signal_clean h c clean
  exact ⟨fun waits => answer (signal_recordWaits front waits), fun free =>
    ⟨fun d look => answer (signal_lineRead front free look), fun v d look =>
      ⟨fun unmapped => answer (signal_unmapped front free look unmapped), fun i mapped =>
        ⟨fun held => answer (signal_held front free look mapped held),
          fun still ecc => answer (signal_decided front free look mapped (raiseAt_ecc still ecc _)),
          fun still sound zero => answer (signal_decided front free look mapped (raiseAt_zero still sound zero)),
          fun still sound nonzero exceeds => answer (signal_decided front free look mapped (raiseAt_range still sound nonzero exceeds)),
          fun still sound nonzero fits =>
            answer (signal_decided front free look mapped (raiseAt_applied still sound nonzero fits))⟩⟩⟩⟩

/-! ### The lookup of a RAISE or TAKE (R213, R214, R348) -/

/-- The slot of a RAISE or TAKE: its operands are the identifier, the count and the time-out. -/
def sigSlot (d : Dyn) (p : Pkt) (code : Nat) (sig n : W16) (timeout : Nat) : OpSlot :=
  newOp d p code 0 0 (sig.toNat + n.toNat * 2 ^ 16 + timeout * 2 ^ 32)

/-- Both operands of the slot are read back: a TIMEOUT operand acts as at most 2^20. -/
theorem sigSlot_operands (d : Dyn) (p : Pkt) (code : Nat) (sig n : W16) {timeout : Nat} (capped : timeout ≤ 2 ^ 20) :
    bits (sigSlot d p code sig n timeout).arg.toNat 16 16 = n.toNat ∧
      bits (sigSlot d p code sig n timeout).arg.toNat 32 21 = timeout := by
  have hs := sig.isLt
  have hn := n.isLt
  simp only [sigSlot, newOp, w64, bits, BitVec.toNat_ofNat, Nat.shiftRight_eq_div_pow]
  omega

/-- An operation stays in its slot while its identifier is looked up. -/
theorem getOp_mapLookup {k : Cfg} {evt : Bool} {d d' : Dyn} {l j key : Nat} {o : OpSlot} {r : Option W32}
    (look : mapLookup k evt (putOp d l j o) key = (r, d')) : getOp d' l j = some o := by
  have engines : d'.en = (putOp d l j o).en := by rw [← mapLookup_en k evt (putOp d l j o) key, look]
  have same : getOp d' l j = getOp (putOp d l j o) l j := by rw [getOp, getOp, getEng, getEng, engines]
  rw [same, getOp_putOp]

section SigOps
variable {s : State} {l ptag j : Nat} {p : Pkt} (presents : Presents s l ptag j p)
  (free : unitWaits s.fresh 0x10 (rootUnit 7) = false) {code : Nat} {sig n : W16} {timeout : Nat}
include presents free

theorem sigOp_shadow (shadow : p.shadow = true) :
    sigOp l ptag code sig n timeout s.m.cfg s.fresh = ans s.fresh l j p.slot (if code = 4 then .ok else .badDescriptor) 0 := by
  rw [sigOp, if_neg (ne_true_of_eq_false free), presentOp_taken presents code _ rfl]
  exact if_pos shadow

variable (plain : p.shadow = false)
include plain

theorem sigOp_plain :
    sigOp l ptag code sig n timeout s.m.cfg s.fresh = sigLookup s.m.cfg (putOp s.fresh l j (sigSlot s.fresh p code sig n timeout))
      { ctx := p.ctx, id := sig.toNat, leaf := l, opslot := j, own := none } := by
  rw [sigOp, if_neg (ne_true_of_eq_false free), presentOp_taken presents code _ rfl]
  exact if_neg (ne_true_of_eq_false plain)

variable {d : Dyn}

theorem sigOp_lineRead
    (look : mapLookup s.m.cfg false (putOp s.fresh l j (sigSlot s.fresh p code sig n timeout)) (mapKey p.ctx sig.toNat) = (none, d)) :
    sigOp l ptag code sig n timeout s.m.cfg s.fresh = { d with sg := { d.sg with mapWaits := d.sg.mapWaits ++
      [{ ctx := p.ctx, id := sig.toNat, leaf := l, opslot := j, own := none }] } } := by
  rw [sigOp_plain presents free plain, sigLookup, look]

variable {v : W32}
  (look : mapLookup s.m.cfg false (putOp s.fresh l j (sigSlot s.fresh p code sig n timeout)) (mapKey p.ctx sig.toNat) = (some v, d))
include look

theorem sigOp_unmapped (unmapped : sigOf v = none) :
    sigOp l ptag code sig n timeout s.m.cfg s.fresh = ans (sigFault s.m.cfg d p.ctx sig.toNat) l j p.slot .noRoute 0 := by
  rw [sigOp_plain presents free plain, sigLookup, look]
  simp [sigAct, unmapped, getOp_mapLookup look, sigSlot, newOp]

theorem sigOp_mapped {i : Nat} (mapped : sigOf v = some i) :
    sigOp l ptag code sig n timeout s.m.cfg s.fresh = sigDecide d l j i (sigSlot s.fresh p code sig n timeout) := by
  rw [sigOp_plain presents free plain, sigLookup, look]
  simp [sigAct, mapped, getOp_mapLookup look]

end SigOps

/-! ### The decision at the counter (R171, R214) -/

section Decisions
variable {d : Dyn} {l j i : Nat} {o : OpSlot}

theorem sigDecide_held (held : rebasing d (.signal i) = true) : sigDecide d l j i o = holdOp d (.signal i) l j := if_pos held

variable (free : rebasing d (.signal i) = false)
include free

theorem sigDecide_raise (code : o.code = 4) {st : Status} {d' : Dyn} (raised : raiseAt d i (bits o.arg.toNat 16 16) = (some st, d')) :
    sigDecide d l j i o = ans d' l j o.slot st 0 := by
  simp [sigDecide, free, code, raised]

section Takes
variable (code : o.code = 5)
include code

theorem sigDecide_takeEcc (ecc : (getSig d i).ecc = true) : sigDecide d l j i o = ans d l j o.slot .eccUncorr 0 := by
  simp [sigDecide, free, code, ecc]

variable (sound : (getSig d i).ecc = false)
include sound

theorem sigDecide_takeZero (zero : bits o.arg.toNat 16 16 = 0) : sigDecide d l j i o = ans d l j o.slot .ok 0 := by
  simp [sigDecide, free, code, sound, zero]

variable (nonzero : bits o.arg.toNat 16 16 ≠ 0)
include nonzero

theorem sigDecide_takeFull (full : 4096 ≤ d.sg.takes.length ∧ takeWaits d i (bits o.arg.toNat 16 16) = true) :
    sigDecide d l j i o = ans d l j o.slot .full 0 := by
  simp [sigDecide, free, code, sound, nonzero, full]

theorem sigDecide_takePends (room : ¬ (4096 ≤ d.sg.takes.length ∧ takeWaits d i (bits o.arg.toNat 16 16) = true)) :
    let t : PendTake := { ctr := i, leaf := l, opslot := j, n := bits o.arg.toNat 16 16, timed := bits o.arg.toNat 32 21 ≠ 0,
                          since := d.fc }
    sigDecide d l j i o = serveSig { d with sg := { d.sg with takes := d.sg.takes ++ [t] } } i := by
  simp [sigDecide, free, code, sound, nonzero, room]

end Takes
end Decisions

/-! ### The time-out of a TAKE (R214) -/

/-- The operation in slot `j` of engine `l` is the pending TAKE `t` in the slot `o`, and its time-out has passed. -/
def TakeExpired (d : Dyn) (l j : Nat) (t : PendTake) (o : OpSlot) : Prop :=
  d.sg.takes.find? (fun t => t.leaf = l && t.opslot = j && t.timed) = some t ∧ getOp d l j = some o ∧
    bits o.arg.toNat 32 21 ≤ cyclesSince d t.since

section TakeTimeouts
variable {k : Cfg} {d : Dyn} {l j : Nat}

theorem takeTimeout_expired {t : PendTake} {o : OpSlot} (expired : TakeExpired d l j t o) :
    takeTimeout l j k d = serveSig (ans
      { d with sg := { d.sg with takes := dropFirst (fun y => y = t) d.sg.takes } } l j o.slot .timeout 0) t.ctr := by
  obtain ⟨pending, slot, passed⟩ := expired
  rw [takeTimeout, pending, slot]
  exact if_neg (Nat.not_lt.mpr passed)

theorem takeTimeout_early (early : ∀ t o, ¬ TakeExpired d l j t o) : takeTimeout l j k d = d := by
  unfold takeTimeout
  split
  next t o pending slot => exact if_pos (Nat.not_le.mp fun passed => early t o ⟨pending, slot, passed⟩)
  next => rfl

end TakeTimeouts

/-! ### The commands -/

section SignalsServed
variable {s : State} (h : s.serving)
include h

theorem exec_raise_clean (l ptag : Nat) (sig n : W16) {hits : List Hit} (clean : Clean hits) :
    exec (.raise l ptag sig n hits) s = .next (s.served (sigOp l ptag 4 sig n 0 s.m.cfg s.fresh)) :=
  (runSrv_open h _).trans (by rw [withHits_clean clean])

theorem exec_take_clean (l ptag : Nat) (sig n : W16) (tmo : BitVec 21) {hits : List Hit} (clean : Clean hits) :
    exec (.take l ptag sig n tmo hits) s = .next (s.served (sigOp l ptag 5 sig n (capTo tmo.toNat) s.m.cfg s.fresh)) :=
  (runSrv_open h _).trans (by rw [withHits_clean clean])

theorem exec_takeTimeout (l j : Nat) : exec (.takeTimeout l j) s = .next (s.served (takeTimeout l j s.m.cfg s.fresh)) :=
  runSrv_open h _

end SignalsServed

/-! ### The obligation -/

/-- Settles O48: a RAISE or TAKE by its packet, its lookup and its counter, the time-out by whether a pending TAKE of its slot has run out
of time. -/
theorem signalOperations : Obligations.SignalOperations := by
  unfold Obligations.SignalOperations
  refine ⟨fun s l ptag j p sig n tmo hits presents clean free => ?_, fun s l q h => ⟨fun t w expired => ?_, fun early => ?_⟩⟩
  · have raised : ∀ {d : Dyn}, sigOp l ptag 4 sig n 0 s.m.cfg s.fresh = d →
        exec (.raise l ptag sig n hits) s = .next (s.served d) := fun raise => raise ▸ exec_raise_clean presents.1 l ptag sig n clean
    have taken : ∀ {d : Dyn}, sigOp l ptag 5 sig n (capTo tmo.toNat) s.m.cfg s.fresh = d →
        exec (.take l ptag sig n tmo hits) s = .next (s.served d) := fun take => take ▸ exec_take_clean presents.1 l ptag sig n tmo clean
    have raises := (sigSlot_operands s.fresh p 4 sig n (Nat.zero_le _)).1
    obtain ⟨takes, timed⟩ := sigSlot_operands s.fresh p 5 sig n (timeout := capTo tmo.toNat) (Nat.min_le_right _ _)
    have natural : n ≠ 0 → n.toNat ≠ 0 := fun nonzero zero => nonzero (BitVec.eq_of_toNat_eq zero)
    refine ⟨fun shadow => ⟨raised (sigOp_shadow presents free shadow), taken (sigOp_shadow presents free shadow)⟩,
      fun plain => ⟨fun d look => raised (sigOp_lineRead presents free plain look),
        fun d look => taken (sigOp_lineRead presents free plain look),
        fun v d look unmapped => raised (sigOp_unmapped presents free plain look unmapped),
        fun v d look unmapped => taken (sigOp_unmapped presents free plain look unmapped),
        fun v d i look mapped => ?_, fun v d i look mapped => ?_⟩⟩
    · have decided := sigOp_mapped presents free plain look mapped
      refine ⟨fun held => raised (decided.trans (sigDecide_held held)), fun still => ⟨fun ecc => ?_, fun sound zero => ?_,
        fun sound nonzero => ⟨fun fits => ?_, fun exceeds => ?_⟩⟩⟩
      · exact raised (decided.trans (sigDecide_raise still rfl (raiseAt_ecc still ecc _)))
      · exact raised (decided.trans (sigDecide_raise still rfl (raiseAt_zero still sound (by rw [raises, zero]; rfl))))
      · have applied := raiseAt_applied still sound (natural nonzero) fits
        rw [w32, BitVec.ofNat_toNat] at applied
        exact raised (decided.trans (sigDecide_raise still rfl (by rw [raises]; exact applied)))
      · have refused := raiseAt_range still sound (natural nonzero) exceeds
        exact raised (decided.trans (sigDecide_raise still rfl (by rw [raises]; exact refused)))
    · have decided := sigOp_mapped presents free plain look mapped
      refine ⟨fun held => taken (decided.trans (sigDecide_held held)), fun still => ⟨fun ecc => ?_, fun sound zero => ?_,
        fun sound nonzero => ⟨fun full => ?_, fun room => ?_⟩⟩⟩
      · exact taken (decided.trans (sigDecide_takeEcc still rfl ecc))
      · exact taken (decided.trans (sigDecide_takeZero still rfl sound (by rw [takes, zero]; rfl)))
      · rw [← takes] at full
        exact taken (decided.trans (sigDecide_takeFull still rfl sound (by rw [takes]; exact natural nonzero) full))
      · rw [← takes] at room
        have pends := sigDecide_takePends (l := l) (j := j) still rfl sound (by rw [takes]; exact natural nonzero) room
        rw [takes, timed] at pends
        exact taken (decided.trans pends)
  · rw [exec_takeTimeout h, takeTimeout_expired (d := s.fresh) expired]
    rfl
  · rw [exec_takeTimeout h, takeTimeout_early (d := s.fresh) early]

end Sys2Proof.Machine

/-! ## The dispatch cycle and the state right after reset (R150, R163, R165, R391, R405, R416, R423) -/

namespace Sys2Proof.Machine

/-! ### What a cycle does to FC and to the timestamp -/

/-- FC and the timestamp of the first state stand in the second one too. -/
def SameClocks (d e : Dyn) : Prop := e.fc = d.fc ∧ e.ts = d.ts

section Clocks
variable {d e f : Dyn}

theorem SameClocks.refl (d : Dyn) : SameClocks d d := ⟨rfl, rfl⟩

theorem SameClocks.trans (de : SameClocks d e) (ef : SameClocks e f) : SameClocks d f :=
  ⟨ef.1.trans de.1, ef.2.trans de.2⟩

theorem SameClocks.foldl {α : Type} {step : Dyn → α → Dyn} (kept : ∀ d a, SameClocks d (step d a)) (l : List α) (d : Dyn) :
    SameClocks d (l.foldl step d) :=
  List.foldlRecOn l step (SameClocks.refl d) (fun _ same a _ => same.trans (kept _ a))

theorem countIf_sameClocks (c : Bool) (off : Nat) (d : Dyn) : SameClocks d (countIf c off d) := by
  cases c <;> exact ⟨rfl, rfl⟩

theorem tickBanks_sameClocks (d : Dyn) : SameClocks d (tickBanks d) :=
  have counted (c : Bool) (off : Nat) (d : Dyn) : SameClocks d (if c = true then count d off 1 else d) := countIf_sameClocks c off d
  ((counted _ cReadyBp _).trans (counted _ cBankSkew _)).trans
    (SameClocks.foldl (step := fun d b => { d with bankTally := tset d.bankTally b (tgetD d.bankTally b 0 + 1) 0 })
      (fun _ _ => ⟨rfl, rfl⟩) _ _)

theorem tickWaits_sameClocks (k : Cfg) (d : Dyn) : SameClocks d (tickWaits k d) :=
  ((countIf_sameClocks _ _ _).trans (countIf_sameClocks _ _ _)).trans (countIf_sameClocks _ _ _)

theorem tickEngine_sameClocks (d : Dyn) (e : Nat × Engine) : SameClocks d (tickEngine d e) := by
  unfold tickEngine
  split
  · exact .refl d
  · have counted : SameClocks d (count d (cRegBusy (leafRegion e.1)) 1) := ⟨rfl, rfl⟩
    have busy : ∀ d slot, SameClocks d (addCount d slot (fun c => { c with busy := min (2 ^ 48 - 1) (c.busy + 1) })) :=
      fun _ _ => ⟨rfl, rfl⟩
    exact (counted.trans (SameClocks.foldl busy ((e.2.pkts.filter (·.taken)).map (·.slot)).eraseDups _)).trans
      (f := modEng _ e.1 _) ⟨rfl, rfl⟩

theorem writeBeat_sameClocks (k : Cfg) (d : Dyn) (e : Nat × Engine) : SameClocks d (writeBeat k d e) := by
  unfold writeBeat
  split
  · exact .refl d
  · split
    · exact .refl d
    · exact ⟨rfl, rfl⟩

/-- What a cycle of the serving planes does before the watches and the timestamp. -/
def planesTick (k : Cfg) (d : Dyn) : Dyn := d.en.foldl (writeBeat k) (d.en.foldl tickEngine (tickWaits k (tickBanks d)))

theorem planesTick_sameClocks (k : Cfg) (d : Dyn) : SameClocks d (planesTick k d) :=
  (((tickBanks_sameClocks d).trans (tickWaits_sameClocks k _)).trans (SameClocks.foldl tickEngine_sameClocks _ _)).trans
    (SameClocks.foldl (writeBeat_sameClocks k) _ _)

theorem tickWatches_sameClocks (d : Dyn) : SameClocks d (tickWatches d) := ⟨rfl, rfl⟩

end Clocks

@[simp] theorem tickTs_fc (d : Dyn) : (tickTs d).fc = d.fc := by
  unfold tickTs
  split <;> rfl

/-- The sampled timestamp goes on by at most 2 (log 3). -/
theorem tickTs_advance (d : Dyn) : ((tickTs d).ts - d.ts).toNat ≤ 2 := by
  unfold tickTs
  split
  · simp
  · rw [BitVec.add_comm, BitVec.add_sub_cancel, w64, BitVec.toNat_ofNat]
    exact (Nat.mod_le _ _).trans (Nat.min_le_left _ _)

/-! ### A cycle of the block -/

section Cycle
variable {b : Block}

theorem tick_still (still : b.cfg.inReset = true ∨ b.cfg.frozen = true) : tick b = b :=
  if_pos (by simpa using still)

theorem tick_dozing (run : b.cfg.inReset = false) (warm : b.cfg.frozen = false) (dozes : b.cfg.doze ≠ .awake) :
    tick b = { b with d := tickTs (tickWatches b.d) } :=
  (if_neg (by simp [run, warm])).trans (if_pos dozes)

/-- What a clocked cycle does before it samples the timestamp and counts itself. -/
def clockedTick (b : Block) : Dyn := tickWatches (if b.cfg.serving = true then planesTick b.cfg b.d else b.d)

theorem clockedTick_sameClocks (b : Block) : SameClocks b.d (clockedTick b) := by
  unfold clockedTick
  split
  · exact (planesTick_sameClocks _ _).trans (tickWatches_sameClocks _)
  · exact tickWatches_sameClocks _

theorem tick_awake (run : b.cfg.inReset = false) (warm : b.cfg.frozen = false) (awake : b.cfg.doze = .awake) :
    tick b = { b with d := { tickTs (clockedTick b) with fc := (tickTs (clockedTick b)).fc + 1 } } :=
  (if_neg (by simp [run, warm])).trans (if_neg (not_not.mpr awake))

end Cycle

/-- A cycle does nothing at all, or samples the timestamp, and counts itself where the dispatch clock runs. -/
theorem tick_cases (b : Block) : (b.cfg.clocked = false ∧ tick b = b) ∨ ∃ d, SameClocks b.d d ∧
    ((b.cfg.clocked = false ∧ tick b = { b with d := tickTs d }) ∨
      (b.cfg.clocked = true ∧ tick b = { b with d := { tickTs d with fc := (tickTs d).fc + 1 } })) := by
  by_cases still : b.cfg.inReset = true ∨ b.cfg.frozen = true
  · exact .inl ⟨by rcases still with reset | frozen <;> simp [Cfg.clocked, *], tick_still still⟩
  obtain ⟨run, warm⟩ : b.cfg.inReset = false ∧ b.cfg.frozen = false := by simpa using still
  refine .inr ?_
  by_cases awake : b.cfg.doze = .awake
  · exact ⟨clockedTick b, clockedTick_sameClocks b, .inr ⟨by simp [Cfg.clocked, run, warm, awake], tick_awake run warm awake⟩⟩
  · exact ⟨_, tickWatches_sameClocks _, .inl ⟨by simp [Cfg.clocked, awake], tick_dozing run warm awake⟩⟩

theorem tick_fc (b : Block) : (tick b).d.fc = b.d.fc + (if b.cfg.clocked = true then 1 else 0) := by
  rcases tick_cases b with ⟨off, same⟩ | ⟨d, ⟨fc, -⟩, ⟨off, ticked⟩ | ⟨on, ticked⟩⟩
  · simp [same, off]
  · simp [ticked, off, fc]
  · simp [ticked, on, fc]

theorem tick_ts (b : Block) : ((tick b).d.ts - b.d.ts).toNat ≤ 2 := by
  rcases tick_cases b with ⟨-, same⟩ | ⟨d, ⟨-, ts⟩, ⟨-, ticked⟩ | ⟨-, ticked⟩⟩
  · simp [same]
  · rw [ticked, ← ts]
    exact tickTs_advance d
  · rw [ticked, ← ts]
    exact tickTs_advance d

theorem step_idle {s : State} (idle : s.pending = []) : step s = .next { s with m := tick s.block } := by
  obtain ⟨pending, m⟩ := s
  obtain rfl : pending = [] := idle
  rfl

/-! ### The obligations -/

/-- Settles O3: nothing in reset and while frozen, the power controller's island in DOZE, and else a whole cycle. -/
theorem idleStepIsOneCycle : Obligations.IdleStepIsOneCycle := by
  unfold Obligations.IdleStepIsOneCycle
  intro s idle
  refine ⟨_, step_idle idle, idle, tick_cfg _, tick_fc s.block, tick_ts s.block, fun still => ?_⟩
  rw [tick_still (b := s.block) still]
  rfl

/-- Settles O57: every field by its value at reset. -/
theorem resetState : Obligations.ResetState :=
  ⟨rfl, rfl, rfl, rfl, rfl, rfl, rfl, rfl, rfl, rfl, rfl, rfl, fun _ => rfl, fun _ => rfl, rfl, rfl, rfl, rfl, rfl,
    legal_reset _, reset_wf⟩

end Sys2Proof.Machine

/-! ## LINK_KEY, the map bases, the routing registers, the replay registers and SURVEY_CTL (R195, R328, R359, R374, R379, R404) -/

namespace Sys2Proof.Machine

/-! ### LINK_KEY (R195, R328) -/

section LinkKeys
variable {k : Cfg} {d : Dyn}

theorem linkKeyApply_none (none : d.lk.pendKey = none) : linkKeyApply k d = d := by rw [linkKeyApply, none]

variable {key : W64} (pends : d.lk.pendKey = some key)
include pends

theorem linkKeyApply_unacknowledged (crossing : crossOut k d = true) : linkKeyApply k d = d := by
  rw [linkKeyApply, pends]
  exact if_pos crossing

variable (quiet : crossOut k d = false)
include quiet

theorem linkKeyApply_noRoom (full : rpRoom d 1 true = false) : linkKeyApply k d = linkKeyDone k (dropWrite k d 0x108) := by
  simp [linkKeyApply, pends, quiet, full]

theorem linkKeyApply_recorded (room : rpRoom d 1 true = true) :
    linkKeyApply k d = let r := rpPut d 0x0A true 0 0 (key.toNat * 2 ^ 64) [] none
      linkKeyDone k { r with lk := { r.lk with key := key } } := by
  simp [linkKeyApply, pends, quiet, room]

end LinkKeys

/-! ### The map bases and the routing registers (R374) -/

section Tables
variable {b : Block} (v : W64)

theorem mapBaseWrite_refused (evt : Bool) (opened : (b.d.fe.ctxs.any (fun c => c.2.isOpen)) = true) :
    mapBaseWrite evt v b = { b with cfg := { b.cfg with mapIgn := true } } := if_pos opened

theorem mapBaseWrite_taken (evt : Bool) (closed : (b.d.fe.ctxs.any (fun c => c.2.isOpen)) = false) :
    mapBaseWrite evt v b = { cfg := if evt then { b.cfg with evtMapBase := v } else { b.cfg with sigMapBase := v },
                             d := { b.d with sg := { b.d.sg with cache := [], ecache := [] } } } :=
  if_neg (ne_true_of_eq_false closed)

theorem routeConfigWrite_refused (off : Nat) (busy : routesBusy b.d = true) :
    routeConfigWrite off v b = { b with cfg := { b.cfg with cfgIgn := true } } := if_pos busy

section Idle
variable (idle : routesBusy b.d = false)
include idle

theorem routeConfigWrite_gazBase : routeConfigWrite 0x118 v b =
    { cfg := { b.cfg with gazBase := v }, d := gazSkip { b.d with rt := { b.d.rt with gcache := [] } } (fun _ => true) } :=
  if_neg (ne_true_of_eq_false idle)

theorem routeConfigWrite_stageBase : routeConfigWrite 0x120 v b = { b with cfg := { b.cfg with stageBase := v } } :=
  if_neg (ne_true_of_eq_false idle)

theorem routeConfigWrite_stageSize : routeConfigWrite 0x128 v b = { b with cfg := { b.cfg with stageSize := v } } :=
  if_neg (ne_true_of_eq_false idle)

theorem routeConfigWrite_stageSlot : routeConfigWrite 0x130 v b = { b with cfg := { b.cfg with stageSlot := v.setWidth 32 } } :=
  if_neg (ne_true_of_eq_false idle)

end Idle
end Tables

/-! ### REPLAY_BASE and REPLAY_CFG (R379) -/

/-- The replay ring's registers are free: the block is not deterministic and nothing is recorded. -/
def ReplayFree (b : Block) : Prop := b.cfg.det = false ∧ b.d.rp.recording = false

/-- A value of REPLAY_CFG that asks for a ring of a size that there is not. -/
def replayMissized (v : W64) : Bool := bit v.toNat 0 && (bits v.toNat 8 5 < 10 || 24 < bits v.toNat 8 5)

theorem replayMissized_iff (v : W64) :
    replayMissized v = true ↔ bit v.toNat 0 = true ∧ (bits v.toNat 8 5 < 10 ∨ 24 < bits v.toNat 8 5) := by simp [replayMissized]

section Replay
variable {b : Block} {v : W64}

/-- A write of a replay register is an error, or sets its register. -/
theorem replayCfgWrite_eq (base : Bool) (v : W64) (b : Block) : replayCfgWrite base v b =
    if (b.cfg.det || b.d.rp.recording || (!base && replayMissized v)) = true then
      { b with d := { b.d with rp := { b.d.rp with cfgErr := true } } }
    else if base = true then { b with cfg := { b.cfg with replayBase := v } }
    else { cfg := { b.cfg with replayEn := bit v.toNat 0, replayLog2 := BitVec.ofNat 5 (bits v.toNat 8 5) },
           d := if bit v.toNat 0 && !b.cfg.replayEn then
               { b.d with rp := { b.d.rp with head := 0, tail := 0, full := false } } else b.d } := by
  simp only [replayCfgWrite, replayMissized, Bool.and_assoc]

theorem replayCfgWrite_notFree (held : ¬ ReplayFree b) (base : Bool) :
    replayCfgWrite base v b = { b with d := { b.d with rp := { b.d.rp with cfgErr := true } } } := by
  rw [replayCfgWrite_eq, if_pos]
  by_contra neither
  simp only [Bool.or_eq_true, not_or, Bool.not_eq_true] at neither
  exact held neither.1

theorem replayCfgWrite_missized (missized : replayMissized v = true) :
    replayCfgWrite false v b = { b with d := { b.d with rp := { b.d.rp with cfgErr := true } } } := by
  rw [replayCfgWrite_eq, if_pos (by simp [missized])]

theorem replayCfgWrite_base (free : ReplayFree b) (v : W64) :
    replayCfgWrite true v b = { b with cfg := { b.cfg with replayBase := v } } := by
  simp [replayCfgWrite_eq, free.1, free.2]

theorem replayCfgWrite_cfg (free : ReplayFree b) (sized : replayMissized v = false) : replayCfgWrite false v b =
    { cfg := { b.cfg with replayEn := bit v.toNat 0, replayLog2 := BitVec.ofNat 5 (bits v.toNat 8 5) },
      d := if bit v.toNat 0 && !b.cfg.replayEn then
          { b.d with rp := { b.d.rp with head := 0, tail := 0, full := false } } else b.d } := by
  simp [replayCfgWrite_eq, free.1, free.2, sized]

/-- REPLAY_CFG has its fields in the low word. -/
theorem replayCfgWrite_lowWord (v : W64) (b : Block) : replayCfgWrite false (w64 (v.toNat % p32)) b = replayCfgWrite false v b := by
  have en : bit (w64 (v.toNat % p32)).toNat 0 = bit v.toNat 0 := by
    simp only [bit, w64, p32, BitVec.toNat_ofNat, Nat.shiftRight_zero]
    congr 1
    omega
  have log2 : bits (w64 (v.toNat % p32)).toNat 8 5 = bits v.toNat 8 5 := by
    simp only [bits, w64, p32, BitVec.toNat_ofNat, Nat.shiftRight_eq_div_pow]
    omega
  simp only [replayCfgWrite, en, log2]
  rfl

end Replay

/-! ### SURVEY_CTL.START (R359, R404) -/

section Surveys
variable {b : Block} {full : Bool}

theorem surveyStart_noStorage (none : b.cfg.boot.surveySize = 0) : surveyStart full b = surveyRefused b := if_pos none

variable (storage : b.cfg.boot.surveySize ≠ 0)
include storage

theorem surveyStart_service (service : b.cfg.health = .service) : surveyStart full b = askDrain b (some full) none [] := by
  rw [surveyStart, if_neg storage, service]

theorem surveyStart_drained (drained : b.cfg.health = .drained) :
    surveyStart full b = setHealth (startSurvey b full 1 []) .survey := by
  rw [surveyStart, if_neg storage, drained]

end Surveys

/-- Outside SERVICE and DRAINED a survey is refused, with reserved storage or without. -/
theorem surveyStart_elsewhere {b : Block} {full : Bool} (service : b.cfg.health ≠ .service) (drained : b.cfg.health ≠ .drained) :
    surveyStart full b = surveyRefused b := by
  unfold surveyStart
  split
  · rfl
  · split
    · exact absurd ‹_› service
    · exact absurd ‹_› drained
    · rfl

/-! ### The commands -/

theorem exec_linkKeyApply {s : State} (h : s.serving) : exec .linkKeyApply s = .next (s.served (linkKeyApply s.m.cfg s.fresh)) :=
  runSrv_open h _

section Configured
variable {s : State} (hs : s.hostOpen)
include hs

theorem exec_linkKeyWrite (v : W64) : exec (.linkKeyWrite v) s = .next (s.served (linkKeyWrite v s.m.cfg s.fresh)) :=
  hostWrite_global64 hs v (by decide) (by decide) (by simp [is64, inPages])

theorem exec_mapBaseWrite (evt : Bool) (v : W64) : exec (.mapBaseWrite evt v) s = .next (s.servedBlock (mapBaseWrite evt v s.block)) := by
  cases evt
  · exact hostWrite_global64 hs v (off := 0x148) (by decide) (by decide) (by simp [is64, inPages])
  · exact hostWrite_global64 hs v (off := 0x150) (by decide) (by decide) (by simp [is64, inPages])

/-- The routing registers: STAGE_SLOT has 32 bits. -/
theorem exec_routeConfigWrite {off : Nat} (reg : off = 0x118 ∨ off = 0x120 ∨ off = 0x128 ∨ off = 0x130) (v : W64) :
    exec (.routeConfigWrite off v) s =
      .next (s.servedBlock (routeConfigWrite off (if off = 0x130 then w64 (v.toNat % p32) else v) s.block)) := by
  rcases reg with rfl | rfl | rfl | rfl
  · exact hostWrite_global64 hs v (off := 0x118) (by decide) (by decide) (by simp [is64, inPages])
  · exact hostWrite_global64 hs v (off := 0x120) (by decide) (by decide) (by simp [is64, inPages])
  · exact hostWrite_global64 hs v (off := 0x128) (by decide) (by decide) (by simp [is64, inPages])
  · exact hostWrite_global32 hs v (off := 0x130) (by decide) (by decide) (by simp [is64, inPages, isCounter])
      (by simp [is64, inPages, isCounter])

/-- No other offset is a register of the command. -/
theorem exec_routeConfigWrite_none {off : Nat} (other : ¬ (off = 0x118 ∨ off = 0x120 ∨ off = 0x128 ∨ off = 0x130)) (v : W64) :
    exec (.routeConfigWrite off v) s = .next (s.served s.fresh) := by
  have past : (if [0x118, 0x120, 0x128, 0x130].contains off then off else 0x50000) = 0x50000 := if_neg (by simpa using other)
  have wide : (if off = 0x130 then 4 else 8) = 8 := if_neg fun slot => other (.inr (.inr (.inr slot)))
  show hostWrite (if [0x118, 0x120, 0x128, 0x130].contains off then off else 0x50000) (if off = 0x130 then 4 else 8) v s = _
  rw [past, wide, hostWrite_open hs (by decide) (waitsReplay_global _ _ _ _ (by decide)), applyWrite_past _ _ _ (Nat.le_refl _),
    servedBlock_block]

theorem exec_replayCfgWrite (base : Bool) (v : W64) :
    exec (.replayCfgWrite base v) s = .next (s.servedBlock (replayCfgWrite base v s.block)) := by
  cases base
  · refine (hostWrite_global32 hs v (off := 0x908) (by decide) (by decide) (by simp [is64, inPages, isCounter])
      (by simp [is64, inPages, isCounter])).trans ?_
    rw [show writeGlobal32 s.block 0x908 (v.toNat % p32) = replayCfgWrite false (w64 (v.toNat % p32)) s.block from rfl,
      replayCfgWrite_lowWord]
  · exact hostWrite_global64 hs v (off := 0x900) (by decide) (by decide) (by simp [is64, inPages])

theorem exec_surveyStart (full : Bool) : exec (.surveyStart full) s = .next (s.servedBlock
    (surveyStart full { s.block with cfg := { s.m.cfg with surveyMode := full } })) := by
  refine (hostWrite_global32 hs _ (off := 0x804) (by decide) (by decide) (by simp [is64, inPages, isCounter])
    (by simp [is64, inPages, isCounter])).trans ?_
  cases full <;> rfl

end Configured

/-! ### The obligation -/

/-- Settles O19: LINK_KEY by what pends, what is unacknowledged and the room for its record, each register by the condition under which it
may be written, and a survey by the reserved storage and the health. -/
theorem configurationWritten : Obligations.ConfigurationWritten := by
  unfold Obligations.ConfigurationWritten
  have surveyed : ∀ {s : State} (hs : s.hostOpen) (full : Bool) {b : Block},
      surveyStart full { s.block with cfg := { s.m.cfg with surveyMode := full } } = b →
      exec (.surveyStart full) s = .next (s.servedBlock b) := fun hs full _ started => started ▸ exec_surveyStart hs full
  refine ⟨fun s v => ⟨fun hs => ?_, fun h => ⟨fun none => ?_,
        fun key pends => ⟨fun crossing => ?_, fun quiet room => ?_, fun quiet full => ?_⟩⟩,
      fun hs evt => ⟨fun closed => ?_, fun opened => ?_⟩, fun hs idle => ?_, fun hs off => ⟨fun busy reg => ?_, fun other => ?_⟩⟩,
    fun s hs => ⟨fun base v held => ?_, fun v en size => ?_, fun v free => ?_, fun v free sized => ?_, fun full => ⟨fun none => ?_,
      fun storage service => ?_, fun storage drained => ?_, fun service drained => ?_⟩⟩⟩
  · exact exec_linkKeyWrite hs v
  · exact (exec_linkKeyApply h).trans (by rw [linkKeyApply_none (d := s.fresh) none])
  · exact (exec_linkKeyApply h).trans (by rw [linkKeyApply_unacknowledged (d := s.fresh) pends crossing])
  · exact (exec_linkKeyApply h).trans (by rw [linkKeyApply_recorded (d := s.fresh) pends quiet room])
  · exact (exec_linkKeyApply h).trans (by rw [linkKeyApply_noRoom (d := s.fresh) pends quiet full])
  · rw [exec_mapBaseWrite hs, mapBaseWrite_taken (b := s.block) v evt closed]
    rfl
  · rw [exec_mapBaseWrite hs, mapBaseWrite_refused (b := s.block) v evt opened]
    rfl
  · refine ⟨?_, ?_, ?_, ?_⟩
    · rw [exec_routeConfigWrite hs (by decide), if_neg (by decide), routeConfigWrite_gazBase (b := s.block) v idle]
      rfl
    · rw [exec_routeConfigWrite hs (by decide), if_neg (by decide), routeConfigWrite_stageBase (b := s.block) v idle]
      rfl
    · rw [exec_routeConfigWrite hs (by decide), if_neg (by decide), routeConfigWrite_stageSize (b := s.block) v idle]
      rfl
    · have low : (w64 (v.toNat % p32)).setWidth 32 = v.setWidth 32 := by
        apply BitVec.eq_of_toNat_eq
        simp only [w64, p32, BitVec.toNat_setWidth, BitVec.toNat_ofNat]
        omega
      rw [exec_routeConfigWrite hs (by decide), if_pos rfl, routeConfigWrite_stageSlot (b := s.block) _ idle, low]
      rfl
  · rw [exec_routeConfigWrite hs reg, routeConfigWrite_refused (b := s.block) _ off busy]
    rfl
  · exact exec_routeConfigWrite_none hs other v
  · rw [exec_replayCfgWrite hs, replayCfgWrite_notFree (b := s.block) held]
    rfl
  · rw [exec_replayCfgWrite hs, replayCfgWrite_missized ((replayMissized_iff v).mpr ⟨en, size⟩)]
    rfl
  · rw [exec_replayCfgWrite hs, replayCfgWrite_base (b := s.block) free]
    rfl
  · have fits : replayMissized v = false := by
      rw [Bool.eq_false_iff, ne_eq, replayMissized_iff]
      rintro ⟨en, size⟩
      have : 10 ≤ bits v.toNat 8 5 ∧ bits v.toNat 8 5 ≤ 24 := sized en
      omega
    rw [exec_replayCfgWrite hs, replayCfgWrite_cfg (b := s.block) free fits]
    rfl
  · exact surveyed hs full (surveyStart_noStorage none)
  · exact surveyed hs full (surveyStart_service storage service)
  · exact surveyed hs full (surveyStart_drained storage drained)
  · exact surveyed hs full (surveyStart_elsewhere service drained)

end Sys2Proof.Machine

/-! ## Events: RECORD_EVENT, RECORD_EVENT_APPLY, WAIT_EVENT and its time-out (R213, R293, R313) -/

namespace Sys2Proof.Machine

/-! ### RECORD_EVENT (R213, R293) -/

section Records
variable {k : Cfg} {d : Dyn} {c : Nat} {q : Req} (front : frontOp d c cRecord = some q) {d' : Dyn}
include front

theorem recordEvent_lineRead (look : mapLookup k true d (mapKey c (opn q.ops 16 2)) = (none, d')) : recordEvent c k d = d' := by
  simp [recordEvent, front, look]

variable {v : W32} (look : mapLookup k true d (mapKey c (opn q.ops 16 2)) = (some v, d'))
include look

theorem recordEvent_unmapped (unmapped : evtOf v = none) :
    recordEvent c k d = finish (takeReq d' q) q.id cRecord .noRoute 0 := by
  simp [recordEvent, front, look, unmapped]

variable (mapped : evtOf v ≠ none)
include mapped

theorem recordEvent_deferred (room : (recordsOf d' c q.id.r).length < 64) :
    recordEvent c k d = recordEventApply c q.id.r k (setStage (takeReq d' q) q.id .record) := by
  simp [recordEvent, front, look, mapped, room]

theorem recordEvent_waits (full : 64 ≤ (recordsOf d' c q.id.r).length) : recordEvent c k d = blockReq d' q := by
  simp [recordEvent, front, look, mapped, full]

end Records

/-! ### RECORD_EVENT_APPLY (R213, R313, Table 12.4) -/

section Applied
variable {k : Cfg} {d : Dyn} {c r : Nat} {x : Cmd} (oldest : minBy Cmd.seq (recordsOf d c r) = some x)
include oldest

theorem recordEventApply_waits (behind : firstOfRing d x = false) : recordEventApply c r k d = d := by
  simp [recordEventApply, oldest, behind]

variable (first : firstOfRing d x = true)
include first

theorem recordEventApply_first : recordEventApply c r k d = recordApply d x := by
  simp [recordEventApply, oldest, first]

theorem recordEventApply_unmapped (unmapped : eventOf d x.id.c x.event = none) :
    recordEventApply c r k d = finish d x.id cRecord .noRoute 0 := by
  rw [recordEventApply_first oldest first, recordApply, unmapped]

variable {ev : Nat} (mapped : eventOf d x.id.c x.event = some ev)
include mapped

theorem recordEventApply_ecc (ecc : ev ∈ d.sg.evEcc) : recordEventApply c r k d = finish d x.id cRecord .eccUncorr 0 := by
  rw [recordEventApply_first oldest first, recordApply, mapped]
  exact if_pos (List.contains_iff_mem.mpr ecc)

theorem recordEventApply_written (sound : ev ∉ d.sg.evEcc) :
    recordEventApply c r k d = waitsCheck (finish
      { d with sg := { d.sg with events := tset d.sg.events ev (w64 (opn x.ops 24 8)) 0 } } x.id cRecord .ok 0) := by
  rw [recordEventApply_first oldest first, recordApply, mapped]
  exact if_neg fun ecc => sound (List.contains_iff_mem.mp ecc)

end Applied

/-! ### WAIT_EVENT (R213, R293) -/

section Waits
variable {k : Cfg} {d : Dyn} {c : Nat} {q : Req} (front : frontOp d c cWait = some q) {d' : Dyn}
include front

theorem waitEvent_lineRead (look : mapLookup k true d (mapKey c (opn q.ops 16 2)) = (none, d')) : waitEvent c k d = d' := by
  simp [waitEvent, front, look]

variable {v : W32} (look : mapLookup k true d (mapKey c (opn q.ops 16 2)) = (some v, d'))
include look

theorem waitEvent_mapped (mapped : evtOf v ≠ none) :
    waitEvent c k d = waitsCheck (holdRing (setStage (takeReq d' q) q.id
      (.wait (w32 (opn q.ops 20 4)) (opn q.ops 18 1 = 1) (w64 (opn q.ops 24 8)) (takeReq d' q).ts)) q.id) := by
  simp [waitEvent, front, look, mapped]

/-- The value observed of an event without a mapping is free. -/
theorem waitEvent_unmapped (unmapped : evtOf v = none) :
    waitEvent c k d = finish (useFree (takeReq d' q) 1) q.id cWait .noRoute (freeW (takeReq d' q) 0).toNat := by
  simp [waitEvent, front, look, unmapped]

end Waits

/-! ### The time-out of a WAIT_EVENT (R293, log 114) -/

section WaitTimeouts
variable {k : Cfg} {d : Dyn} {c r : Nat}

theorem waitEventTimeout_none (none : ringWaiter d c r = none) : waitEventTimeout c r k d = d := by
  rw [waitEventTimeout, none]

variable {x : Cmd} (waiter : ringWaiter d c r = some x) {t : W32} {onto : Bool} {v since : W64} (stage : x.stage = .wait t onto v since)
include waiter stage

/-- The WAIT_EVENT that a time-out finds has one, and it has passed. -/
theorem ringWaiter_passed : t ≠ 0 ∧ reached d.ts (since + w64 (t.toNat * 1000)) = true := by
  have found := List.find?_some waiter
  simp only [Cmd.timedOut, stage, Bool.and_eq_true] at found
  obtain ⟨-, timed, passed⟩ := found
  exact ⟨by simpa using timed, passed⟩

theorem waitEventTimeout_ends {ev : Nat} (mapped : eventOf d c x.event = some ev) :
    waitEventTimeout c r k d =
      if onto && !k.det then waitEnds (useFree d 1) x .timeout (eventValue d ev)
      else timeoutStop (waitEnds (useFree d 1) x .timeout (eventValue d ev)) c r := by
  simp [waitEventTimeout, waiter, mapped, stage]

end WaitTimeouts

/-! ### The commands -/

section EventsServed
variable {s : State} (h : s.serving) {hits : List Hit} (clean : Clean hits)
include h

theorem exec_recordEvent (c : Nat) : exec (.recordEvent c) s = .next (s.served (recordEvent c s.m.cfg s.fresh)) := runSrv_open h _

theorem exec_waitEventTimeout (c r : Nat) :
    exec (.waitEventTimeout c r) s = .next (s.served (waitEventTimeout c r s.m.cfg s.fresh)) := runSrv_open h _

include clean

theorem exec_recordEventApply_clean (c r : Nat) :
    exec (.recordEventApply c r hits) s = .next (s.served (recordEventApply c r s.m.cfg s.fresh)) :=
  (runSrv_open h _).trans (by rw [withHits_clean clean])

theorem exec_waitEvent_clean (c : Nat) : exec (.waitEvent c hits) s = .next (s.served (waitEvent c s.m.cfg s.fresh)) :=
  (runSrv_open h _).trans (by rw [withHits_clean clean])

end EventsServed

/-! ### The obligation -/

/-- Settles O8: RECORD_EVENT and WAIT_EVENT by the lookup of their identifier, the apply by what stands before the oldest deferred record
and by its event, the time-out by the WAIT_EVENT that holds the ring. -/
theorem eventCommands : Obligations.EventCommands := by
  unfold Obligations.EventCommands
  intro s c r hits h clean
  have recorded : ∀ {d : Dyn}, recordEvent c s.m.cfg s.fresh = d → exec (.recordEvent c) s = .next (s.served d) :=
    fun record => record ▸ exec_recordEvent h c
  have applied : ∀ {d : Dyn}, recordEventApply c r s.m.cfg s.fresh = d → exec (.recordEventApply c r hits) s = .next (s.served d) :=
    fun apply => apply ▸ exec_recordEventApply_clean h clean c r
  have waited : ∀ {d : Dyn}, waitEvent c s.m.cfg s.fresh = d → exec (.waitEvent c hits) s = .next (s.served d) :=
    fun wait => wait ▸ exec_waitEvent_clean h clean c
  have timedOut : ∀ {d : Dyn}, waitEventTimeout c r s.m.cfg s.fresh = d → exec (.waitEventTimeout c r) s = .next (s.served d) :=
    fun timeout => timeout ▸ exec_waitEventTimeout h c r
  exact ⟨fun q d front look => recorded (recordEvent_lineRead front look),
    fun q v d front look => ⟨fun unmapped => recorded (recordEvent_unmapped front look unmapped),
      fun mapped room => recorded (recordEvent_deferred front look mapped room),
      fun mapped full => recorded (recordEvent_waits front look mapped full)⟩,
    fun x oldest => ⟨fun behind => applied (recordEventApply_waits oldest behind),
      fun ev first mapped => ⟨fun sound => applied (recordEventApply_written oldest first mapped sound),
        fun ecc => applied (recordEventApply_ecc oldest first mapped ecc)⟩,
      fun first unmapped => applied (recordEventApply_unmapped oldest first unmapped)⟩,
    fun q d front look => waited (waitEvent_lineRead front look),
    fun q v d front look => ⟨fun mapped => waited (waitEvent_mapped front look mapped),
      fun unmapped => ⟨_, waited (waitEvent_unmapped front look unmapped)⟩⟩,
    fun x t onto v since ev waiter stage mapped => ⟨ringWaiter_passed waiter stage,
      timedOut (waitEventTimeout_ends waiter stage mapped)⟩,
    fun none => timedOut (waitEventTimeout_none none)⟩

end Sys2Proof.Machine

/-! ## The firmware's answers to mailbox messages (R213, R293, R303, R310, R326, R383, Table 12.7) -/

namespace Sys2Proof.Machine

/-! ### Taking a message (R326) -/

/-- Without a message, or without room for its record, nothing is taken, whatever message is meant. -/
theorem takeMsg_none {d : Dyn} {c : Nat}
    (idle : (getCtx d c).mboxBusy = false ∨ ((getCtx d c).mboxTaken = false ∧ rpRoom d 3 false = false)) (isMsg : Nat → Bool) :
    takeMsg d c isMsg = none := by
  rw [takeMsg]
  rcases idle with noMessage | ⟨untaken, full⟩
  · exact if_pos (by rw [noMessage]; rfl)
  · rw [untaken, full]
    exact ite_eq_left_iff.mpr fun _ => rfl

/-! ### OPEN (R213, R293, R303, R383, Table 12.7) -/

section Opens
variable {k : Cfg} {d e : Dyn} {c : Nat} (taken : takeMsg d c (fun m => m = 1) = some e)
include taken

theorem openMsg_flagged (flagged : k.health = .flagged) : openMsg c k d = reply e c .cancelled [] := by
  simp [openMsg, taken, flagged]

variable (well : k.health ≠ .flagged)
include well

theorem openMsg_refused (bad : (getCtx e c).isOpen = true ∨
      (bits ((getCtx e c).msgWord 1) 0 8 ≠ 1 ∧ bits ((getCtx e c).msgWord 1) 0 8 ≠ 2)) :
    openMsg c k d = reply e c .badDescriptor [] := by
  simp only [openMsg, taken, if_neg well]
  exact if_pos (by simpa using bad)

theorem openMsg_opened (closed : (getCtx e c).isOpen = false)
    (rev : bits ((getCtx e c).msgWord 1) 0 8 = 1 ∨ bits ((getCtx e c).msgWord 1) 0 8 = 2) :
    openMsg c k d =
      let x := getCtx e c
      let rev := bits (x.msgWord 1) 0 8
      let o := clearMaps k e c
      let e := setCtx (forgetIdx o c) c { pageReset x with isOpen := true, rev := rev, irq := 0 }
      reply { e with fe := { e.fe with opened := true } } c .ok [rev + b2n (k.priv c) * 2 ^ 8] := by
  simp only [openMsg, taken, if_neg well]
  exact if_neg (by simpa [closed] using fun first => rev.resolve_left first)

end Opens

/-! ### CLOSE and QUIESCE (R293, R296, R303, R310) -/

/-- CLOSE has stopped the rings of the context, posted the cancellation of its launches and stopped its service. -/
def closing (k : Cfg) (d : Dyn) (c : Nat) : Dyn :=
  let e := cancelCtx (stopRings d c) c
  if e.sv.run && e.sv.ctx = c then svcStop k e false else e

/-- The rings of the context stand still, nothing of it is in flight, and the service is not the context's. -/
def ContextStill (d : Dyn) (c : Nat) : Prop := ringsStill d c = true ∧ ctxInflight d c = 0 ∧ (d.sv.run = false ∨ d.sv.ctx ≠ c)

theorem contextStill_iff (d : Dyn) (c : Nat) :
    ContextStill d c ↔ ¬ (!ringsStill d c || ctxInflight d c ≠ 0 || (d.sv.run && d.sv.ctx = c)) = true := by
  by_cases run : d.sv.run = true <;> simp [ContextStill, run, and_assoc]

section Closes
variable {k : Cfg} {d e : Dyn} {c : Nat}

section Close
variable (taken : takeMsg d c (fun m => m = 2) = some e)
include taken

/-- CLOSE answers once nothing of the context is in flight and the service is not the context's. -/
theorem closeMsg_eq : closeMsg c k d =
    let e := closing k e c
    if (!ringsStill e c || ctxInflight e c ≠ 0 || (e.sv.run && e.sv.ctx = c)) = true then e
    else
      let gone := dropWaiting303 (releaseBindings k (forgetIdx e c) c) c
      reply (setCtx gone c (pageReset (getCtx gone c))) c .ok [] := by
  rw [closeMsg, taken]
  rfl

theorem closeMsg_closing (busy : ¬ ContextStill (closing k e c) c) : closeMsg c k d = closing k e c := by
  rw [contextStill_iff, not_not] at busy
  exact (closeMsg_eq taken).trans (if_pos busy)

theorem closeMsg_closed (still : ContextStill (closing k e c) c) :
    closeMsg c k d =
      let gone := dropWaiting303 (releaseBindings k (forgetIdx (closing k e c) c) c) c
      reply (setCtx gone c (pageReset (getCtx gone c))) c .ok [] :=
  (closeMsg_eq taken).trans (if_neg ((contextStill_iff _ c).mp still))

end Close

section Quiesce
variable (taken : takeMsg d c (fun m => m = 4) = some e)
include taken

theorem quiesceMsg_quiet (rings : ringsStill (stopRings e c) c = true) (inflight : ctxInflight (stopRings e c) c = 0) :
    quiesceMsg c k d = reply (stopRings e c) c .ok [0] := by
  simp [quiesceMsg, taken, rings, inflight]

theorem quiesceMsg_busy (busy : ringsStill (stopRings e c) c = false ∨ ctxInflight (stopRings e c) c ≠ 0) :
    quiesceMsg c k d = stopRings e c := by
  simp only [quiesceMsg, taken]
  exact if_pos (by simpa using busy)

end Quiesce
end Closes

/-! ### The commands -/

section Mailboxes
variable {s : State} (h : s.firmware) (c : Nat)
include h

theorem exec_openCtx : exec (.openCtx c) s = .next (s.served (openMsg c s.m.cfg s.fresh)) := runSrvFw_open h _

theorem exec_close : exec (.close c) s = .next (s.served (closeMsg c s.m.cfg s.fresh)) := runSrvFw_open h _

theorem exec_query : exec (.query c) s = .next (s.served (queryMsg c s.m.cfg s.fresh)) := runSrvFw_open h _

theorem exec_quiesce : exec (.quiesce c) s = .next (s.served (quiesceMsg c s.m.cfg s.fresh)) := runSrvFw_open h _

theorem exec_undefinedMessage : exec (.undefinedMessage c) s = .next (s.served (undefinedMsg c s.m.cfg s.fresh)) := runSrvFw_open h _

end Mailboxes

/-! ### The obligation -/

/-- Settles O16: each message as it is taken: OPEN by the health, the context and the revision, CLOSE and QUIESCE by whether the context
stands still (the reply of OPEN is log 67, the notifications dropped by CLOSE log 68). -/
theorem mailboxAnswered : Obligations.MailboxAnswered := by
  unfold Obligations.MailboxAnswered
  intro s c h k answers
  have opened : ∀ {d : Dyn}, openMsg c k s.fresh = d → answers (.openCtx c) d := fun message => message ▸ exec_openCtx h c
  have closed : ∀ {d : Dyn}, closeMsg c k s.fresh = d → answers (.close c) d := fun message => message ▸ exec_close h c
  have queried : ∀ {d : Dyn}, queryMsg c k s.fresh = d → answers (.query c) d := fun message => message ▸ exec_query h c
  have quiesced : ∀ {d : Dyn}, quiesceMsg c k s.fresh = d → answers (.quiesce c) d := fun message => message ▸ exec_quiesce h c
  have undefined : ∀ {d : Dyn}, undefinedMsg c k s.fresh = d → answers (.undefinedMessage c) d :=
    fun message => message ▸ exec_undefinedMessage h c
  refine ⟨fun d taken => ⟨fun flagged => opened (openMsg_flagged taken flagged),
      fun well bad => opened (openMsg_refused taken well bad), fun well shut rev => opened (openMsg_opened taken well shut rev)⟩,
    fun d taken => ⟨fun busy => closed (closeMsg_closing taken busy), fun still => closed (closeMsg_closed taken still)⟩,
    fun d taken => queried ?_, fun d taken => ⟨fun ⟨rings, inflight⟩ => quiesced (quiesceMsg_quiet taken rings inflight),
      fun busy => quiesced (quiesceMsg_busy taken busy)⟩, fun d taken => undefined ?_, fun idle => ?_⟩
  · rw [queryMsg, taken]
  · rw [undefinedMsg, taken]
  · have none := takeMsg_none (d := s.fresh) idle
    refine ⟨opened ?_, closed ?_, queried ?_, quiesced ?_, undefined ?_⟩
    · rw [openMsg, none]
    · rw [closeMsg, none]
    · rw [queryMsg, none]
    · rw [quiesceMsg, none]
    · rw [undefinedMsg, none]

end Sys2Proof.Machine

/-! ## CLAIM, UNCLAIM, RECV and its time-out (R180, R181, R184, R348) -/

namespace Sys2Proof.Machine

/-! ### CLAIM and UNCLAIM (R180, R181, R348) -/

/-- The packet holds queue `q` of its engine. -/
def ownsQueue (d : Dyn) (l : Nat) (p : Pkt) (q : Nat) : Bool := (getQ d (qKey l q)).ownedBy l p.slot p.g p.epoch

/-- The queues that the packet holds besides those of the mask leave the mask's group. -/
def leaveGroup (d : Dyn) (l : Nat) (p : Pkt) (qmask : Byte) : Dyn :=
  (upFrom 0 8).foldl (fun d' q => if ownsQueue d l p q && !(ones 8 qmask.toNat).contains q then
    setQ d' (qKey l q) { getQ d' (qKey l q) with group := (getQ d' (qKey l q)).group &&& ~~~qmask } else d') d

/-- The queues of the mask are open for the packet, as one group, with the tokens that they hold. -/
def openQueues (d : Dyn) (l : Nat) (p : Pkt) (qmask : Byte) (sel : Bool) : Dyn :=
  (ones 8 qmask.toNat).foldl (fun d' q => setQ d' (qKey l q)
    { isOpen := true, sel := sel, leaf := l, slot := p.slot, g := p.g, epoch := p.epoch, group := qmask, last := none,
      toks := (getQ d' (qKey l q)).toks }) d

section Claims
variable {s : State} {l ptag j : Nat} {p : Pkt} (presents : Presents s l ptag j p) {qmask : Byte}
include presents

theorem claim_refused (bad : p.shadow = true ∨ ones 8 qmask.toNat = []) (sel : Bool) :
    claim l ptag qmask sel s.m.cfg s.fresh = ans s.fresh l j p.slot .badDescriptor 0 := by
  rw [claim, presentOp_taken presents 1 _ rfl]
  exact if_pos (by simpa using bad)

section Named
variable (plain : p.shadow = false) (named : ones 8 qmask.toNat ≠ []) (sel : Bool)
include plain named

/-- CLAIM of at least one queue: FULL where another holds one, and else the queues are open and their RECVs are served. -/
theorem claim_eq : claim l ptag qmask sel s.m.cfg s.fresh =
    if (ones 8 qmask.toNat).any (fun q => (getQ s.fresh (qKey l q)).isOpen && !ownsQueue s.fresh l p q) = true then
      ans s.fresh l j p.slot .full 0
    else serveStub (ans (openQueues (leaveGroup s.fresh l p qmask) l p qmask sel) l j p.slot .ok 0) (l / 16) := by
  rw [claim, presentOp_taken presents 1 _ rfl]
  exact if_neg (by simp [plain, named])

theorem claim_opened (own : ∀ q ∈ ones 8 qmask.toNat, (getQ s.fresh (qKey l q)).isOpen = true → ownsQueue s.fresh l p q = true) :
    claim l ptag qmask sel s.m.cfg s.fresh =
      serveStub (ans (openQueues (leaveGroup s.fresh l p qmask) l p qmask sel) l j p.slot .ok 0) (l / 16) :=
  (claim_eq presents plain named sel).trans (if_neg (by simpa using own))

end Named

theorem claim_full (plain : p.shadow = false) (sel : Bool) {q : Nat} (names : q ∈ ones 8 qmask.toNat)
    (opened : (getQ s.fresh (qKey l q)).isOpen = true) (other : ownsQueue s.fresh l p q = false) :
    claim l ptag qmask sel s.m.cfg s.fresh = ans s.fresh l j p.slot .full 0 :=
  (claim_eq presents plain (List.ne_nil_of_mem names) sel).trans
    (if_pos (List.any_eq_true.mpr ⟨q, names, by rw [opened, other]; rfl⟩))

theorem unclaim_shadow (shadow : p.shadow = true) (qmask : Byte) :
    unclaim l ptag qmask s.m.cfg s.fresh = ans s.fresh l j p.slot .badDescriptor 0 := by
  rw [unclaim, presentOp_taken presents 2 _ rfl]
  exact if_pos shadow

theorem unclaim_plain (plain : p.shadow = false) (qmask : Byte) :
    unclaim l ptag qmask s.m.cfg s.fresh =
      let mine := (ones 8 qmask.toNat).filter (ownsQueue s.fresh l p)
      closeQueues (ans s.fresh l j p.slot (if mine.length = (ones 8 qmask.toNat).length then .ok else .closed) 0) (mine.map (qKey l)) := by
  rw [unclaim, presentOp_taken presents 2 _ rfl]
  exact if_neg (ne_true_of_eq_false plain)

/-! ### RECV and RECV_TIMEOUT (R184, R348) -/

theorem recv_shadow (shadow : p.shadow = true) (q : Nat) (tmo : BitVec 21) :
    recv l ptag q tmo s.m.cfg s.fresh = ans s.fresh l j p.slot .badDescriptor 0 := by
  rw [recv, presentOp_taken presents 3 _ rfl]
  exact if_pos shadow

theorem recv_plain (plain : p.shadow = false) (q : Nat) (tmo : BitVec 21) :
    recv l ptag q tmo s.m.cfg s.fresh =
      serveRecv (putOp s.fresh l j (newOp s.fresh p 3 0 0 (q % 8 + capTo tmo.toNat * 2 ^ 32))) l j := by
  rw [recv, presentOp_taken presents 3 _ rfl]
  exact if_neg (ne_true_of_eq_false plain)

end Claims

section RecvTimeouts
variable {k : Cfg} {d : Dyn} {l j : Nat}

theorem recvTimeout_expired {o : OpSlot} (slot : getOp d l j = some o) (code : o.code = 3) (timed : recvTo o ≠ 0)
    (passed : recvTo o ≤ cyclesSince d o.fc) : recvTimeout l j k d = ans d l j o.slot .timeout 0 := by
  simp [recvTimeout, slot, code, timed, passed]

theorem recvTimeout_early (early : ∀ o, getOp d l j = some o → o.code ≠ 3 ∨ recvTo o = 0 ∨ cyclesSince d o.fc < recvTo o) :
    recvTimeout l j k d = d := by
  unfold recvTimeout
  split
  next => rfl
  next o slot =>
    refine if_neg fun expired => ?_
    simp only [ne_eq, Bool.and_eq_true, decide_eq_true_eq] at expired
    obtain ⟨⟨code, timed⟩, passed⟩ := expired
    rcases early o slot with other | untimed | soon
    · exact other code
    · exact timed untimed
    · exact absurd passed (Nat.not_le.mpr soon)

end RecvTimeouts

/-! ### The commands -/

section QueuesServed
variable {s : State} (h : s.serving) (l ptag : Nat)
include h

theorem exec_claim (qmask : Byte) (sel : Bool) :
    exec (.claim l ptag qmask sel) s = .next (s.served (claim l ptag qmask sel s.m.cfg s.fresh)) := runSrv_open h _

theorem exec_unclaim (qmask : Byte) :
    exec (.unclaim l ptag qmask) s = .next (s.served (unclaim l ptag qmask s.m.cfg s.fresh)) := runSrv_open h _

theorem exec_recv_clean (q : Nat) (tmo : BitVec 21) {hits : List Hit} (clean : Clean hits) :
    exec (.recv l ptag q tmo hits) s = .next (s.served (recv l ptag q tmo s.m.cfg s.fresh)) :=
  (runSrv_open h _).trans (by rw [withHits_clean clean])

theorem exec_recvTimeout (j : Nat) : exec (.recvTimeout l j) s = .next (s.served (recvTimeout l j s.m.cfg s.fresh)) :=
  runSrv_open h _

end QueuesServed

/-! ### The obligation -/

/-- Settles O45: CLAIM by its mask and by who holds the queues of the mask, UNCLAIM and RECV by whether the packet is a shadow copy's, the
time-out by whether a pending RECV of its slot has run out of time. -/
theorem receiveQueueOperations : Obligations.ReceiveQueueOperations := by
  unfold Obligations.ReceiveQueueOperations
  refine ⟨fun s l ptag j p hits presents clean => ?_, fun s l i h => ⟨fun o slot code timed passed => ?_, fun early => ?_⟩⟩
  · have claimed : ∀ {qmask sel d}, claim l ptag qmask sel s.m.cfg s.fresh = d → exec (.claim l ptag qmask sel) s = .next (s.served d) :=
      fun claim => claim ▸ exec_claim presents.1 l ptag _ _
    have unclaimed : ∀ {qmask d}, unclaim l ptag qmask s.m.cfg s.fresh = d → exec (.unclaim l ptag qmask) s = .next (s.served d) :=
      fun unclaim => unclaim ▸ exec_unclaim presents.1 l ptag _
    have received : ∀ {q tmo d}, recv l ptag q tmo s.m.cfg s.fresh = d → exec (.recv l ptag q tmo hits) s = .next (s.served d) :=
      fun recv => recv ▸ exec_recv_clean presents.1 l ptag _ _ clean
    exact ⟨fun qmask sel => ⟨fun bad => claimed (claim_refused presents bad sel),
        fun plain named own => claimed (claim_opened presents plain named sel own),
        fun q names plain opened other => claimed (claim_full presents plain sel names opened other)⟩,
      fun qmask => ⟨fun shadow => unclaimed (unclaim_shadow presents shadow qmask),
        fun plain => unclaimed (unclaim_plain presents plain qmask)⟩,
      fun q tmo => ⟨fun shadow => received (recv_shadow presents shadow q tmo), fun plain => received (recv_plain presents plain q tmo)⟩⟩
  · rw [exec_recvTimeout h, recvTimeout_expired (d := s.fresh) slot code timed passed]
  · rw [exec_recvTimeout h, recvTimeout_early (d := s.fresh) early]

end Sys2Proof.Machine

/-! ## Arrivals of tokens, and their acknowledgements (R176, R182, R183, R187, R193, R194, R226, R265) -/

namespace Sys2Proof.Machine

/-! ### A token taken from the fabric (R182, R187) -/

/-- Token `i` has left the fabric. -/
def landed (d : Dyn) (i : Nat) : Dyn := { d with tk := { d.tk with flight := d.tk.flight.eraseIdx i } }

section Arrivals
variable {k : Cfg} {d : Dyn} {i : Nat}

theorem arrival_none (none : d.tk.flight[i]? = none) (kind : Nat) : arrival i kind k d = d := by rw [arrival, none]

variable {t : Tok} (flies : d.tk.flight[i]? = some t)
include flies

section Here
variable (here : endsHere k t = true) {kind : Nat}
include here

theorem arrival_intake (ends : intakeOf t = kind) : arrival i kind k d = decideHere k (landed d i) t := by
  simp [arrival, flies, here, ends, landed]

theorem arrival_otherIntake (other : intakeOf t ≠ kind) : arrival i kind k d = d := by
  simp [arrival, flies, here, other]

end Here

section Elsewhere
variable (elsewhere : endsHere k t = false)
include elsewhere

theorem arrival_passesIntake {kind : Nat} (intake : kind ≠ 0) : arrival i kind k d = d := by
  simp [arrival, flies, elsewhere, intake]

theorem arrival_forwarded : arrival i 0 k d = (forward k (landed d i) t).getD d := by
  simp [arrival, flies, elsewhere, landed]

end Elsewhere
end Arrivals

/-! ### The decision at the destination (R176, R182, R183, R193) -/

section Decisions
variable {k : Cfg} {d : Dyn} {t : Tok}

theorem decideHere_linkRefused {p : Nat} (refused : linkRefused k t = some p) :
    decideHere k d t = decided d (linkLog p) t .noRoute := by
  rw [decideHere, refused]

/-- A token for a leaf is decided at a receive queue. -/
theorem decideHere_queue (present : linkRefused k t = none) (leaf : isRootRef (hDest t.hdr) = false) :
    decideHere k d t = decided (queueDecide d t).2 (stubLog (hDest t.hdr / 16)) t (queueDecide d t).1 := by
  simp [decideHere, present, leaf]

theorem queueDecide_closed (shut : (getQ d (qKey (hDest t.hdr) (hQ t.hdr))).isOpen = false ∨
    (getQ d (qKey (hDest t.hdr) (hQ t.hdr))).leaf ≠ hDest t.hdr) : queueDecide d t = (.closed, d) :=
  if_pos (by simpa using shut)

section Open
variable (opened : (getQ d (qKey (hDest t.hdr) (hQ t.hdr))).isOpen = true)
  (own : (getQ d (qKey (hDest t.hdr) (hQ t.hdr))).leaf = hDest t.hdr)
include opened own

theorem queueDecide_full (full : 8 ≤ (getQ d (qKey (hDest t.hdr) (hQ t.hdr))).toks.length) : queueDecide d t = (.full, d) :=
  (if_neg (by simp [opened, own])).trans (if_pos full)

theorem queueDecide_ok (room : (getQ d (qKey (hDest t.hdr) (hQ t.hdr))).toks.length < 8) :
    queueDecide d t =
      let x := getQ d (qKey (hDest t.hdr) (hQ t.hdr))
      (.ok, serveRecvs (out (setQ d (qKey (hDest t.hdr) (hQ t.hdr)) { x with toks := x.toks ++ [t] }) (.qWake x.leaf (hQ t.hdr)))
        x.leaf) :=
  (if_neg (by simp [opened, own])).trans (if_neg (Nat.not_le.mpr room))

end Open
end Decisions

/-! ### A token for another chip (R193, R194, R445) -/

/-- The ports toward the chip of a token. -/
def routeMask (d : Dyn) (t : Tok) : Nat := (tgetD d.tk.routes (hChip t.hdr) 0).toNat

/-- The port that the key gives the pair of a token. -/
def routePort (d : Dyn) (t : Tok) : Nat :=
  portOfPair d.lk.key.toNat (sLeaf t.src) (hChip t.hdr) (hDest t.hdr) (hQ t.hdr) (routeMask d t)

section Forwarding
variable {k : Cfg} {d : Dyn} {t : Tok}

theorem forward_eq (k : Cfg) (d : Dyn) (t : Tok) : forward k d t =
    if routeMask d t = 0 then some (pushAck (count d cTokNak 1) t .noRoute)
    else if !linkOk k d (routePort d t) then some (decided d (linkLog (routePort d t)) t .noRoute)
    else if 64 ≤ (getLink d (routePort d t)).unconf.length then none
    else some (linkSend (logPut d (linkLog (routePort d t)) t 0xFF) (routePort d t) (tokFrame t (senderSlot t.sender)) true) := rfl

theorem forward_noRoute (none : routeMask d t = 0) : forward k d t = some (pushAck (count d cTokNak 1) t .noRoute) := if_pos none

variable (routed : routeMask d t ≠ 0)
include routed

theorem forward_down (down : linkOk k d (routePort d t) = false) :
    forward k d t = some (decided d (linkLog (routePort d t)) t .noRoute) := by
  simp [forward_eq, routed, down]

variable (up : linkOk k d (routePort d t) = true)
include up

theorem forward_full (full : 64 ≤ (getLink d (routePort d t)).unconf.length) : forward k d t = none := by
  simp [forward_eq, routed, up, full]

theorem forward_sent (room : (getLink d (routePort d t)).unconf.length < 64) : forward k d t =
    some (linkSend (logPut d (linkLog (routePort d t)) t 0xFF) (routePort d t) (tokFrame t (senderSlot t.sender)) true) := by
  simp [forward_eq, routed, up, room]

end Forwarding

/-! ### Acknowledgements (R187, R194) -/

/-- Acknowledgement `i` is no longer on its way. -/
def acked (d : Dyn) (i : Nat) : Dyn := { d with tk := { d.tk with acks := d.tk.acks.eraseIdx i } }

section Acks
variable {k : Cfg} {d : Dyn} {i : Nat}

theorem tokenAck_none (none : d.tk.acks[i]? = none) : tokenAck i k d = d := by rw [tokenAck, none]

variable {a : Ack} (returns : d.tk.acks[i]? = some a)
include returns

theorem tokenAck_engine {l j n : Nat} (sender : a.tok.sender = .engine l j n) : tokenAck i k d = sendAcked k (acked d i) l j n a.status := by
  simp [tokenAck, returns, sender, acked]

theorem tokenAck_comb {q tag part : Nat} (sender : a.tok.sender = .comb q tag part) :
    tokenAck i k d = combAcked k (acked d i) q tag part a.status := by
  simp [tokenAck, returns, sender, acked]

theorem tokenAck_tally {slot chan j : Nat} (sender : a.tok.sender = .tally slot chan j) :
    tokenAck i k d = tallyAcked k (acked d i) slot chan j a.status := by
  simp [tokenAck, returns, sender, acked]

theorem tokenAck_sfu {n : Nat} (sender : a.tok.sender = .sfu n) : tokenAck i k d = sfuAcked k (acked d i) n a.status := by
  simp [tokenAck, returns, sender, acked]

section Link
variable {p n : Nat} (sender : a.tok.sender = .link p n)
include sender

theorem tokenAck_link : tokenAck i k d = (ackBack k (acked d i) a.tok a.status p n).getD d := by
  simp [tokenAck, returns, sender, acked]

theorem tokenAck_linkSent (up : linkOk k (acked d i) p = true) (room : (getLink (acked d i) p).unconf.length < 64) :
    tokenAck i k d = linkSend (acked d i) p (ackFrame a.tok a.status n) false := by
  rw [tokenAck_link returns sender, ackBack, if_neg (by simp [up, room])]
  rfl

theorem tokenAck_linkWaits (waits : linkOk k (acked d i) p = false ∨ 64 ≤ (getLink (acked d i) p).unconf.length) :
    tokenAck i k d = d := by
  rw [tokenAck_link returns sender, ackBack, if_pos (by simpa using waits)]
  rfl

end Link
end Acks

/-! ### The commands -/

section TokensServed
variable {s : State} (h : s.serving) (i : Nat)
include h

theorem exec_tokenArrival : exec (.tokenArrival i) s = .next (s.served (arrival i 0 s.m.cfg s.fresh)) := runSrv_open h _

theorem exec_logitChunk (ready : unitWaits s.fresh 0x03 (rootUnit 5) = false) :
    exec (.logitChunk i) s = .next (s.served (arrival i 1 s.m.cfg s.fresh)) := runPart_open ⟨h, ready⟩ _

theorem exec_evalRequest (ready : unitWaits s.fresh 0x03 (rootUnit 6) = false) :
    exec (.evalRequest i) s = .next (s.served (arrival i 2 s.m.cfg s.fresh)) := runPart_open ⟨h, ready⟩ _

theorem exec_tokenAck : exec (.tokenAck i) s = .next (s.served (tokenAck i s.m.cfg s.fresh)) := runSrv_open h _

/-- A chunk that is not for the routing intake stays, whether the part's own record waits or not. -/
theorem exec_logitChunk_stays (stays : arrival i 1 s.m.cfg s.fresh = s.fresh) : exec (.logitChunk i) s = .next (s.served s.fresh) := by
  by_cases ready : unitWaits s.fresh 0x03 (rootUnit 5) = false
  · rw [exec_logitChunk h i ready, stays]
  · exact runPart_held h (Bool.not_eq_false _ ▸ ready) _

/-- The same of a request and the SFU intake. -/
theorem exec_evalRequest_stays (stays : arrival i 2 s.m.cfg s.fresh = s.fresh) : exec (.evalRequest i) s = .next (s.served s.fresh) := by
  by_cases ready : unitWaits s.fresh 0x03 (rootUnit 6) = false
  · rw [exec_evalRequest h i ready, stays]
  · exact runPart_held h (Bool.not_eq_false _ ▸ ready) _

end TokensServed

/-! ### The obligation -/

/-- Settles O47: a token by whether it ends here, by its intake and its queue, or by its route and its port (a chunk from another chip is
log 31), an acknowledgement by its sender. -/
theorem tokenArrivesAndIsAcknowledged : Obligations.TokenArrivesAndIsAcknowledged := by
  unfold Obligations.TokenArrivesAndIsAcknowledged
  intro s i h k after ready
  have arrives : ∀ {d}, arrival i 0 k s.fresh = d → after (.tokenArrival i) d := fun arrival => arrival ▸ exec_tokenArrival h i
  have acks : ∀ {d}, tokenAck i k s.fresh = d → after (.tokenAck i) d := fun ack => ack ▸ exec_tokenAck h i
  refine ⟨fun (none : s.fresh.tk.flight[i]? = none) => ?_, fun held => runPart_held h held _, fun held => runPart_held h held _,
    fun t (flies : s.fresh.tk.flight[i]? = some t) => ⟨fun here => ⟨?_, ?_, fun free => ⟨?_, ?_⟩, fun free => ⟨?_, ?_⟩, ?_, ?_⟩,
      fun elsewhere => ⟨?_, ?_, ?_, ?_, ?_, ?_⟩⟩,
    fun none => acks (tokenAck_none none), fun a (returns : s.fresh.tk.acks[i]? = some a) => ⟨?_, ?_, ?_, ?_, ?_, ?_⟩⟩
  · have untouched : ∀ kind, arrival i kind k s.fresh = s.fresh := fun _ => arrival_none none _
    exact ⟨arrives (untouched 0), exec_logitChunk_stays h i (untouched 1), exec_evalRequest_stays h i (untouched 2)⟩
  · exact fun ends => arrives (arrival_intake flies here ends)
  · exact fun other => arrives (arrival_otherIntake flies here other)
  · exact fun ends => arrival_intake flies here ends ▸ exec_logitChunk h i free
  · exact fun other => exec_logitChunk_stays h i (arrival_otherIntake flies here other)
  · exact fun ends => arrival_intake flies here ends ▸ exec_evalRequest h i free
  · exact fun other => exec_evalRequest_stays h i (arrival_otherIntake flies here other)
  · exact fun p refused => decideHere_linkRefused refused
  · refine fun present leaf => ⟨fun shut => ?_, fun opened own full => ?_, fun opened own room => ?_⟩
    · rw [decideHere_queue present leaf, queueDecide_closed shut]
    · rw [decideHere_queue present leaf, queueDecide_full opened own full]
    · rw [decideHere_queue present leaf, queueDecide_ok opened own room]
  · exact exec_logitChunk_stays h i (arrival_passesIntake flies elsewhere (Nat.succ_ne_zero _))
  · exact exec_evalRequest_stays h i (arrival_passesIntake flies elsewhere (Nat.succ_ne_zero _))
  · intro none
    exact arrives ((arrival_forwarded flies elsewhere).trans (by rw [forward_noRoute (d := landed s.fresh i) none]; rfl))
  · intro routed down
    exact arrives ((arrival_forwarded flies elsewhere).trans (by rw [forward_down (d := landed s.fresh i) routed down]; rfl))
  · intro routed up full
    exact arrives ((arrival_forwarded flies elsewhere).trans (by rw [forward_full (d := landed s.fresh i) routed up full]; rfl))
  · intro routed up room
    exact arrives ((arrival_forwarded flies elsewhere).trans (by rw [forward_sent (d := landed s.fresh i) routed up room]; rfl))
  · exact fun l j n sender => acks (tokenAck_engine returns sender)
  · exact fun q tag part sender => acks (tokenAck_comb returns sender)
  · exact fun slot chan j sender => acks (tokenAck_tally returns sender)
  · exact fun n sender => acks (tokenAck_sfu returns sender)
  · exact fun p n sender up room => acks (tokenAck_linkSent returns sender up room)
  · exact fun p n sender waits => acks (tokenAck_linkWaits returns sender waits)

end Sys2Proof.Machine

/-! ## Circular regions and the rebase of counts (R168 to R170, R216, R217, R348) -/

namespace Sys2Proof.Machine

/-! ### The slot of an operation on a circular region (R216, Table 7.12) -/

/-- The slot of a CR operation: its operands are the region, the count or target, and the time-out. -/
def crSlot (d : Dyn) (p : Pkt) (code i v timeout : Nat) : OpSlot :=
  { newOp d p code 0 0 (crArg i v (min (2 ^ 20 - 1) timeout)) with timeout := timeout }

/-- The region and the count are read back from the slot. -/
theorem crSlot_operands (d : Dyn) (p : Pkt) (code timeout : Nat) {i v : Nat} (region : i < 4096) (count : v < 2 ^ 32) :
    bits (crSlot d p code i v timeout).arg.toNat 0 12 = i ∧ bits (crSlot d p code i v timeout).arg.toNat 12 32 = v := by
  simp only [crSlot, newOp, crArg, w64, bits, BitVec.toNat_ofNat, Nat.shiftRight_eq_div_pow]
  omega

/-! ### The decision at the region (R216, R217) -/

section Regions
variable {d : Dyn} {l j i n : Nat} {o : OpSlot} (region : bits o.arg.toNat 0 12 = i)
include region

theorem crDecide_held (held : rebasing d (.creg i) = true) : crDecide d l j o = holdOp d (.creg i) l j := by
  simp [crDecide, region, held]

variable (free : rebasing d (.creg i) = false)
include free

theorem crDecide_ecc (ecc : (getCr d i).ecc = true) : crDecide d l j o = ans d l j o.slot .eccUncorr 0 := by
  simp [crDecide, region, free, ecc]

variable (sound : (getCr d i).ecc = false)
include sound

theorem crDecide_foreign (foreign : (getCr d i).valid = false ∨ (getCr d i).ctx ≠ o.ctx) :
    crDecide d l j o = ans d l j o.slot .badDescriptor 0 := by
  rcases foreign with invalid | other
  · simp [crDecide, region, free, sound, invalid]
  · simp [crDecide, region, free, sound, other]

variable (valid : (getCr d i).valid = true) (own : (getCr d i).ctx = o.ctx) (count : bits o.arg.toNat 12 32 = n)
include valid own count

section Commit
variable (code : o.code = 7)
include code

theorem crDecide_commit (fits : n ≤ dist32 (getCr d i).p (getCr d i).v) :
    crDecide d l j o = serveCr (ans (setCr d i { getCr d i with p := (getCr d i).p + w32 n }) l j o.slot .ok 0) i := by
  simp [crDecide, region, count, free, sound, valid, own, code, Nat.not_lt.mpr fits]

theorem crDecide_commitRange (exceeds : dist32 (getCr d i).p (getCr d i).v < n) :
    crDecide d l j o = ans d l j o.slot .rangeFault 0 := by
  simp [crDecide, region, count, free, sound, valid, own, code, exceeds]

end Commit

section Drain
variable (code : o.code = 9)
include code

theorem crDecide_drain (fits : n ≤ dist32 (getCr d i).c (getCr d i).p) :
    crDecide d l j o = serveCr (ans (setCr d i { getCr d i with c := (getCr d i).c + w32 n }) l j o.slot .ok 0) i := by
  simp [crDecide, region, count, free, sound, valid, own, code, Nat.not_lt.mpr fits]

theorem crDecide_drainRange (exceeds : dist32 (getCr d i).c (getCr d i).p < n) :
    crDecide d l j o = ans d l j o.slot .rangeFault 0 := by
  simp [crDecide, region, count, free, sound, valid, own, code, exceeds]

end Drain

/-- The operation enters the region's order. -/
def crPends (d : Dyn) (w : PendCr) : Dyn := { d with sg := { d.sg with crWaits := d.sg.crWaits ++ [w] } }

section Acquire
variable (code : o.code = 6)
include code

theorem crDecide_acquireZero (zero : n = 0) : crDecide d l j o = ans d l j o.slot .ok (getCr d i).v.toNat := by
  simp [crDecide, region, count, free, sound, valid, own, code, zero]

variable (nonzero : n ≠ 0)
include nonzero

theorem crDecide_acquireBehind (behind : 64 ≤ crPending d i ∧ acquireWaits d i n = true) :
    crDecide d l j o = holdOp d (.creg i) l j := by
  simp [crDecide, region, count, free, sound, valid, own, code, nonzero, behind]

theorem crDecide_acquirePends (room : ¬ (64 ≤ crPending d i ∧ acquireWaits d i n = true)) :
    crDecide d l j o =
      serveCr (crPends d { creg := i, leaf := l, opslot := j, wait := false, n := n, timed := false, since := d.fc }) i := by
  simp [crDecide, region, count, free, sound, valid, own, code, nonzero, room, crPends]

end Acquire

section Wait
variable (code : o.code = 8)
include code

theorem crDecide_waitReached (reached : n ≤ (getCr d i).p.toNat) : crDecide d l j o = ans d l j o.slot .ok 0 := by
  simp [crDecide, region, count, free, sound, valid, own, code, reached]

variable (early : (getCr d i).p.toNat < n)
include early

theorem crDecide_waitBehind (behind : 64 ≤ crPending d i) : crDecide d l j o = holdOp d (.creg i) l j := by
  simp [crDecide, region, count, free, sound, valid, own, code, Nat.not_le.mpr early, behind]

theorem crDecide_waitPends (room : crPending d i < 64) :
    crDecide d l j o =
      serveCr (crPends d { creg := i, leaf := l, opslot := j, wait := true, n := n, timed := o.timeout ≠ 0, since := d.fc }) i := by
  simp [crDecide, region, count, free, sound, valid, own, code, Nat.not_le.mpr early, Nat.not_le.mpr room, crPends]

end Wait
end Regions

/-! ### The operation of a taken packet (R348) -/

section CrOps
variable {s : State} {l ptag j : Nat} {p : Pkt} (presents : Presents s l ptag j p) {code v timeout : Nat} (creg : Nat)
include presents

theorem crOp_shadow (shadow : p.shadow = true) :
    crOp l ptag code creg v timeout s.m.cfg s.fresh =
      ans s.fresh l j p.slot (if code = 7 || code = 9 then .ok else .badDescriptor) 0 := by
  rw [crOp, presentOp_taken presents code _ rfl]
  exact if_pos shadow

theorem crOp_plain (plain : p.shadow = false) (capped : capTo timeout = timeout) :
    crOp l ptag code creg v timeout s.m.cfg s.fresh =
      let o := crSlot s.fresh p code (creg % 4096) v timeout
      serveHeld (crDecide (putOp s.fresh l j o) l j o) := by
  rw [crOp, presentOp_taken presents code _ rfl, if_neg (ne_true_of_eq_false plain), capped]
  rfl

end CrOps

/-! ### The time-out of a CR_WAIT (R217) -/

/-- The operation in slot `j` of engine `l` is the pending CR_WAIT `w` in the slot `o`, and its time-out has passed. -/
def CrWaitExpired (d : Dyn) (l j : Nat) (w : PendCr) (o : OpSlot) : Prop :=
  d.sg.crWaits.find? (fun w => w.leaf = l && w.opslot = j && w.timed) = some w ∧ getOp d l j = some o ∧
    o.timeout ≤ cyclesSince d w.since

section CrWaitTimeouts
variable {k : Cfg} {d : Dyn} {l j : Nat}

theorem crWaitTimeout_expired {w : PendCr} {o : OpSlot} (expired : CrWaitExpired d l j w o) :
    crWaitTimeout l j k d = serveHeld (ans
      { d with sg := { d.sg with crWaits := dropFirst (fun y => y = w) d.sg.crWaits } } l j o.slot .rangeFault 0) := by
  obtain ⟨pending, slot, passed⟩ := expired
  rw [crWaitTimeout, pending, slot]
  exact if_neg (Nat.not_lt.mpr passed)

theorem crWaitTimeout_early (early : ∀ w o, ¬ CrWaitExpired d l j w o) : crWaitTimeout l j k d = d := by
  unfold crWaitTimeout
  split
  next w o pending slot => exact if_pos (Nat.not_le.mp fun passed => early w o ⟨pending, slot, passed⟩)
  next => rfl

end CrWaitTimeouts

/-! ### REBASE, REBASE_SWEEP and the end of a rebase (R168 to R170) -/

section Rebases
variable {k : Cfg} {d : Dyn} {o : PairObj}

theorem rebase_unpaired (none : pairTaken d o = none) : rebase o k d = d ∧ rebaseSweep o k d = d := by
  constructor
  · rw [rebase, none]
  · rw [rebaseSweep, none]

/-- Another rebase may begin: none of this pair, and fewer than 16 in flight. -/
def RebaseRoom (d : Dyn) (o : PairObj) : Prop := rebasing d o = false ∧ d.sg.rebases.length < 16

theorem rebaseWaits_iff (d : Dyn) (o : PairObj) (t least : Nat) :
    (t < least || rebasing d o || 16 ≤ d.sg.rebases.length) = true ↔ ¬ (least ≤ t ∧ RebaseRoom d o) := by
  rw [RebaseRoom]
  cases rebasing d o
  · simp
    omega
  · simp

section Taken
variable {t : Nat} (taken : pairTaken d o = some t)
include taken

theorem rebase_starts (due : 2 ^ 31 ≤ t ∧ RebaseRoom d o) : rebase o k d = rebaseStart d o t := by
  rw [rebase, taken]
  exact if_neg fun waits => (rebaseWaits_iff d o t _).mp waits due

theorem rebase_waits (early : ¬ (2 ^ 31 ≤ t ∧ RebaseRoom d o)) : rebase o k d = d := by
  rw [rebase, taken]
  exact if_pos ((rebaseWaits_iff d o t _).mpr early)

theorem rebaseSweep_starts (due : 2 ^ 24 ≤ t ∧ RebaseRoom d o ∧ rebaseUrgent d o = false) :
    rebaseSweep o k d = rebaseStart d o t := by
  obtain ⟨reached, room, calm⟩ := due
  rw [rebaseSweep, taken]
  refine if_neg fun waits => ?_
  rw [calm, Bool.or_false] at waits
  exact (rebaseWaits_iff d o t _).mp waits ⟨reached, room⟩

theorem rebaseSweep_waits (early : ¬ (2 ^ 24 ≤ t ∧ RebaseRoom d o ∧ rebaseUrgent d o = false)) : rebaseSweep o k d = d := by
  rw [rebaseSweep, taken]
  refine if_pos ?_
  rw [Bool.or_eq_true, rebaseWaits_iff, or_iff_not_imp_left, not_not]
  exact fun ⟨reached, room⟩ => by_contra fun calm => early ⟨reached, room, Bool.eq_false_of_not_eq_true calm⟩

end Taken

theorem rebaseComplete_none (none : d.sg.rebases.find? (fun r => r.1 = o) = none) : rebaseComplete o k d = d := by
  rw [rebaseComplete, none]

/-- The rebase of a pair is no longer in flight. -/
def rebaseGone (d : Dyn) (o : PairObj) : Dyn := { d with sg := { d.sg with rebases := d.sg.rebases.filter (fun x => x.1 ≠ o) } }

theorem rebaseComplete_signal {i : Nat} {r : PairObj × W32} (atEnd : d.sg.rebases.find? (fun r => r.1 = .signal i) = some r) :
    rebaseComplete (.signal i) k d =
      let x := getSig d i
      serveHeld (serveSig (setSig (rebaseGone d (.signal i)) i { x with raised := x.raised - r.2, taken := x.taken - r.2 }) i) := by
  rw [rebaseComplete, atEnd]
  rfl

theorem rebaseComplete_creg {i : Nat} {r : PairObj × W32} (atEnd : d.sg.rebases.find? (fun r => r.1 = .creg i) = some r) :
    rebaseComplete (.creg i) k d =
      let x := getCr d i
      let d := setCr (rebaseGone d (.creg i)) i { x with v := x.v - r.2, p := x.p - r.2, c := x.c - r.2 }
      let ws := mapIf (fun w => w.creg = i && w.wait) (fun w => { w with n := w.n - r.2.toNat }) d.sg.crWaits
      serveHeld (serveCr (rebaseHeld { d with sg := { d.sg with crWaits := ws } } i r.2.toNat) i) := by
  rw [rebaseComplete, atEnd]
  rfl

end Rebases

/-! ### The commands -/

section RegionsServed
variable {s : State}

/-- A CR operation of a taken packet that is no shadow copy's is decided at its region, and then those that a rebase held are tried. -/
theorem exec_crOp_decided {l ptag j creg code v timeout : Nat} {p : Pkt} {hits : List Hit} {i : Instr} {d : Dyn}
    (presents : Presents s l ptag j p) (clean : Clean hits) (plain : p.shadow = false) (capped : capTo timeout = timeout)
    (runs : exec i s = runSrv (withHits Stored.isCreg hits (crOp l ptag code creg v timeout)) s)
    (decided : crDecide (putOp s.fresh l j (crSlot s.fresh p code (creg % 4096) v timeout)) l j
      (crSlot s.fresh p code (creg % 4096) v timeout) = d) :
    exec i s = .next (s.served (serveHeld d)) := by
  rw [runs, runSrv_open presents.1, withHits_clean clean, crOp_plain presents creg plain capped]
  exact congrArg (fun d => Host.Outcome.next (s.served (serveHeld d))) decided

theorem exec_crOp_shadow {l ptag j creg code v timeout : Nat} {p : Pkt} {hits : List Hit} {i : Instr}
    (presents : Presents s l ptag j p) (clean : Clean hits) (shadow : p.shadow = true)
    (runs : exec i s = runSrv (withHits Stored.isCreg hits (crOp l ptag code creg v timeout)) s) :
    exec i s = .next (s.served (ans s.fresh l j p.slot (if code = 7 || code = 9 then .ok else .badDescriptor) 0)) := by
  rw [runs, runSrv_open presents.1, withHits_clean clean, crOp_shadow presents creg shadow]

variable (h : s.serving)
include h

theorem exec_crWaitTimeout (l j : Nat) : exec (.crWaitTimeout l j) s = .next (s.served (crWaitTimeout l j s.m.cfg s.fresh)) :=
  runSrv_open h _

theorem exec_rebase (o : PairObj) : exec (.rebase o) s = .next (s.served (rebase o s.m.cfg s.fresh)) := runSrv_open h _

theorem exec_rebaseSweep (o : PairObj) : exec (.rebaseSweep o) s = .next (s.served (rebaseSweep o s.m.cfg s.fresh)) := runSrv_open h _

theorem exec_rebaseComplete (o : PairObj) : exec (.rebaseComplete o) s = .next (s.served (rebaseComplete o s.m.cfg s.fresh)) :=
  runSrv_open h _

end RegionsServed

/-! ### The obligation -/

/-- Settles O49: an operation at its region by the rebase, the region's state and its operand, the time-out by whether a pending CR_WAIT of
its slot has run out of time, a rebase by the count that it would take and what is in flight, its end by the object (the order in which
held operations are decided is log 107). -/
theorem circularRegionsAndRebase : Obligations.CircularRegionsAndRebase := by
  unfold Obligations.CircularRegionsAndRebase
  refine ⟨fun s l ptag j creg p n target tmo hits presents clean => ?_, fun s l q h => ⟨fun w o expired => ?_, fun early => ?_⟩,
    fun s o h => ⟨fun none => ⟨?_, ?_⟩, fun t taken => ⟨fun due => ?_, fun early => ?_, fun due => ?_, fun early => ?_⟩,
      fun none => ?_, fun r atEnd => ⟨?_, ?_⟩⟩⟩
  · intro i x d acquires commits waits drains each pends
    refine ⟨fun shadow => ⟨exec_crOp_shadow (code := 6) presents clean shadow rfl, exec_crOp_shadow (code := 7) presents clean shadow rfl,
      exec_crOp_shadow (code := 8) presents clean shadow rfl, exec_crOp_shadow (code := 9) presents clean shadow rfl⟩, fun plain => ?_⟩
    have capped : capTo (capTo tmo.toNat) = capTo tmo.toNat := by simp [capTo]
    have isRegion : i < 4096 := Nat.mod_lt _ (by decide)
    have count : n.toNat < 2 ^ 32 := n.isLt.trans (by decide)
    obtain ⟨acqReg, acqN⟩ := crSlot_operands s.fresh p 6 0 isRegion count
    obtain ⟨comReg, comN⟩ := crSlot_operands s.fresh p 7 0 isRegion count
    obtain ⟨waitReg, waitN⟩ := crSlot_operands s.fresh p 8 (capTo tmo.toNat) isRegion target.isLt
    obtain ⟨drnReg, drnN⟩ := crSlot_operands s.fresh p 9 0 isRegion count
    have acquired : ∀ {e}, crDecide (d 6 n.toNat 0) l j (crSlot s.fresh p 6 i n.toNat 0) = e → acquires (serveHeld e) :=
      exec_crOp_decided presents clean plain rfl rfl
    have committed : ∀ {e}, crDecide (d 7 n.toNat 0) l j (crSlot s.fresh p 7 i n.toNat 0) = e → commits (serveHeld e) :=
      exec_crOp_decided presents clean plain rfl rfl
    have waited : ∀ {e}, crDecide (d 8 target.toNat (capTo tmo.toNat)) l j (crSlot s.fresh p 8 i target.toNat (capTo tmo.toNat)) = e →
        waits (serveHeld e) := exec_crOp_decided presents clean plain capped rfl
    have drained : ∀ {e}, crDecide (d 9 n.toNat 0) l j (crSlot s.fresh p 9 i n.toNat 0) = e → drains (serveHeld e) :=
      exec_crOp_decided presents clean plain rfl rfl
    refine ⟨fun held => ?_, fun free ecc => ?_, fun free sound foreign => ?_, fun free sound valid own => ?_⟩
    · exact ⟨acquired (crDecide_held acqReg held), committed (crDecide_held comReg held), waited (crDecide_held waitReg held),
        drained (crDecide_held drnReg held)⟩
    · exact ⟨acquired (crDecide_ecc acqReg free ecc), committed (crDecide_ecc comReg free ecc), waited (crDecide_ecc waitReg free ecc),
        drained (crDecide_ecc drnReg free ecc)⟩
    · exact ⟨acquired (crDecide_foreign acqReg free sound foreign), committed (crDecide_foreign comReg free sound foreign),
        waited (crDecide_foreign waitReg free sound foreign), drained (crDecide_foreign drnReg free sound foreign)⟩
    · have positive : n ≠ 0 → n.toNat ≠ 0 := fun nonzero zero => nonzero (BitVec.eq_of_toNat_eq zero)
      have natural : n.setWidth 32 = w32 n.toNat := by rw [w32, BitVec.ofNat_toNat]
      refine ⟨fun fits => ?_, fun exceeds => committed (crDecide_commitRange comReg free sound valid own comN rfl exceeds), fun fits => ?_,
        fun exceeds => drained (crDecide_drainRange drnReg free sound valid own drnN rfl exceeds), fun zero => ?_, fun nonzero =>
        ⟨fun behind => ?_, fun room => ?_⟩, fun reached => waited (crDecide_waitReached waitReg free sound valid own waitN rfl reached),
        fun early => ⟨fun behind => waited (crDecide_waitBehind waitReg free sound valid own waitN rfl early behind), fun room => ?_⟩⟩
      · rw [natural]
        exact committed (crDecide_commit comReg free sound valid own comN rfl fits)
      · rw [natural]
        exact drained (crDecide_drain drnReg free sound valid own drnN rfl fits)
      · subst zero
        exact acquired (crDecide_acquireZero acqReg free sound valid own acqN rfl rfl)
      · exact acquired (crDecide_acquireBehind acqReg free sound valid own acqN rfl (positive nonzero) behind)
      · exact acquired (crDecide_acquirePends acqReg free sound valid own acqN rfl (positive nonzero) room)
      · exact waited (crDecide_waitPends waitReg free sound valid own waitN rfl early room)
  · rw [exec_crWaitTimeout h, crWaitTimeout_expired (d := s.fresh) expired]
    rfl
  · rw [exec_crWaitTimeout h, crWaitTimeout_early (d := s.fresh) early]
  · rw [exec_rebase h, (rebase_unpaired none).1]
  · rw [exec_rebaseSweep h, (rebase_unpaired none).2]
  · rw [exec_rebase h, rebase_starts taken due]
    rfl
  · rw [exec_rebase h, rebase_waits taken early]
  · rw [exec_rebaseSweep h, rebaseSweep_starts taken due]
    rfl
  · rw [exec_rebaseSweep h, rebaseSweep_waits taken early]
  · rw [exec_rebaseComplete h, rebaseComplete_none (d := s.fresh) none]
  · rintro i rfl
    rw [exec_rebaseComplete h, rebaseComplete_signal (d := s.fresh) atEnd]
    rfl
  · rintro i rfl
    rw [exec_rebaseComplete h, rebaseComplete_creg (d := s.fresh) atEnd]
    rfl

end Sys2Proof.Machine

/-! ## Contributions and results of the combining queues (R187, R195, R203, R204, R209, R211, R341) -/

namespace Sys2Proof.Machine

/-! ### CONTRIBUTION_APPLY (R203, R204, R211) -/

section Contributions
variable {k : Cfg} {d : Dyn}

theorem contributionApply_waits (waits : d.cb.intake = [] ∨ summaryFull d = true) : contributionApply k d = d := by
  unfold contributionApply
  split
  next => rfl
  next t rest intake =>
    rcases waits with empty | full
    · exact absurd (intake.symm.trans empty) (List.cons_ne_nil _ _)
    · exact if_pos full

theorem contributionApply_applied {t : Tok} {rest : List Tok} (intake : d.cb.intake = t :: rest) (room : summaryFull d = false) :
    contributionApply k d =
      let e := qEntry d (combQueue (hDest t.hdr) (hQ t.hdr))
      let tags := applyTok k.boot.chipId e d.cb.tags t
      closeTags k { d with cb := { d.cb with intake := rest, tags := tags } } (d.cb.tags.filter (fun x => x.st == .closed)) := by
  rw [contributionApply, intake]
  exact if_neg (ne_true_of_eq_false room)

end Contributions

/-! ### The queue's token that a LINK_KEY held (R195) -/

/-- The tag of the queue whose token a LINK_KEY holds. -/
def keyedTag (d : Dyn) (q : Nat) : Option Tag := d.cb.tags.find? (fun t => t.q = q && t.st.isKeyHeld)

section Resumed
variable {k : Cfg} {d : Dyn} {q : Nat}

theorem resumeResult_stays (stays : keyedTag d q = none ∨ d.lk.pendKey ≠ none) : resumeResult k d q = d := by
  unfold resumeResult
  split
  next t keyed =>
    refine if_pos (Option.isSome_iff_ne_none.mpr (stays.resolve_left fun none => ?_))
    rw [keyedTag, keyed] at none
    cases none
  next => rfl

theorem resumeResult_sent {t : Tag} (keyed : keyedTag d q = some t) (applied : d.lk.pendKey = none) :
    resumeResult k d q = sendResult k d q t.tag t.st.part := by
  rw [keyedTag] at keyed
  rw [resumeResult, keyed]
  exact if_neg (by simp [applied])

end Resumed

/-! ### RESULT_DELIVERY (R187, R195, R209, Table 12.12) -/

/-- The closed tag that RESULT_DELIVERY names. -/
def closedTagOf (d : Dyn) (q tag : Nat) : Option Tag := d.cb.tags.find? (fun t => t.q = q && t.tag = tag && t.st == .closed)

/-- A token of the queue is on its way, or held by a LINK_KEY. -/
def QueueSends (d : Dyn) (q : Nat) : Prop := ∃ x ∈ d.cb.tags, x.q = q ∧ x.st.isSending = true

theorem queueSends_iff (d : Dyn) (q : Nat) : d.cb.tags.any (fun x => x.q = q && x.st.isSending) = true ↔ QueueSends d q := by
  simp [QueueSends]

section Deliveries
variable {k : Cfg} {d : Dyn} {q tag : Nat}

theorem resultDelivery_unnamed (none : closedTagOf d q tag = none) : resultDelivery q tag k d = resumeResult k d q := by
  rw [closedTagOf] at none
  rw [resultDelivery, none]

variable {t : Tag} (closed : closedTagOf d q tag = some t)
include closed

theorem resultDelivery_waits (waits : unitWaits d 0x10 (rootUnit 4) = true) : resultDelivery q tag k d = d := by
  rw [closedTagOf] at closed
  rw [resultDelivery, closed]
  exact if_pos waits

variable (free : unitWaits d 0x10 (rootUnit 4) = false)
include free

theorem resultDelivery_written (memory : qDeliver (qEntry d q) = 0) :
    resultDelivery q tag k d =
      busWrite k (modTag d q tag (· == .closed) (fun t => { t with st := .writing }))
        ((qRbase (qEntry d q) + tag * outWidth (qOutfmt (qEntry d q))) % p64) (t.bytes (qEntry d q)) (.result q tag) := by
  rw [closedTagOf] at closed
  rw [resultDelivery, closed]
  exact (if_neg (ne_true_of_eq_false free)).trans (if_pos memory)

variable (token : qDeliver (qEntry d q) ≠ 0)
include token

theorem resultDelivery_busy (busy : QueueSends d q) : resultDelivery q tag k d = resumeResult k d q := by
  rw [closedTagOf] at closed
  rw [resultDelivery, closed]
  exact (if_neg (ne_true_of_eq_false free)).trans ((if_neg token).trans (if_pos ((queueSends_iff d q).mpr busy)))

variable (idle : ¬ QueueSends d q)
include idle

/-- With no token of the queue on its way, the result waits for the key, is discarded or is sent. -/
theorem resultDelivery_idle : resultDelivery q tag k d =
    let h := (resultTok k (qEntry d q) t 0).hdr
    if (!k.local h && d.lk.pendKey.isSome) = true then d
    else if noRoute k d (combRef q) h = true then resultRefused k d q tag .noRoute
    else sendResult k d q tag 0 := by
  rw [closedTagOf] at closed
  rw [resultDelivery, closed]
  exact (if_neg (ne_true_of_eq_false free)).trans ((if_neg token).trans (if_neg fun sends => idle ((queueSends_iff d q).mp sends)))

theorem resultDelivery_keyWaits (cross : k.local (resultTok k (qEntry d q) t 0).hdr = false) (pends : d.lk.pendKey ≠ none) :
    resultDelivery q tag k d = d :=
  (resultDelivery_idle closed free token idle).trans (if_pos (by rw [cross, Option.isSome_iff_ne_none.mpr pends]; rfl))

variable (goes : k.local (resultTok k (qEntry d q) t 0).hdr = true ∨ d.lk.pendKey = none)
include goes

theorem resultDelivery_goes : resultDelivery q tag k d =
    if noRoute k d (combRef q) (resultTok k (qEntry d q) t 0).hdr = true then resultRefused k d q tag .noRoute
    else sendResult k d q tag 0 :=
  (resultDelivery_idle closed free token idle).trans (if_neg (by rcases goes with here | applied <;> simp [*]))

theorem resultDelivery_sent (routed : noRoute k d (combRef q) (resultTok k (qEntry d q) t 0).hdr = false) :
    resultDelivery q tag k d = sendResult k d q tag 0 :=
  (resultDelivery_goes closed free token idle goes).trans (if_neg (ne_true_of_eq_false routed))

theorem resultDelivery_discarded (absent : noRoute k d (combRef q) (resultTok k (qEntry d q) t 0).hdr = true) :
    resultDelivery q tag k d = resultRefused k d q tag .noRoute :=
  (resultDelivery_goes closed free token idle goes).trans (if_pos absent)

end Deliveries

/-! ### The commands -/

section CombiningServed
variable {s : State} (h : s.part (rootUnit 4))
include h

theorem exec_contributionApply_clean {hits : List Hit} (clean : Clean hits) :
    exec (.contributionApply hits) s = .next (s.served (contributionApply s.m.cfg s.fresh)) :=
  (runPart_open h _).trans (by rw [withHits_clean clean])

theorem exec_resultDelivery (q tag : Nat) :
    exec (.resultDelivery q tag) s = .next (s.served (resultDelivery q tag s.m.cfg s.fresh)) := runPart_open h _

end CombiningServed

/-! ### The obligation -/

/-- Settles O50: an apply by the intake and the room for a record, a delivery by the tag that it names, what waits, the entry's DELIVER and
the queue's tokens (a result held by a waiting LINK_KEY is log 82). -/
theorem contributionsAndResults : Obligations.ContributionsAndResults := by
  unfold Obligations.ContributionsAndResults
  intro s hits q tag k applied delivered
  refine ⟨fun h waits => ⟨runPart_held h waits _, runPart_held h waits _⟩, fun h clean => ⟨fun waits => ?_, fun t rest intake room => ?_⟩,
    fun h => ?_⟩
  · exact (exec_contributionApply_clean h clean).trans (by rw [contributionApply_waits (d := s.fresh) waits])
  · exact (exec_contributionApply_clean h clean).trans (by rw [contributionApply_applied (d := s.fresh) intake room]; rfl)
  · have delivers : ∀ {d}, resultDelivery q tag k s.fresh = d → delivered d := fun delivery => delivery ▸ exec_resultDelivery h q tag
    intro closed keyed e free busy toward
    refine ⟨fun t (named : closedTagOf s.fresh q tag = some t) => ⟨fun waits => ?_, fun go memory => ?_, fun go token idle =>
      ⟨fun cross pends => ?_, fun goes => ⟨fun routed => ?_, fun absent => ?_⟩⟩⟩, fun resumes => ?_⟩
    · exact delivers (resultDelivery_waits named waits)
    · exact delivers (resultDelivery_written named go memory)
    · exact delivers (resultDelivery_keyWaits named go token idle cross pends)
    · exact delivers (resultDelivery_sent named go token idle goes routed)
    · exact delivers (resultDelivery_discarded named go token idle goes absent)
    · have resumed : resultDelivery q tag k s.fresh = resumeResult k s.fresh q := by
        rcases resumes with none | ⟨some, go, token, sends⟩
        · exact resultDelivery_unnamed none
        · obtain ⟨t, named⟩ := Option.ne_none_iff_exists'.mp some
          exact resultDelivery_busy named go token sends
      exact ⟨fun stays => delivers (resumed.trans (resumeResult_stays stays)),
        fun t held key => delivers (resumed.trans (resumeResult_sent held key))⟩

end Sys2Proof.Machine

/-! ## STAT nodes and the results of the function unit (R187, R256 to R260, R263, R265, R266, R341, R353) -/

namespace Sys2Proof.Machine

/-! ### STAT_CONTROL_BLOCK (R256, R257) -/

section ControlBlocks
variable {k : Cfg} {d : Dyn} {g : Nat}

theorem statControlBlock_none (none : getStat d g = none) : statControlBlock g k d = d := by rw [statControlBlock, none]

variable {x : Stat} (stat : getStat d g = some x)
include stat

theorem statControlBlock_unread (unread : readDone d (.statBlock x.slot g) = none) : statControlBlock g k d = d := by
  simp [statControlBlock, stat, unread]

variable {j : RdJob} (read : readDone d (.statBlock x.slot g) = some j)
include read

theorem statControlBlock_error (err : j.err = true) :
    statControlBlock g k d = statFail (dropRead d (.statBlock x.slot g)) x .eccUncorr := by
  simp [statControlBlock, stat, read, err]

variable (good : j.err = false)
include good

theorem statControlBlock_kept (ok : statBlockOk x (leAt (j.data.getD []) 0 32) = true) :
    statControlBlock g k d =
      modStat (dropRead d (.statBlock x.slot g)) x.slot g (fun s => { s with block := some (w256 (leAt (j.data.getD []) 0 32)) }) := by
  simp [statControlBlock, stat, read, good, ok]

theorem statControlBlock_bad (bad : statBlockOk x (leAt (j.data.getD []) 0 32) = false) :
    statControlBlock g k d =
      statFail (dropRead d (.statBlock x.slot g)) { x with block := some (w256 (leAt (j.data.getD []) 0 32)) } .badDescriptor := by
  simp [statControlBlock, stat, read, good, bad]

end ControlBlocks

/-! ### ROW_FINISH (R257 to R260, R263, R353) -/

/-- A component of row `r` came from another chip. -/
def RowRemote (x : Stat) (r : Nat) : Prop := ∃ j < x.comps.length, (tgetD x.got (3 * r + j) (0, 0, false, .ok)).2.2.1 = true

theorem upFrom_eq_range' (lo n : Nat) : upFrom lo n = List.range' lo n := by
  induction n generalizing lo with
  | zero => rfl
  | succ n ih => rw [upFrom, ih, List.range'_succ]

theorem rowRemote_iff (x : Stat) (r : Nat) :
    (upFrom 0 x.comps.length).any (fun j => (tgetD x.got (3 * r + j) (0, 0, false, .ok)).2.2.1) = true ↔ RowRemote x r := by
  simp [RowRemote, upFrom_eq_range']

/-- The write of the row `r` of a STAT leaves; the rows `rest` are ready behind it. -/
def rowWritten (k : Cfg) (d : Dyn) (g : Nat) (x : Stat) (r : Nat) (rest : List Nat) : Dyn :=
  let o := rowOutputs x d r
  let w := fmtWidth (bOutfmt x.b)
  busWrite k (modStat d x.slot g (fun s => { s with ready := rest, finished := s.finished + 1, writesOut := s.writesOut + 1 }))
    ((x.dst.toNat + 32 + o.length * r * w) % p64) (o.flatMap (leBytes w)) (.statRow x.slot g)

section Rows
variable {k : Cfg} {d : Dyn} {g : Nat}

theorem rowFinish_none (none : getStat d g = none) : rowFinish g k d = d := by rw [rowFinish, none]

variable {x0 : Stat} (stat : getStat d g = some x0)
include stat

theorem rowFinish_gone (gone : getStat (consumeAll d x0.slot g) g = none) : rowFinish g k d = consumeAll d x0.slot g := by
  rw [rowFinish, stat]
  dsimp only
  rw [gone]

variable {x : Stat} (consumed : getStat (consumeAll d x0.slot g) g = some x)
include consumed

theorem rowFinish_failed {v : Int × Nat × Bool × Status} (failed : (tvals x.got).find? (fun v => v.2.2.2 ≠ .ok) = some v) :
    rowFinish g k d = statFail (consumeAll d x0.slot g) x v.2.2.2 := by
  rw [rowFinish, stat]
  dsimp only
  rw [consumed]
  dsimp only
  rw [failed]

variable (sound : ∀ v ∈ tvals x.got, v.2.2.2 = .ok)
include sound

omit stat consumed in
theorem find?_failed_eq_none : (tvals x.got).find? (fun v => v.2.2.2 ≠ .ok) = none :=
  List.find?_eq_none.mpr fun v mem => by simp [sound v mem]

theorem rowFinish_noRow (empty : x.ready = []) : rowFinish g k d = consumeAll d x0.slot g := by
  rw [rowFinish, stat]
  dsimp only
  rw [consumed]
  dsimp only
  rw [find?_failed_eq_none sound, empty]

section Ready
variable {r : Nat} {rest : List Nat} (ready : x.ready = r :: rest)
include ready

/-- With no failed component the first ready row is written, unless the STAT is fast and the row is not its chip's own. -/
theorem rowFinish_ready : rowFinish g k d =
    if (x.fast && (upFrom 0 x.comps.length).any (fun j => (tgetD x.got (3 * r + j) (0, 0, false, .ok)).2.2.1)) = true then
      statFail (consumeAll d x0.slot g) x .badDescriptor
    else rowWritten k (consumeAll d x0.slot g) g x r rest := by
  rw [rowFinish, stat]
  dsimp only
  rw [consumed]
  dsimp only
  rw [find?_failed_eq_none sound, ready]
  rfl

theorem rowFinish_remote (fast : x.fast = true) (remote : RowRemote x r) :
    rowFinish g k d = statFail (consumeAll d x0.slot g) x .badDescriptor :=
  (rowFinish_ready stat consumed sound ready).trans (if_pos (by rw [fast, (rowRemote_iff x r).mpr remote]; rfl))

theorem rowFinish_written (own : x.fast = false ∨ ¬ RowRemote x r) :
    rowFinish g k d = rowWritten k (consumeAll d x0.slot g) g x r rest := by
  refine (rowFinish_ready stat consumed sound ready).trans (if_neg fun both => ?_)
  obtain ⟨fast, remote⟩ := (Bool.and_eq_true _ _).mp both
  exact own.elim (fun slow => Bool.false_ne_true (slow.symm.trans fast)) (fun here => here ((rowRemote_iff x r).mp remote))

end Ready
end Rows

/-! ### STAT_END (R260) -/

section StatEnds
variable {k : Cfg} {d : Dyn} {g : Nat}

theorem statEnd_none (none : getStat d g = none) : statEnd g k d = d := by rw [statEnd, none]

variable {x : Stat} (stat : getStat d g = some x)
include stat

theorem statEnd_done (done : x.finished = x.rows ∧ x.writesOut = 0) :
    statEnd g k d = internalEnd (statRemove d x) x.slot g .ok := by
  rw [statEnd, stat]
  exact if_pos (by simpa using done)

theorem statEnd_unfinished (unfinished : ¬ (x.finished = x.rows ∧ x.writesOut = 0)) : statEnd g k d = d := by
  rw [statEnd, stat]
  exact if_neg (by simpa using unfinished)

end StatEnds

/-! ### EVAL_RESULT (R187, R265, R266) -/

/-- The result of the request has not left, and no result of its pair is on its way. -/
def PairFree (k : Cfg) (d : Dyn) (r : EvalReq) : Prop :=
  r.sent = false ∧ ∀ y ∈ d.sf.intake, y.sent = true → samePair (resultHdr k y.tok) (resultHdr k r.tok) = false

theorem pairFree_iff (k : Cfg) (d : Dyn) (r : EvalReq) :
    (!r.sent && !d.sf.intake.any (fun x => x.sent && samePair (resultHdr k x.tok) (resultHdr k r.tok))) = true ↔ PairFree k d r := by
  simp [PairFree]

section EvalResults
variable {k : Cfg} {d : Dyn}

theorem evalResult_waits (waits : unitWaits d 0x10 (rootUnit 6) = true ∨ ∀ r ∈ d.sf.intake, ¬ PairFree k d r) : evalResult k d = d := by
  unfold evalResult
  by_cases held : unitWaits d 0x10 (rootUnit 6) = true
  · exact if_pos held
  · refine (if_neg held).trans ?_
    have none := List.find?_eq_none.mpr fun r mem free => waits.resolve_left held r mem ((pairFree_iff k d r).mp free)
    rw [none]

/-- The oldest request whose pair is free is answered. -/
theorem evalResult_oldest {r : EvalReq} {before after : List EvalReq} (intake : d.sf.intake = before ++ r :: after)
    (free : PairFree k d r) (oldest : ∀ y ∈ before, ¬ PairFree k d y) (go : unitWaits d 0x10 (rootUnit 6) = false) :
    evalResult k d = evalSend k d r := by
  have first : d.sf.intake.find? (fun r => !r.sent && !d.sf.intake.any (fun x => x.sent && samePair (resultHdr k x.tok) (resultHdr k r.tok)))
      = some r := by
    refine List.find?_eq_some_iff_append.mpr ⟨(pairFree_iff k d r).mpr free, before, after, intake, fun y mem => ?_⟩
    rw [Bool.not_eq_true', Bool.eq_false_iff]
    exact fun earlier => oldest y mem ((pairFree_iff k d y).mp earlier)
  rw [evalResult]
  refine (if_neg (ne_true_of_eq_false go)).trans ?_
  rw [first]

theorem evalSend_discarded {r : EvalReq}
    (absent : noRoute k d (mkLeaf 0 0xF9 (leafSlot (hDest r.tok.hdr))) (resultHdr k r.tok) = true) :
    evalSend k d r = evalRefused k d r .noRoute := if_pos absent

end EvalResults

/-! ### The commands -/

section FunctionUnit
variable {s : State}

theorem exec_statControlBlock (h : s.part (rootUnit 6)) (g : Nat) :
    exec (.statControlBlock g) s = .next (s.served (statControlBlock g s.m.cfg s.fresh)) := runPart_open h _

theorem exec_rowFinish (h : s.part (rootUnit 6)) (g : Nat) :
    exec (.rowFinish g) s = .next (s.served (rowFinish g s.m.cfg s.fresh)) := runPart_open h _

theorem exec_evalResult (h : s.part (rootUnit 6)) : exec .evalResult s = .next (s.served (evalResult s.m.cfg s.fresh)) :=
  runPart_open h _

theorem exec_statEnd (h : s.serving) (g : Nat) : exec (.statEnd g) s = .next (s.served (statEnd g s.m.cfg s.fresh)) :=
  runSrv_open h _

end FunctionUnit

/-! ### The obligation -/

/-- Settles O51: a block by its read and its fields, a row by what the STAT has consumed, an end by the rows written and acknowledged, a
result by the oldest request whose pair is free (the outputs' open results are log 16). -/
theorem statAndFunctionResults : Obligations.StatAndFunctionResults := by
  unfold Obligations.StatAndFunctionResults
  intro s g k block row ended result stat
  refine ⟨fun h held => ⟨runPart_held h held _, runPart_held h held _, runPart_held h held _⟩, fun h => ⟨fun none => ⟨?_, ?_⟩,
      fun x some unread => ?_, fun x j some read => ⟨fun err => ?_, fun good ok => ?_, fun good bad => ?_⟩, fun x0 some => ?_, ?_⟩,
    fun h => ⟨fun none => ?_, fun x some => ⟨fun done => ?_, fun unfinished => ?_⟩⟩⟩
  · exact (exec_statControlBlock h g).trans (by rw [statControlBlock_none none])
  · exact (exec_rowFinish h g).trans (by rw [rowFinish_none none])
  · exact (exec_statControlBlock h g).trans (by rw [statControlBlock_unread some unread])
  · exact (exec_statControlBlock h g).trans (by rw [statControlBlock_error some read err])
  · exact (exec_statControlBlock h g).trans (by rw [statControlBlock_kept some read good ok])
  · exact (exec_statControlBlock h g).trans (by rw [statControlBlock_bad some read good bad])
  · have finishes : ∀ {d}, rowFinish g k s.fresh = d → row d := fun finish => finish ▸ exec_rowFinish h g
    exact ⟨fun gone => finishes (rowFinish_gone some gone),
      fun x consumed => ⟨fun v failed => finishes (rowFinish_failed some consumed failed),
        fun sound => ⟨fun empty => finishes (rowFinish_noRow some consumed sound empty),
          fun r rest ready => ⟨fun ⟨fast, remote⟩ => finishes (rowFinish_remote some consumed sound ready fast remote),
            fun own => finishes (rowFinish_written some consumed sound ready own)⟩⟩⟩⟩
  · intro free
    have sends : ∀ {d}, evalResult k s.fresh = d → result d := fun eval => eval ▸ exec_evalResult h
    refine ⟨fun waits => sends (evalResult_waits waits), fun r before after intake pairFree oldest go => ?_⟩
    have answered : evalResult k s.fresh = evalSend k s.fresh r := evalResult_oldest intake pairFree oldest go
    exact ⟨fun absent => sends (answered.trans (evalSend_discarded absent)), fun _ => sends answered⟩
  · exact (exec_statEnd h g).trans (by rw [statEnd_none none])
  · exact (exec_statEnd h g).trans (by rw [statEnd_done some done])
  · exact (exec_statEnd h g).trans (by rw [statEnd_unfinished some unfinished])

end Sys2Proof.Machine

/-! ## Link endpoints, memory responses and write acknowledgements (R193, R196, R338, R399, R440 to R442, R445, R456) -/

namespace Sys2Proof.Machine

/-! ### Frames received over a link (R196, R445) -/

section LinkDown
variable {k : Cfg} {d : Dyn} {p : Nat} (down : linkOk k d p = false)
include down

theorem linkFrame_down (f : BitVec 576) : linkFrame p f k d = d := if_pos (by rw [down]; rfl)

theorem linkRetransmitRequest_down (seq : W32) : linkRetransmitRequest p seq k d = d := if_pos (by rw [down]; rfl)

theorem linkConfirmation_down (a : W32) : linkConfirmation p a k d = d := if_neg (ne_true_of_eq_false down)

theorem linkConfirmSend_down : linkConfirmSend p k d = d := if_pos (by rw [down]; rfl)

end LinkDown

section LinkUp
variable {k : Cfg} {d : Dyn} {p : Nat} (up : linkOk k d p = true)
include up

section Retransmission
variable {seq : W32}

theorem retransmit_confirmed (none : (getLink (confirmTo d p seq) p).unconf = []) : retransmit k d p seq = confirmTo d p seq := by
  simp [retransmit, up, none]

variable {u : BitVec 576 × Nat × W64} {rest : List (BitVec 576 × Nat × W64)} (first : (getLink (confirmTo d p seq) p).unconf = u :: rest)
include first

theorem retransmit_resent (few : u.2.1 < 3) : retransmit k d p seq = resend (confirmTo d p seq) p := by
  simp [retransmit, up, first, few]

variable (failed : 3 ≤ u.2.1)
include failed

theorem retransmit_waits (full : summaryFull d = true) : retransmit k d p seq = d := by
  simp [retransmit, up, first, Nat.not_lt.mpr failed, full]

theorem retransmit_givenUp (room : summaryFull d = false) :
    retransmit k d p seq = resend (giveUp k (confirmTo d p seq) p u.1) p := by
  simp [retransmit, up, first, Nat.not_lt.mpr failed, room]

end Retransmission

theorem linkConfirmation_up (a : W32) : linkConfirmation p a k d = confirmTo d p a := if_pos up

theorem linkConfirmSend_due (owed : (getLink d p).owed = true) (due : 256 ≤ cyclesSince d (getLink d p).owedFrom) :
    linkConfirmSend p k d = out (setLink d p { getLink d p with owed := false }) (.linkTx p (ctlFrame 4 (getLink d p).rxSeq)) := by
  simp [linkConfirmSend, up, owed, Nat.not_lt.mpr due]

section Frames
variable {f : BitVec 576}

omit up in
theorem linkFrame_recordWaits (waits : linkWaits k d p = true) : linkFrame p f k d = d :=
  if_pos (by rw [waits, Bool.or_true])

variable (go : linkWaits k d p = false)
include go

theorem linkFrame_badCheck (bad : fCheck f ≠ frameCheck f.toNat) : linkFrame p f k d = askAgain d p := by
  simp [linkFrame, up, go, bad]

variable (check : fCheck f = frameCheck f.toNat)
include check

theorem linkFrame_request (kind : fKind f = 3) : linkFrame p f k d = retransmit k d p (fAckseq f) := by
  simp [linkFrame, up, go, check, kind]

theorem linkFrame_confirms (other : fKind f ≠ 1 ∧ fKind f ≠ 2 ∧ fKind f ≠ 3) : linkFrame p f k d = confirmTo d p (fAckseq f) := by
  obtain ⟨one, two, three⟩ := other
  simp [linkFrame, up, go, check, one, two, three]

section Carries
variable (kind : fKind f = 1 ∨ fKind f = 2)
include kind

/-- A token or an acknowledgement: it is taken in sequence, and else asked for unless the endpoint discards already. -/
theorem linkFrame_carries : linkFrame p f k d =
    let e := confirmTo d p (fAckseq f)
    if fSeq f = (getLink e p).rxSeq then takeFrame k e p f
    else if (getLink e p).discarding = true then e
    else askAgain e p := by
  have notThree : fKind f ≠ 3 := by omega
  simp [linkFrame, up, go, check, notThree, kind]

theorem linkFrame_taken (inSequence : fSeq f = (getLink (confirmTo d p (fAckseq f)) p).rxSeq) :
    linkFrame p f k d = takeFrame k (confirmTo d p (fAckseq f)) p f :=
  (linkFrame_carries up go check kind).trans (if_pos inSequence)

variable (outOfSequence : fSeq f ≠ (getLink (confirmTo d p (fAckseq f)) p).rxSeq)
include outOfSequence

theorem linkFrame_discarded (discarding : (getLink (confirmTo d p (fAckseq f)) p).discarding = true) :
    linkFrame p f k d = confirmTo d p (fAckseq f) :=
  (linkFrame_carries up go check kind).trans ((if_neg outOfSequence).trans (if_pos discarding))

theorem linkFrame_askedAgain (taking : (getLink (confirmTo d p (fAckseq f)) p).discarding = false) :
    linkFrame p f k d = askAgain (confirmTo d p (fAckseq f)) p :=
  (linkFrame_carries up go check kind).trans ((if_neg outOfSequence).trans (if_neg (ne_true_of_eq_false taking)))

end Carries
end Frames
end LinkUp

theorem linkConfirmSend_notDue {d : Dyn} {p : Nat}
    (notDue : ¬ ((getLink d p).owed = true ∧ 256 ≤ cyclesSince d (getLink d p).owedFrom)) (k : Cfg) : linkConfirmSend p k d = d := by
  refine if_pos ?_
  by_contra sends
  simp only [Bool.or_eq_true, decide_eq_true_eq, not_or, Bool.not_eq_true', Bool.not_eq_false, Nat.not_lt] at sends
  exact notDue ⟨sends.1.2, sends.2⟩

/-! ### A frame in sequence (R193) -/

section Taken
variable {k : Cfg} {d : Dyn} {p : Nat} {f : BitVec 576}

/-- The token of a frame. -/
def frameTok (f : BitVec 576) (p : Nat) : Tok :=
  { hdr := fHdr f, src := fSrc f, payload := fPay f, ddig := fDdig f, sender := .link p (fOpslot f) }

/-- The endpoint has received a token in sequence. -/
def tokenIn (d : Dyn) (p : Nat) : Dyn :=
  let y := getLink d p
  setLink d p { y.owes d.fc with rxSeq := y.rxSeq + 1, discarding := false, tokRcvd := y.tokRcvd + 1 }

/-- The endpoint has received an acknowledgement in sequence. -/
def ackIn (d : Dyn) (p : Nat) : Dyn :=
  let y := getLink d p
  setLink d p { y.owes d.fc with rxSeq := y.rxSeq + 1, discarding := false, ackRcvd := y.ackRcvd + 1 }

section Token
variable (token : fKind f = 1)
include token

theorem takeFrame_otherChip (elsewhere : hChip (fHdr f) ≠ k.boot.chipId) :
    takeFrame k d p f = decided (tokenIn d p) (linkLog p) (frameTok f p) .noRoute :=
  (if_pos token).trans (if_pos elsewhere)

theorem takeFrame_thisChip (here : hChip (fHdr f) = k.boot.chipId) :
    takeFrame k d p f =
      { tokenIn d p with tk := { (tokenIn d p).tk with flight := (tokenIn d p).tk.flight ++ [frameTok f p] } } :=
  (if_pos token).trans (if_neg (not_not.mpr here))

end Token

section Acknowledgement
variable (ack : fKind f ≠ 1)
include ack

theorem takeFrame_ack {a : Sender} {st : Status} (sender : ackSender (ackIn d p) (fHdr f) (fSrc f) (fOpslot f) = some a)
    (status : Status.ofCode (fStatus f) = some st) :
    takeFrame k d p f = pushAck (ackIn d p) { frameTok f p with sender := a } st := by
  rw [ackIn] at sender
  simp only [takeFrame, if_neg ack, sender, status]
  rfl

theorem takeFrame_stray (stray : ackSender (ackIn d p) (fHdr f) (fSrc f) (fOpslot f) = none ∨ Status.ofCode (fStatus f) = none) :
    takeFrame k d p f = ackIn d p := by
  refine (if_neg ack).trans ?_
  split
  next a st sender status =>
    rcases stray with none | none
    · cases none.symm.trans sender
    · cases none.symm.trans status
  next => rfl

end Acknowledgement
end Taken

/-! ### LINK_CONFIRM_TIMEOUT and LINK_UP_CHANGE (R445) -/

theorem linkConfirmTimeout_unbuilt {k : Cfg} {p : Nat} (none : tget k.boot.links p = none) (d : Dyn) :
    linkConfirmTimeout p k d = d :=
  if_neg (by simp [none])

theorem linkConfirmTimeout_drops {k : Cfg} {p : Nat} (built : tget k.boot.links p ≠ none) (d : Dyn) :
    linkConfirmTimeout p k d =
      setLink d p { getLink d p with unconf := (getLink d p).unconf.filter (fun u => cyclesSince d u.2.2 < 4096) } :=
  if_pos (Option.isSome_iff_ne_none.mpr built)

theorem linkUpChange_built {k : Cfg} {p : Nat} (built : p < k.build.linkMax) (up : Bool) (d : Dyn) :
    linkUpChange p up k d = setLink d p { getLink d p with up := up } := if_pos built

theorem linkUpChange_unbuilt {k : Cfg} {p : Nat} (unbuilt : k.build.linkMax ≤ p) (up : Bool) (d : Dyn) :
    linkUpChange p up k d = d := if_neg (Nat.not_lt.mpr unbuilt)

/-! ### MEMORY_READ_RESPONSE (R338, R440 to R442) -/

/-- The read that is presented with this tag and has no data yet. -/
def presentedRead (d : Dyn) (port : Port) (tag : Nat) : Option RdJob :=
  d.bus.reads.find? (fun j => j.port = port && j.tag = tag && j.shown && j.data.isNone)

/-- The read `j` with what came back. -/
def returned (j : RdJob) (data : List Byte) (err : Bool) : RdJob := { j with data := some data, err := err }

/-- What came back stands with the read. -/
def withReturned (d : Dyn) (j : RdJob) (data : List Byte) (err : Bool) : Dyn :=
  { d with bus := { d.bus with reads := mapIf (fun x => x = j) (fun _ => returned j data err) d.bus.reads } }

section Responses
variable {k : Cfg} {d : Dyn} {port : Port} {tag : Nat} {data : List Byte}

theorem memoryReadResponse_none (none : presentedRead d port tag = none) (err : Bool) :
    memoryReadResponse port tag data err k d = d := by
  rw [presentedRead] at none
  rw [memoryReadResponse, none]

variable {j : RdJob} (presented : presentedRead d port tag = some j)
include presented

/-- A response that is neither of the wrong length nor behind a record goes to what the read was for. -/
theorem memoryReadResponse_some (err : Bool) : memoryReadResponse port tag data err k d =
    if ((!err && data.length ≠ j.len) || (err && summaryFull d)) = true then d
    else
      let e := withReturned d j data err
      readReturned k (if err = true then fault k (useFree e 1) (responseRec e j) else e) (returned j data err) := by
  rw [presentedRead] at presented
  rw [memoryReadResponse, presented]
  rfl

theorem memoryReadResponse_wrongLength (wrong : data.length ≠ j.len) : memoryReadResponse port tag data false k d = d :=
  (memoryReadResponse_some presented false).trans (if_pos (by simpa using wrong))

theorem memoryReadResponse_data (whole : data.length = j.len) :
    memoryReadResponse port tag data false k d = readReturned k (withReturned d j data false) (returned j data false) :=
  (memoryReadResponse_some presented false).trans (if_neg (by simpa using whole))

theorem memoryReadResponse_errorWaits (full : summaryFull d = true) : memoryReadResponse port tag data true k d = d :=
  (memoryReadResponse_some presented true).trans (if_pos (by simpa using full))

theorem memoryReadResponse_error (room : summaryFull d = false) :
    memoryReadResponse port tag data true k d =
      readReturned k (fault k (useFree (withReturned d j data true) 1) (responseRec (withReturned d j data true) j))
        (returned j data true) :=
  (memoryReadResponse_some presented true).trans (if_neg (by simpa using room))

end Responses

/-! ### Responses of the firmware's image in boot phase 4 (R399, R456, log 96) -/

/-- The read of the firmware's image with this tag. -/
def imageRead (d : Dyn) (port : Port) (tag : Nat) : Option RdJob :=
  d.bus.reads.find? (fun j => j.port = port && j.tag = tag && j.use = .fwImage)

/-- What has come back without an error is the image's header, and it gives a length beyond itself. -/
def ImageHead (image : List Byte) (err : Bool) : Prop :=
  err = false ∧ image.length = 64 ∧ imageLenOk image = true ∧ 64 < leAt image 8 4

theorem imageHead_iff (image : List Byte) (err : Bool) :
    (!err && image.length = 64 && imageLenOk image && 64 < leAt image 8 4) = true ↔ ImageHead image err := by
  simp [ImageHead, and_assoc]

section ImageResponses
variable {b : Block} {port : Port} {tag : Nat} {data : List Byte} {err : Bool}

theorem fwResponse_idle (idle : imageRead b.d port tag = none ∨ b.cfg.booting .p4 = false) : fwResponse port tag data err b = b := by
  unfold fwResponse
  split
  next => rfl
  next j read =>
    rcases idle with none | phase
    · cases none.symm.trans read
    · exact if_pos (by rw [phase]; rfl)

variable {j : RdJob} (read : imageRead b.d port tag = some j)
include read

theorem fwResponse_wrongLength (good : err = false) (wrong : data.length ≠ j.len) : fwResponse port tag data err b = b := by
  rw [imageRead] at read
  rw [fwResponse, read]
  exact if_pos (by simp [good, wrong])

variable (phase : b.cfg.booting .p4 = true) (whole : err = true ∨ data.length = j.len)
include phase whole

/-- A whole response in phase 4 asks for the rest of the image behind its header, or is as FW_IMAGE_READ. -/
theorem fwResponse_whole : fwResponse port tag data err b =
    let i := b.cfg.fwImage ++ data
    if (!err && i.length = 64 && imageLenOk i && 64 < leAt i 8 4) = true then
      { cfg := { b.cfg with fwImage := i },
        d := busReadOn .memory (dropRead b.d .fwImage) (b.cfg.boot.fwAddr.toNat + 64) (leAt i 8 4 - 64) .fwImage }
    else fwImageRead i err b := by
  rw [imageRead] at read
  rw [fwResponse, read]
  exact if_neg (by rcases whole with bad | length <;> simp [*])

theorem fwResponse_header (head : ImageHead (b.cfg.fwImage ++ data) err) : fwResponse port tag data err b =
    { cfg := { b.cfg with fwImage := b.cfg.fwImage ++ data },
      d := busReadOn .memory (dropRead b.d .fwImage) (b.cfg.boot.fwAddr.toNat + 64) (leAt (b.cfg.fwImage ++ data) 8 4 - 64) .fwImage } :=
  (fwResponse_whole read phase whole).trans (if_pos ((imageHead_iff _ _).mpr head))

theorem fwResponse_image (notHead : ¬ ImageHead (b.cfg.fwImage ++ data) err) :
    fwResponse port tag data err b = fwImageRead (b.cfg.fwImage ++ data) err b :=
  (fwResponse_whole read phase whole).trans (if_neg fun head => notHead ((imageHead_iff _ _).mp head))

end ImageResponses

/-! ### WRITE_ACK (R442, R456) -/

/-- The write that is out with this tag. -/
def writeOut (d : Dyn) (port : Port) (tag : Nat) : Option WrJob := d.bus.writes.find? (fun j => j.port = port && j.tag = tag)

section WriteAcks
variable {k : Cfg} {d : Dyn} {port : Port} {tag : Nat}

theorem writeAck_none (none : writeOut d port tag = none) (err : Bool) : writeAck port tag err k d = d := by
  rw [writeOut] at none
  rw [writeAck, none]

variable {j : WrJob} (isOut : writeOut d port tag = some j)
include isOut

theorem writeAck_ok : writeAck port tag false k d = writeAcked k d j false := by
  rw [writeOut] at isOut
  rw [writeAck, isOut]
  rfl

theorem writeAck_statRow {slot g : Nat} (row : j.use = .statRow slot g) : writeAck port tag true k d = writeAcked k d j true := by
  rw [writeOut] at isOut
  simp [writeAck, isOut, row]

theorem writeAck_error (other : ∀ slot g, j.use ≠ .statRow slot g) : writeAck port tag true k d = d := by
  rw [writeOut] at isOut
  rw [writeAck, isOut]
  refine (if_neg (by decide)).trans ?_
  split
  next slot g row => exact absurd row (other slot g)
  next => rfl

end WriteAcks

/-! ### The commands -/

section EndpointsServed
variable {s : State} (h : s.serving)
include h

theorem exec_linkFrame (p : Nat) (f : BitVec 576) : exec (.linkFrame p f) s = .next (s.served (linkFrame p f s.m.cfg s.fresh)) :=
  runSrv_open h _

theorem exec_linkRetransmitRequest (p : Nat) (seq : W32) :
    exec (.linkRetransmitRequest p seq) s = .next (s.served (linkRetransmitRequest p seq s.m.cfg s.fresh)) := runSrv_open h _

theorem exec_linkConfirmation (p : Nat) (a : W32) :
    exec (.linkConfirmation p a) s = .next (s.served (linkConfirmation p a s.m.cfg s.fresh)) := runSrv_open h _

theorem exec_linkConfirmSend (p : Nat) : exec (.linkConfirmSend p) s = .next (s.served (linkConfirmSend p s.m.cfg s.fresh)) :=
  runSrv_open h _

theorem exec_linkConfirmTimeout (p : Nat) :
    exec (.linkConfirmTimeout p) s = .next (s.served (linkConfirmTimeout p s.m.cfg s.fresh)) := runSrv_open h _

theorem exec_linkUpChange (p : Nat) (up : Bool) :
    exec (.linkUpChange p up) s = .next (s.served (linkUpChange p up s.m.cfg s.fresh)) := runSrv_open h _

theorem exec_memoryReadResponse (port : Port) (tag : Nat) (data : List Byte) (err : Bool) :
    exec (.memoryReadResponse port tag data err) s = .next (s.served (memoryReadResponse port tag data err s.m.cfg s.fresh)) := by
  show execMemoryReadResponse port tag data err s = _
  rw [execMemoryReadResponse, runBlock_eq, if_pos (show s.block.cfg.serving = true from h)]
  rfl

theorem exec_writeAck (port : Port) (tag : Nat) (err : Bool) :
    exec (.writeAck port tag err) s = .next (s.served (writeAck port tag err s.m.cfg s.fresh)) := runSrv_open h _

end EndpointsServed

/-- Before the block serves, a response is one of the firmware's image. -/
theorem exec_memoryReadResponse_boot {s : State} (boot : s.m.cfg.serving = false) (port : Port) (tag : Nat) (data : List Byte) (err : Bool) :
    exec (.memoryReadResponse port tag data err) s = .next { s with m := fwResponse port tag data err s.block } := by
  show execMemoryReadResponse port tag data err s = _
  rw [execMemoryReadResponse, runBlock_eq, if_neg (ne_true_of_eq_false (show s.block.cfg.serving = false from boot))]

/-! ### The obligation -/

/-- What the statement says of a retransmission, which a request makes and a frame of KIND 3. -/
theorem retransmit_settled {k : Cfg} {d : Dyn} {p : Nat} (up : linkOk k d p = true) (seq : W32) {after : Dyn → Prop}
    (answers : ∀ {e}, retransmit k d p seq = e → after e) :
    ((getLink (confirmTo d p seq) p).unconf = [] → after (confirmTo d p seq)) ∧
    (∀ u rest, (getLink (confirmTo d p seq) p).unconf = u :: rest →
      (u.2.1 < 3 → after (resend (confirmTo d p seq) p)) ∧
      (3 ≤ u.2.1 → summaryFull d = true → after d) ∧
      (3 ≤ u.2.1 → summaryFull d = false → after (resend (giveUp k (confirmTo d p seq) p u.1) p))) :=
  ⟨fun none => answers (retransmit_confirmed up none), fun _ _ first => ⟨fun few => answers (retransmit_resent up first few),
    fun failed full => answers (retransmit_waits up first failed full),
    fun failed room => answers (retransmit_givenUp up first failed room)⟩⟩

/-- Settles O55: a frame by the link, the port's record, its CHECK, its KIND and its SEQ, a retransmission by the first frame that is not
confirmed (log 32), a response by its read, its length and the room for a record, in phase 4 by the image (log 96), a write's by its use. -/
theorem linksAndMemoryPorts : Obligations.LinksAndMemoryPorts := by
  unfold Obligations.LinksAndMemoryPorts
  intro s k
  refine ⟨fun h p => ?_, fun port tag data h => ?_, fun port tag data err boot => ?_, fun port tag h => ?_⟩
  · intro x after resent
    have framed : ∀ {f d}, linkFrame p f k s.fresh = d → after (.linkFrame p f) d := fun frame => frame ▸ exec_linkFrame h p _
    have requested : ∀ {seq d}, linkRetransmitRequest p seq k s.fresh = d → after (.linkRetransmitRequest p seq) d :=
      fun request => request ▸ exec_linkRetransmitRequest h p _
    have confirmed : ∀ {a d}, linkConfirmation p a k s.fresh = d → after (.linkConfirmation p a) d :=
      fun confirmation => confirmation ▸ exec_linkConfirmation h p _
    have confirms : ∀ {d}, linkConfirmSend p k s.fresh = d → after (.linkConfirmSend p) d := fun send => send ▸ exec_linkConfirmSend h p
    refine ⟨fun down => ⟨fun f => framed (linkFrame_down down f), fun seq => requested (linkRetransmitRequest_down down seq),
        fun a => confirmed (linkConfirmation_down down a), confirms (linkConfirmSend_down down)⟩,
      fun up => ⟨fun f => ⟨fun waits => framed (linkFrame_recordWaits waits), fun go => ⟨fun bad => framed (linkFrame_badCheck up go bad),
          fun check => ⟨fun kind => ?_, fun kind => ⟨fun inSequence => framed (linkFrame_taken up go check kind inSequence),
            fun out discarding => framed (linkFrame_discarded up go check kind out discarding),
            fun out taking => framed (linkFrame_askedAgain up go check kind out taking)⟩,
          fun one two three => framed (linkFrame_confirms up go check ⟨one, two, three⟩)⟩⟩⟩,
        fun seq => retransmit_settled up seq requested, fun a => confirmed (linkConfirmation_up up a),
        fun ⟨owed, due⟩ => confirms (linkConfirmSend_due up owed due), fun notDue => confirms (linkConfirmSend_notDue notDue k)⟩,
      fun none => ?_, fun built => ?_, fun up => ⟨fun built => ?_, fun unbuilt => ?_⟩, fun d0 f => ⟨fun token => ⟨?_, ?_⟩, fun ack =>
        ⟨?_, ?_⟩⟩⟩
    · exact retransmit_settled up _ fun again => framed ((linkFrame_request up go check kind).trans again)
    · exact (exec_linkConfirmTimeout h p).trans (by rw [linkConfirmTimeout_unbuilt none])
    · exact (exec_linkConfirmTimeout h p).trans (by rw [linkConfirmTimeout_drops built])
    · exact (exec_linkUpChange h p up).trans (by rw [linkUpChange_built built])
    · exact (exec_linkUpChange h p up).trans (by rw [linkUpChange_unbuilt unbuilt])
    · exact fun elsewhere => takeFrame_otherChip token elsewhere
    · exact fun here => takeFrame_thisChip token here
    · exact fun a st sender status => takeFrame_ack ack sender status
    · exact fun stray => takeFrame_stray ack stray
  · have answers : ∀ {err d}, memoryReadResponse port tag data err k s.fresh = d →
        exec (.memoryReadResponse port tag data err) s = .next (s.served d) :=
      fun response => response ▸ exec_memoryReadResponse h port tag data _
    exact ⟨fun (none : presentedRead s.fresh port tag = none) =>
        ⟨answers (memoryReadResponse_none none false), answers (memoryReadResponse_none none true)⟩,
      fun j presented => ⟨fun wrong => answers (memoryReadResponse_wrongLength presented wrong),
        fun whole => answers (memoryReadResponse_data presented whole),
        fun full => answers (memoryReadResponse_errorWaits presented full),
        fun room => answers (memoryReadResponse_error presented room)⟩⟩
  · have answers : ∀ {b}, fwResponse port tag data err s.block = b →
        exec (.memoryReadResponse port tag data err) s = .next { s with m := b } :=
      fun response => response ▸ exec_memoryReadResponse_boot boot port tag data err
    exact ⟨fun idle => answers (fwResponse_idle (b := s.block) idle),
      fun j read phase => ⟨fun good wrong => answers (fwResponse_wrongLength (b := s.block) read good wrong),
        fun head whole => answers (fwResponse_header (b := s.block) read phase (.inr whole) head),
        fun whole notHead => answers (fwResponse_image (b := s.block) read phase whole notHead)⟩⟩
  · have answers : ∀ {err d}, writeAck port tag err k s.fresh = d → exec (.writeAck port tag err) s = .next (s.served d) :=
      fun ack => ack ▸ exec_writeAck h port tag _
    exact ⟨fun (none : writeOut s.fresh port tag = none) => ⟨answers (writeAck_none none false), answers (writeAck_none none true)⟩,
      fun j isOut => ⟨answers (writeAck_ok isOut), fun ⟨slot, g, row⟩ => answers (writeAck_statRow isOut row),
        fun other => answers (writeAck_error isOut other)⟩⟩

end Sys2Proof.Machine

/-! ## Routing to experts: tokens, gazetteer entries, tile blocks and staging slots (R223, R228 to R235, R238, R241, R243, R245, R341) -/

namespace Sys2Proof.Machine

/-! ### TOKEN_SCORE (R228 to R232, R238) -/

/-- The records that a token of scores `ss` gives its ROUTE (R229, R230). -/
def chosenRecords (r : Route) (t : Nat) (ss : List (Option W32)) : List (Nat × W64) :=
  let unmasked := ((upFrom 0 ss.length).zip ss).filterMap (fun e => e.2.map (fun s => (e.1, s)))
  let theta := match elemValue 2 (lTheta r.e) with
    | .num a _ => a
    | _ => 0
  tokenRecords (lRenorm r.e) t (selectExperts unmasked theta (lKmin r.e) (lKmax r.e))

/-- The half of the batch that a token belongs to (R232). -/
def Route.halfOf (r : Route) (t : Nat) : Nat := if t < half0 r.batch then 0 else 1

/-- What the records of token `t` make of ROUTE `r`: they stand in its tile lists, and the token is no longer complete (R232, R238). -/
def Route.recorded (r : Route) (t : Nat) (rest : List Nat) (recs : List (Nat × W64)) (x : Route) : Route :=
  { x with
    complete := rest, bufs := tdel x.bufs t, rowsOut := x.rowsOut + 1,
    lists := recs.foldl (fun l e => tput l (2 * e.1 + r.halfOf t) (tgetD l (2 * e.1 + r.halfOf t) [] ++ [e.2])) r.lists,
    counts := if lTally r.e then recs.foldl (fun c e => tput c e.1 (tgetD c e.1 0 + 1)) r.counts else r.counts,
    scored0 := x.scored0 + (1 - r.halfOf t), scored1 := x.scored1 + r.halfOf t }

/-- The selection row of a token: 16 records, those that are not there all ones (R231). -/
def selectionRow (recs : List (Nat × W64)) : List Byte :=
  let row := (recs.map (fun e => e.2.toNat)) ++ List.replicate (16 - recs.length) (2 ^ 64 - 1)
  row.flatMap (leBytes 8)

/-- A token is scored: its records enter, its row is written, the entries that miss are read, and tiles close (R229 to R232). -/
def tokenSelected (k : Cfg) (d : Dyn) (r : Route) (slot chan t : Nat) (rest : List Nat) (recs : List (Nat × W64)) : Dyn :=
  let d := modRoute d slot chan (r.recorded t rest recs)
  let d := busWrite k d ((r.outBase.toNat + 128 * t) % p64) (selectionRow recs) (.selRow slot chan)
  closeReady k (recs.foldl (fun d e => gazRead k d (lGbase r.e + e.1)) d) slot chan

/-- The token is the last one of a layer that tallies (R238). -/
def Route.TallyDue (r : Route) : Prop := r.scored0 + r.scored1 + 1 = r.batch ∧ lTally r.e = true

section TokenScores
variable {k : Cfg} {d : Dyn} {slot chan : Nat}

theorem tokenScore_noRoute (none : getRoute d slot chan = none) : tokenScore slot chan k d = d := by rw [tokenScore, none]

variable {r : Route} (route : getRoute d slot chan = some r)
include route

theorem tokenScore_noToken (empty : r.complete = []) : tokenScore slot chan k d = d := by simp [tokenScore, route, empty]

variable {t : Nat} {rest : List Nat} (complete : r.complete = t :: rest)
include complete

theorem tokenScore_badLogit (bad : scores d (lSoftmax r.e) (tvals (tgetD r.bufs t [])) = none) :
    tokenScore slot chan k d = routeFail k d slot chan .badDescriptor := by
  simp [tokenScore, route, complete, bad]

variable {ss : List (Option W32)} (scored : scores d (lSoftmax r.e) (tvals (tgetD r.bufs t [])) = some ss)
include scored

/-- A token with scores is recorded; the counts leave after the last one. -/
theorem tokenScore_scored : tokenScore slot chan k d =
    let d := tokenSelected k d r slot chan t rest (chosenRecords r t ss)
    if (r.scored0 + r.scored1 + 1 = r.batch && lTally r.e) = true then
      sendTally k (modRoute d slot chan (fun r => { r with tallyLeft := upFrom 0 ((lExperts r.e + 7) / 8) })) slot chan
    else d := by
  rw [tokenScore, route]
  simp only [complete, scored]
  rfl

theorem tokenScore_last (last : r.TallyDue) : tokenScore slot chan k d =
    sendTally k (modRoute (tokenSelected k d r slot chan t rest (chosenRecords r t ss)) slot chan
      (fun r => { r with tallyLeft := upFrom 0 ((lExperts r.e + 7) / 8) })) slot chan :=
  (tokenScore_scored route complete scored).trans (if_pos (by simpa [Route.TallyDue] using last))

theorem tokenScore_notLast (more : ¬ r.TallyDue) :
    tokenScore slot chan k d = tokenSelected k d r slot chan t rest (chosenRecords r t ss) :=
  (tokenScore_scored route complete scored).trans (if_neg (by simpa [Route.TallyDue] using more))

end TokenScores

/-! ### GAZETTEER_LOOKUP (R223, R235, R241) -/

section GazetteerReads
variable {k : Cfg} {d : Dyn} {idx : Nat}

theorem gazRead_waits (waits : gazReading d idx = true ∨ gazSetFull d idx = true) : gazRead k d idx = d :=
  if_pos (by rcases waits with reading | full <;> simp [*])

theorem gazRead_reads (missing : gazOf d idx = none) (idle : gazReading d idx = false) (room : gazSetFull d idx = false) :
    gazRead k d idx = busRead k d ((k.gazBase.toNat + 64 * (idx / 2)) % p64) 64 (.gazLine (idx / 2) true true) :=
  if_neg (by simp [missing, idle, room])

end GazetteerReads

/-- The ROUTEs with a tile list that needs the entry. -/
def routesNeeding (d : Dyn) (idx : Nat) : List Route := d.rt.routes.filter (fun r => r.needs idx)

section GazetteerLookups
variable {k : Cfg} {d : Dyn} {idx : Nat}

theorem gazetteerLookup_unneeded (none : routesNeeding d idx = []) : gazetteerLookup idx k d = d :=
  if_pos (List.isEmpty_iff.mpr none)

variable (needed : routesNeeding d idx ≠ [])
include needed

theorem gazetteerLookup_missing (missing : gazOf d idx = none) : gazetteerLookup idx k d = gazRead k d idx := by
  rw [gazetteerLookup, missing]
  exact if_neg (mt List.isEmpty_iff.mp needed)

variable {x : Gaz} (cached : gazOf d idx = some x)
include cached

theorem gazetteerLookup_invalid (invalid : gValid x.entry.toNat = false) :
    gazetteerLookup idx k d = (routesNeeding d idx).foldl (fun d r => routeFail k d r.slot r.chan .noRoute) d := by
  rw [gazetteerLookup, cached]
  exact (if_neg (mt List.isEmpty_iff.mp needed)).trans (if_pos (by simp [invalid]))

theorem gazetteerLookup_valid (valid : gValid x.entry.toNat = true) :
    gazetteerLookup idx k d = (routesNeeding d idx).foldl (fun d r =>
      closeReady k (modRoute d r.slot r.chan (fun r =>
        { r with looked := if r.looked.contains idx then r.looked else idx :: r.looked })) r.slot r.chan) d := by
  rw [gazetteerLookup, cached]
  exact (if_neg (mt List.isEmpty_iff.mp needed)).trans (if_neg (by simp [valid]))

end GazetteerLookups

/-! ### TILE_BLOCK_ACK (R233) -/

/-- The write of a tile's block that is out. -/
def blockOut (d : Dyn) (slot chan j : Nat) : Option WrJob := d.bus.writes.find? (fun w => w.use = .tile slot chan j)

section TileBlocks
variable {k : Cfg} {d : Dyn} {slot chan j : Nat}

theorem tileWritten_none (none : blockOut d slot chan j = none) : tileWritten slot chan j k d = d := by
  rw [blockOut] at none
  rw [tileWritten, none]

/-- The write that is out is the tile's own, so its acknowledgement is the tile's. -/
theorem tileWritten_acked {w : WrJob} (isOut : blockOut d slot chan j = some w) : tileWritten slot chan j k d =
    showReads (tileBlockAck slot chan j { d with bus := { d.bus with writes := dropFirst (fun x => x = w) d.bus.writes } }) := by
  have use : w.use = .tile slot chan j := by simpa using List.find?_some isOut
  rw [blockOut] at isOut
  rw [tileWritten, isOut]
  simp only [writeAcked, writeDone, use]

end TileBlocks

/-! ### STAGING_SLOT_TAKE (R243, R245, Table 12.12) -/

/-- An expert that a fetch may stage: it is COLD, and without a DMA engine the record of its failure can enter (log 109). -/
def Fetchable (k : Cfg) (d : Dyn) (idx : Nat) : Prop := gTier (gazEntry d idx) = 1 ∧ (hasDma k = true ∨ summaryFull d = false)

theorem fetchable_iff (k : Cfg) (d : Dyn) (idx : Nat) :
    (gTier (gazEntry d idx) ≠ 1 || (!hasDma k && summaryFull d)) = false ↔ Fetchable k d idx := by
  unfold Fetchable
  cases hasDma k <;> simp

/-- Slot `i` is the expert's, which is on its way to it; the slot's old owner is COLD again (R243). -/
def slotTaken (k : Cfg) (d : Dyn) (idx i : Nat) : Dyn :=
  let d := match tget d.rt.stages i with
    | none => d
    | some old => gazWrite k d old.idx (gSet old.entry.toNat 1 0)
  let e := gSet (gazEntry d idx) 2 ((k.stageBase.toNat + i * k.stageSlot.toNat) % p64)
  let d := gazWrite k (modGaz d idx (fun x => { x with use := x.use + 1 })) idx e
  { d with rt := { d.rt with
    stages := tput d.rt.stages i { idx := idx, entry := w256 e, last := d.rt.clock }, clock := d.rt.clock + 1 } }

section StagingSlots
variable {k : Cfg} {d : Dyn} {idx : Nat}

theorem stagingSlotTake_stays (stays : waitingOn d idx = [] ∨ stageChoice k d = none ∨ ¬ Fetchable k d idx) :
    stagingSlotTake idx k d = d := by
  unfold stagingSlotTake
  split
  next a c more i waiting choice =>
    have unfit : ¬ Fetchable k d idx := by simpa [waiting, choice] using stays
    exact if_pos (eq_true_of_ne_false fun fit => unfit ((fetchable_iff k d idx).mp fit))
  next => rfl

variable {a c i : Nat} {more : List (Nat × Nat)} (waiting : waitingOn d idx = (a, c) :: more) (choice : stageChoice k d = some i)
  (fit : Fetchable k d idx)
include waiting choice fit

/-- With a tile that waits, a slot and a COLD expert, the slot is taken; the fetch waits for issue or fails. -/
theorem stagingSlotTake_taken : stagingSlotTake idx k d =
    let d := slotTaken k d idx i
    if (!hasDma k) = true then fetchFail k d idx (rootUnit 5) 0 none (some a)
    else { d with rt := { d.rt with fetchWait := d.rt.fetchWait ++ [(a, c, idx)] } } := by
  rw [stagingSlotTake, waiting, choice]
  exact if_neg (ne_true_of_eq_false ((fetchable_iff k d idx).mpr fit))

theorem stagingSlotTake_fetches (dma : hasDma k = true) : stagingSlotTake idx k d =
    let d := slotTaken k d idx i
    { d with rt := { d.rt with fetchWait := d.rt.fetchWait ++ [(a, c, idx)] } } :=
  (stagingSlotTake_taken waiting choice fit).trans (if_neg (by simp [dma]))

theorem stagingSlotTake_fails (noDma : hasDma k = false) :
    stagingSlotTake idx k d = fetchFail k (slotTaken k d idx i) idx (rootUnit 5) 0 none (some a) :=
  (stagingSlotTake_taken waiting choice fit).trans (if_pos (by simp [noDma]))

end StagingSlots

/-! ### The commands -/

theorem exec_tokenScore {s : State} (h : s.part (rootUnit 5)) (slot chan : Nat) :
    exec (.tokenScore slot chan) s = .next (s.served (tokenScore slot chan s.m.cfg s.fresh)) := runPart_open h _

section RoutingServed
variable {s : State} (h : s.serving)
include h

theorem exec_gazetteerLookup_clean (base expert : Nat) {hits : List Hit} (clean : Clean hits) :
    exec (.gazetteerLookup base expert hits) s = .next (s.served (gazetteerLookup (base + expert) s.m.cfg s.fresh)) :=
  (runSrv_open h _).trans (by rw [withHits_clean clean])

theorem exec_tileBlockAck (slot chan j : Nat) :
    exec (.tileBlockAck slot chan j) s = .next (s.served (tileWritten slot chan j s.m.cfg s.fresh)) := runSrv_open h _

theorem exec_stagingSlotTake (idx : Nat) :
    exec (.stagingSlotTake idx) s = .next (s.served (stagingSlotTake idx s.m.cfg s.fresh)) := runSrv_open h _

end RoutingServed

/-! ### The obligation -/

/-- Settles O52: a score by the ROUTE, its first complete token and that token's logits, a lookup by who needs the entry and what the cache
has of it, an acknowledgement by the block write that is out (log 29), a staging slot by the tile, the slot and the expert (log 109). -/
theorem expertRouting : Obligations.ExpertRouting := by
  unfold Obligations.ExpertRouting
  intro s k
  refine ⟨fun slot chan => ?_, fun base expert hits h clean => ?_, fun slot chan j h => ?_, fun idx h => ?_⟩
  · intro scored
    refine ⟨fun h waits => runPart_held h waits _, fun h => ?_⟩
    have answers : ∀ {d}, tokenScore slot chan k s.fresh = d → scored d := fun score => score ▸ exec_tokenScore h slot chan
    exact ⟨fun none => answers (tokenScore_noRoute none), fun r route => ⟨fun empty => answers (tokenScore_noToken route empty),
      fun t rest complete => ⟨fun bad => answers (tokenScore_badLogit route complete bad),
        fun ss result => ⟨fun last => answers (tokenScore_last route complete result last),
          fun more => answers (tokenScore_notLast route complete result more)⟩⟩⟩⟩
  · intro idx looked needy
    have looks : ∀ {d}, gazetteerLookup idx k s.fresh = d → looked d :=
      fun lookup => lookup ▸ exec_gazetteerLookup_clean h base expert clean
    exact ⟨fun none => looks (gazetteerLookup_unneeded (d := s.fresh) none),
      fun needed missing => ⟨fun waits => looks ((gazetteerLookup_missing (d := s.fresh) needed missing).trans (gazRead_waits waits)),
        fun idle room => looks ((gazetteerLookup_missing (d := s.fresh) needed missing).trans (gazRead_reads missing idle room))⟩,
      fun x needed cached => ⟨fun invalid => looks (gazetteerLookup_invalid (d := s.fresh) needed cached invalid),
        fun valid => looks (gazetteerLookup_valid (d := s.fresh) needed cached valid)⟩⟩
  · intro acked job
    have acks : ∀ {d}, tileWritten slot chan j k s.fresh = d → acked d := fun ack => ack ▸ exec_tileBlockAck h slot chan j
    exact ⟨fun none => acks (tileWritten_none none), fun w isOut => acks (tileWritten_acked isOut)⟩
  · intro taken cold
    have takes : ∀ {d}, stagingSlotTake idx k s.fresh = d → taken d := fun take => take ▸ exec_stagingSlotTake h idx
    exact ⟨fun stays => takes (stagingSlotTake_stays stays),
      fun a c more i waiting choice fit => ⟨fun dma => takes (stagingSlotTake_fetches waiting choice fit dma),
        fun noDma => takes (stagingSlotTake_fails waiting choice fit noDma)⟩⟩

end Sys2Proof.Machine

/-! ## The configuration side under every command (R295, R317, R346, R378, R379, R405, R421, R429) -/

namespace Sys2Proof.Machine

/-! ### Commands that leave the configuration side alone -/

theorem runBlock_keeps_cfg {f : Block → Block} (keeps : ∀ b, (f b).cfg = b.cfg) {s t : State} (e : runBlock f s = .next t) :
    t.m.cfg = s.m.cfg := by
  rw [runBlock_eq] at e
  cases e
  exact keeps s.block

theorem runMgt_keeps_cfg {f : Block → Block} (keeps : ∀ b, (f b).cfg = b.cfg) {s t : State} (e : runMgt f s = .next t) :
    t.m.cfg = s.m.cfg := by
  refine runBlock_keeps_cfg (fun b => ?_) e
  split
  · exact keeps b
  · rfl

theorem tsBack_cfg (ts : W64) (b : Block) : (if b.cfg.mgtRuns then tidy (onD b (tsBack ts)) else b).cfg = b.cfg := by
  split
  · exact tidy_cfg _
  · rfl

/-- The gates of the data plane, of its duplicated parts and of the firmware pass on the configuration side as it is, and so do the
accesses that only read. -/
theorem exec_keeps_cfg {c : Instr} {s t : State} (kept : ¬ WritesConfig c) (e : exec c s = .next t) : t.m.cfg = s.m.cfg := by
  cases c with
  | nop | loadGraph | graphImageRead | unloadGraph | patchGraph | launch | recordEvent | recordEventApply | waitEvent
  | waitEventTimeout | signal | fence | writeTable | setMode | completionWriteAck | irqHoldExpiry | linkKeyApply | inspect
  | releaseWatchFire | sectionEndFire | expiryFire | admissionFire | startScan | descriptorFill | childLaunch | affinityWaitExpiry
  | takenReport | creditReturn | waitTimeout | conservationSweep | launchCompletionReturn | checkIntervalClose | intervalCompare
  | scrubRead | dupCompareMismatch | rebaseSweep | rebase | rebaseComplete | heartbeat | hang | read | idleTimeout | mark | rewind
  | release | send | tokenArrival | tokenAck | claim | unclaim | recv | recvTimeout | raise | take | takeTimeout | crAcquire
  | crCommit | crWait | crWaitTimeout | crDrain | gazetteerLookup | tileBlockAck | stagingSlotTake | statEnd | samplingTick
  | lossRecord | traceSpillWrite | replayDrain | counterBankFallow | muBankFallow | muBankWake | fallowAccess | linkFrame
  | linkRetransmitRequest | linkConfirmation | linkConfirmSend | linkConfirmTimeout | linkUpChange | writeAck => exact same_moves e
  | ringFetchRead | ringFetchReturn | completionEntry | dec | evt | decEvt | cancel | edgeWalk | readyEntryEnter | placement
  | packetNotice | completionReport | contributionApply | resultDelivery | logitChunk | tokenScore | statControlBlock | rowFinish
  | evalRequest | evalResult => exact samePart_moves e
  | serviceStart | serviceStop | openCtx | close | query | quiesce | undefinedMessage | ltReqPost | ltRetPop | hedgeWrite | fePost
  | serviceRequestTake | stepBoundary | batchTableAck | stepCompletion => exact sameFw_moves e
  | fsFree | monTx | monRxRead | trPost | monBadLine | monHelp | monId | monHealth | monFault | monHedge | monCtx | monLaunch
  | monCount | monParcel | monFallow | monTrace | monPcs => exact fw_moves e
  | mgtSigDataRead => exact runMgt_keeps_cfg mgtSigDataRead_cfg e
  | mgtSigAck => exact runMgt_keeps_cfg mgtSigAck_cfg e
  | mgtStatusRead health => exact runMgt_keeps_cfg (mgtStatusRead_cfg health) e
  | pwrGateAck gate => exact runMgt_keeps_cfg (f := fun b => onD b (pwrGateAck gate)) (fun _ => rfl) e
  | readOut store index res => exact runBlock_keeps_cfg (readOut_cfg store index res) e
  | uartRxChar ch => exact runBlock_keeps_cfg (uartRxChar_cfg ch) e
  | tsBack ts => exact runBlock_keeps_cfg (tsBack_cfg ts) e
  | _ => exact absurd trivial kept

/-! ### Commands that write it -/

theorem memoryReadResponse_moves (port : Port) (tag : Nat) (data : List Byte) (err : Bool) (b : Block) :
    Cfg.Moves b.cfg (if b.cfg.serving then tidy (onD b (memoryReadResponse port tag data err)) else fwResponse port tag data err b).cfg := by
  split
  · exact .of (tidy_cfg _)
  · exact fwResponse_moves port tag data err b

/-- A reset is the one way by which the configuration side does not move as `Cfg.Moves` says. -/
def IsReset : Instr → Prop
  | .por | .sysReset | .dntReset => True
  | _ => False

theorem exec_moves_cfg {c : Instr} {s t : State} (noReset : ¬ IsReset c) (writes : WritesConfig c) (e : exec c s = .next t) :
    Cfg.Moves s.m.cfg t.m.cfg := by
  cases c with
  | ringDoorbell | ringEnable | ringDisable | stopReq | ringResume | cplHeadWrite | ctxCancel | mboxDoorbell | chainPreset
  | stepWrite | linkKeyWrite | svcReqTail | svcResHead | surveyStart | replayHeadWrite | traceSpillHeadWrite | routeConfigWrite
  | mapBaseWrite => exact host_moves e
  | cplRingConfig c base | replayCfgWrite base => cases base <;> exact host_moves e
  | counterRead => exact hostRead_moves e
  | registerWrite at_ size v =>
    cases at_ with
    | host off => exact host_moves e
    | dcp a => exact fwBlock_moves (fun b => (dcpWriteReg_moves a size v b).tidy) e
  | registerRead at_ size rd =>
    cases at_ with
    | host off => exact hostRead_moves e
    | dcp a => exact fwBlock_moves (fun b => (dcpRead_moves a size rd.hits b).tidy) e
  | setModeApply => exact srvBlock_moves (fun b _ => setMode_moves b) e
  | drainWaitExpiry => exact srvBlock_moves (fun b _ => drainWait_moves b) e
  | drained => exact srvBlock_moves (fun b _ => drained_moves b) e
  | dozeEntry => exact srvBlock_moves dozeEntry_moves e
  | drainOrder => exact srvFwBlock_moves (fun b _ => drainOrder_moves b) e
  | surveyEnd failed passed => exact srvFwBlock_moves (fun b _ => surveyEnd_moves failed passed b) e
  | monDrain => exact srvFwBlock_moves (fun b _ => monDrain_moves b) e
  | monSurveyQuick | monSurveyFull => exact srvFwBlock_moves (fun b _ => monSurvey_moves _ b) e
  | fsHealthWrite v => exact fwBlock_moves (fun b => (fsHealthWrite_moves v b).tidy) e
  | pwrReq => exact fwBlock_moves (fun b => (show Cfg.Held b.cfg _ from .same).moves) e
  | monBaud rate => exact fwBlock_moves (monBaud_moves rate) e
  | faultServe => exact fwBlock_moves (fun b => (faultServe_moves b).tidy) e
  | lockstepMismatch => exact fwBlock_moves (fun b => (haltDcp_moves (onD b _)).tidy) e
  | bootComplete ftv fwver => exact block_moves (fun b => (bootComplete_flags ftv fwver b).moves) e
  | mgtBootStart => exact block_moves bootStart_moves e
  | mgtBootData w => exact block_moves (bootData_moves w) e
  | bootBlockTimeout => exact block_moves bootTimeout_moves e
  | bootInitDone => exact block_moves bootInit_moves e
  | post ok unit => exact block_moves (post_moves ok unit) e
  | fwImageRead bytes err => exact block_moves (fwImageRead_moves bytes err) e
  | fwVerifyResult ok => exact block_moves (fwVerify_moves ok) e
  | fwStartTimeout => exact block_moves fwStart_moves e
  | resetRelease p sys dnt => exact block_moves (resetRelease_moves p sys dnt) e
  | freeze => exact block_moves freeze_moves e
  | freezeRelease => exact block_moves freezeRelease_moves e
  | wakeComplete => exact block_moves wakeComplete_moves e
  | uartTxChar => exact block_moves uartTx_moves e
  | chainAdvance i n => exact block_moves (fun b => (advance_moves i n b).tidy) e
  | memoryReadResponse port tag data err => exact block_moves (memoryReadResponse_moves port tag data err) e
  | mgtTimeWrite => exact mgt_moves (fun b => (show Cfg.Held b.cfg _ from .same).moves) e
  | mgtDrain => exact mgt_moves (fun b => orElseWake_moves none b mgtDrain mgtDrain_held) e
  | mgtQuickSurvey | mgtFullSurvey => exact mgt_moves (fun b => orElseWake_moves _ b _ (mgtSurvey_held _)) e
  | mgtWake | dozeWakeSource => exact awake_moves dozeWake_moves e
  | por | sysReset | dntReset => exact absurd trivial noReset
  | _ => exact absurd writes id

/-- A reset leaves the values of the reset state in every field that `Cfg.Legal` speaks of. -/
theorem exec_reset_legal {c : Instr} {s t : State} (reset : IsReset c) (e : exec c s = .next t) : t.m.cfg.Legal := by
  have fresh := legal_reset s.m.cfg.build
  obtain ⟨cblk, shfrac, hang, pcs, baud, replay, det, spill, doze⟩ := fresh
  cases c with
  | por | sysReset | dntReset => cases e; exact ⟨cblk, shfrac, hang, pcs, baud, replay, det, spill, doze⟩
  | _ => exact absurd reset id

theorem exec_keeps_legal {c : Instr} {s t : State} (legal : s.m.cfg.Legal) (e : exec c s = .next t) : t.m.cfg.Legal := by
  by_cases reset : IsReset c
  · exact exec_reset_legal reset e
  by_cases writes : WritesConfig c
  · exact (exec_moves_cfg reset writes e).1 legal
  · rwa [exec_keeps_cfg writes e]

/-! ### The obligation -/

/-- Settles O58: the step of an empty queue leaves the configuration side alone; any other is one command. -/
theorem configurationStaysLegal : Obligations.ConfigurationStaysLegal := by
  unfold Obligations.ConfigurationStaysLegal
  intro s t legal e
  unfold step at e
  split at e
  next => rwa [runBlock_keeps_cfg tick_cfg e]
  next c rest _ => exact exec_keeps_legal (s := { s with pending := rest }) legal e

end Sys2Proof.Machine

/-! ## The registers of a submission ring (R280 to R284, R300, R384, Table 0.2, Table 12.7) -/

namespace Sys2Proof.Machine

/-! ### Words written to CTX_RING_CFG -/

theorem bit_eq_testBit (x i : Nat) : bit x i = x.testBit i := by
  rw [bit, Nat.testBit_eq_decide_div_mod_eq, Nat.shiftRight_eq_div_pow]
  rfl

/-- RING_ENABLE writes its word with EN = 1. -/
theorem enableWord_fields (v : W32) :
    bit (v ||| w32 (2 ^ 31)).toNat 31 = true ∧ bit (v ||| w32 (2 ^ 31)).toNat 8 = bit v.toNat 8 ∧
      bits (v ||| w32 (2 ^ 31)).toNat 0 5 = bits v.toNat 0 5 := by
  simp only [bit_eq_testBit, bits, BitVec.toNat_or, Nat.testBit_or, Nat.shiftRight_zero, Nat.or_mod_two_pow]
  refine ⟨?_, ?_, ?_⟩
  · rw [show (w32 (2 ^ 31)).toNat.testBit 31 = true from rfl, Bool.or_true]
  · rw [show (w32 (2 ^ 31)).toNat.testBit 8 = false from rfl, Bool.or_false]
  · rw [show (w32 (2 ^ 31)).toNat % 2 ^ 5 = 0 from rfl, Nat.or_zero]

/-- RING_DISABLE writes its word with EN = 0. -/
theorem disableWord_fields (v : W32) :
    bit (v &&& w32 (2 ^ 31 - 1)).toNat 31 = false ∧ bit (v &&& w32 (2 ^ 31 - 1)).toNat 8 = bit v.toNat 8 ∧
      bits (v &&& w32 (2 ^ 31 - 1)).toNat 0 5 = bits v.toNat 0 5 := by
  simp only [bit_eq_testBit, bits, BitVec.toNat_and, Nat.testBit_and, Nat.shiftRight_zero, Nat.and_mod_two_pow]
  refine ⟨?_, ?_, ?_⟩
  · rw [show (w32 (2 ^ 31 - 1)).toNat.testBit 31 = false from rfl, Bool.and_false]
  · rw [show (w32 (2 ^ 31 - 1)).toNat.testBit 8 = true from rfl, Bool.and_true]
  · rw [show (w32 (2 ^ 31 - 1)).toNat % 2 ^ 5 = 2 ^ 5 - 1 from rfl, Nat.and_two_pow_sub_one_eq_mod, Nat.mod_mod]

/-! ### CTX_RING_CFG (R280, R281, R384) -/

/-- A size, base, generation and completion ring with which a ring may be enabled (R280). -/
def RingLegal (x : Ctx) (g : Ring) (w : W32) : Prop :=
  4 ≤ bits w.toNat 0 5 ∧ bits w.toNat 0 5 ≤ 16 ∧ g.base.toNat % 4096 = 0 ∧ (bit w.toNat 8 = true → x.rev ≠ 1) ∧ x.cplEn = true

/-- The model's test of an enable fails just where the enable is not legal. -/
theorem ringFault_iff (x : Ctx) (g : Ring) (w : W32) :
    ((BitVec.ofNat 5 (bits w.toNat 0 5)).toNat < 4 || 16 < (BitVec.ofNat 5 (bits w.toNat 0 5)).toNat || g.base.toNat % 4096 ≠ 0
      || (bit w.toNat 8 && x.rev = 1) || !x.cplEn) = true ↔ ¬ RingLegal x g w := by
  have size : (BitVec.ofNat 5 (bits w.toNat 0 5)).toNat = bits w.toNat 0 5 := Nat.mod_eq_of_lt (Nat.mod_lt _ (by decide))
  simp only [RingLegal, size, Bool.or_eq_true, Bool.and_eq_true, decide_eq_true_eq, Bool.not_eq_true', ← Bool.not_eq_true, not_and_or,
    Nat.not_le, Classical.not_imp, ne_eq, not_not, or_assoc]

section RingConfigs
variable {fc : W64} {x : Ctx} {g : Ring} {w : W32}

section Enabled
variable (inUse : g.en = true)
include inUse

theorem ringCfg_inUse (on : bit w.toNat 31 = true) : ringCfg fc x g w =
    if bit w.toNat 8 = g.gen ∧ (BitVec.ofNat 5 (bits w.toNat 0 5) : BitVec 5) = g.log2 then g else { g with cfgIgn := true } := by
  simp [ringCfg, inUse, on]

theorem ringCfg_disable (off : bit w.toNat 31 = false) : ringCfg fc x g w = ringSettle fc { g with en := false } := by
  simp [ringCfg, inUse, off]

end Enabled

section Disabled
variable (unused : g.en = false)
include unused

theorem ringCfg_settling (settling : g.st ≠ .disabled) : ringCfg fc x g w = { g with cfgIgn := true } := by
  simp [ringCfg, unused, settling]

variable (still : g.st = .disabled)
include still

theorem ringCfg_fields (off : bit w.toNat 31 = false) :
    ringCfg fc x g w = { g with gen := bit w.toNat 8, log2 := BitVec.ofNat 5 (bits w.toNat 0 5) } := by
  simp [ringCfg, unused, still, off]

section Enables
variable (on : bit w.toNat 31 = true)
include on

theorem ringCfg_legal (legal : RingLegal x g w) : ringCfg fc x g w = { g with
    gen := bit w.toNat 8, log2 := BitVec.ofNat 5 (bits w.toNat 0 5), en := true, head := 0, tail := 0, snap := 0, err := 0,
    fetch := none, st := if g.pendingDb then .active else .idle } := by
  simp only [ringCfg, unused, still, on, Bool.false_eq_true, if_false, Bool.not_true, ne_eq, not_true_eq_false]
  exact if_neg fun fault => (ringFault_iff x g w).mp fault legal

theorem ringCfg_illegal (illegal : ¬ RingLegal x g w) :
    ringCfg fc x g w = { g with gen := bit w.toNat 8, log2 := BitVec.ofNat 5 (bits w.toNat 0 5), err := 0x0B } := by
  simp only [ringCfg, unused, still, on, Bool.false_eq_true, if_false, Bool.not_true, ne_eq, not_true_eq_false]
  exact if_pos ((ringFault_iff x g w).mpr illegal)

end Enables
end Disabled
end RingConfigs

/-! ### CTX_RING_STAT: stop and resume (R282, R384, Table 0.2) -/

theorem ringState_stopped {k : Cfg} {g : Ring} (stopped : ringState k g = .stopped) : g.st = .stopped := by
  unfold ringState at stopped
  split at stopped
  · cases stopped
  · exact stopped

theorem ringStop_inUse {g : Ring} (inUse : g.en = true) (fc : W64) :
    ringStop fc g = if g.st = .stopped ∨ g.st = .disabled then g else ringSettle fc { g with stopReq := true } :=
  if_congr (by simp [inUse]) rfl rfl

section RingStats
variable {k : Cfg} {d : Dyn} {c r : Nat} (opened : (getCtx d c).isOpen = true)
include opened

section Stop

theorem stopReq_stopping (now : (getRing d c r).stopsNow d.fc = true) :
    stopReq c r k d = modRing d c r (fun _ => { getRing d c r with stopReq := true }) := by
  rw [getRing] at now
  simp [stopReq, ringStatWrite, opened, modRing, modCtx, getRing, bit, now]

theorem stopReq_still (quiet : (getRing d c r).stopsNow d.fc = false) (still : ringStill k (getRing d c r) = true) :
    stopReq c r k d = modRing d c r (fun _ => getRing d c r) := by
  rw [getRing] at quiet still
  simp [stopReq, ringStatWrite, opened, modRing, modCtx, getRing, bit, quiet, still]

theorem stopReq_taken (quiet : (getRing d c r).stopsNow d.fc = false) (runs : ringStill k (getRing d c r) = false) :
    stopReq c r k d = modRing d c r (fun _ => ringStop d.fc (getRing d c r)) := by
  rw [getRing] at quiet runs
  simp [stopReq, ringStatWrite, opened, modRing, modCtx, getRing, bit, quiet, runs]

end Stop

theorem ringResume_ignored (no : (getRing d c r).stopsNow d.fc = true ∨ ringState k (getRing d c r) ≠ .stopped) :
    ringResume c r k d = modRing d c r (fun _ => getRing d c r) := by
  rw [getRing] at no
  rcases no with now | runs
  · simp [ringResume, ringStatWrite, opened, modRing, modCtx, getRing, bit, now]
  · simp [ringResume, ringStatWrite, opened, modRing, modCtx, getRing, bit, runs]

theorem ringResume_resumes (quiet : (getRing d c r).stopsNow d.fc = false) (stopped : ringState k (getRing d c r) = .stopped) :
    ringResume c r k d = modRing d c r (fun _ => ringSettle d.fc { getRing d c r with
      st := .active, err := 0, snap := (getRing d c r).head }) := by
  have st := ringState_stopped stopped
  rw [getRing] at quiet stopped st
  simp [ringResume, ringStatWrite, opened, modRing, modCtx, getRing, bit, quiet, stopped, ringGo, st]

/-! ### The doorbell (R283) -/

section Doorbell
variable (ring : r < 6)
include ring

theorem ringDoorbell_rings {v : W32}
    (fits : (getRing d c r).en = false ∨ dist32 (getRing d c r).head v ≤ 2 ^ (getRing d c r).log2.toNat) :
    ringDoorbell c r v k d = modRing d c r (fun _ => { getRing d c r with
      tail := v, pendingDb := true, st := if (getRing d c r).st = .idle then .active else (getRing d c r).st }) := by
  have known : (!(getCtx d c).isOpen || decide (ringCount ≤ r)) = false := by simp [opened, ringCount, Nat.not_le.mpr ring]
  have legal : ((getRing d c r).en && decide (2 ^ (getRing d c r).log2.toNat < dist32 (getRing d c r).head v)) = false := by
    rw [Bool.and_eq_false_iff, decide_eq_false_iff_not, Nat.not_lt]
    exact fits
  simp only [ringDoorbell, known, legal]
  rfl

theorem ringDoorbell_error {v : W32} (inUse : (getRing d c r).en = true)
    (past : 2 ^ (getRing d c r).log2.toNat < dist32 (getRing d c r).head v) :
    ringDoorbell c r v k d = useFree (ringError k d c r (v.setWidth 64) (headDseq d (getRing d c r))) 1 := by
  have known : (!(getCtx d c).isOpen || decide (ringCount ≤ r)) = false := by simp [opened, ringCount, Nat.not_le.mpr ring]
  simp [ringDoorbell, known, inUse, past]

theorem ringCfgWrite_opened (w : W32) :
    ringCfgWrite c r w k d = modRing d c r (fun _ => ringCfg d.fc (getCtx d c) (getRing d c r) w) :=
  if_pos (by simp [opened, ringCount, ring])

end Doorbell
end RingStats

/-! ### The commands -/

section RingCommands
variable {s : State} (hs : s.hostOpen) {c r : Nat} (hc : c < 64) (hr : r < 6) (opened : (getCtx s.m.d c).isOpen = true)
include hs hc hr opened

/-- A 32-bit host write of a ring's CFG, TAIL or STAT. -/
theorem hostWrite_ring {o : Nat} (ho : o = 0x08 ∨ o = 0x14 ∨ o = 0x18) (v : W64) :
    hostWrite (ringOff c r o) 4 v s = .next (s.served (writeRing32 c r o (v.toNat % p32) s.m.cfg s.fresh)) := by
  rw [hostWrite_open hs (aligned_ring hc hr ho) (waitsReplay_32 _ _ _), applyWrite_ring hc hr ho, servedBlock_onD,
    write_ring hr ho _ _ _ (by exact opened)]

theorem exec_ringDoorbell (v : W32) : exec (.ringDoorbell c r v) s = .next (s.served (ringDoorbell c r v s.m.cfg s.fresh)) := by
  refine (hostWrite_ring hs hc hr opened (o := 0x14) (by decide) (v.setWidth 64)).trans ?_
  rw [writeRing32, w32_ofHost]

theorem exec_ringEnable (v : W32) : exec (.ringEnable c r v) s = .next (s.served (ringEnable c r v s.m.cfg s.fresh)) := by
  refine (hostWrite_ring hs hc hr opened (o := 0x08) (by decide) ((v ||| w32 (2 ^ 31)).setWidth 64)).trans ?_
  rw [writeRing32, w32_ofHost]
  rfl

theorem exec_ringDisable (v : W32) : exec (.ringDisable c r v) s = .next (s.served (ringDisable c r v s.m.cfg s.fresh)) := by
  refine (hostWrite_ring hs hc hr opened (o := 0x08) (by decide) ((v &&& w32 (2 ^ 31 - 1)).setWidth 64)).trans ?_
  rw [writeRing32, w32_ofHost]
  rfl

theorem exec_stopReq : exec (.stopReq c r) s = .next (s.served (stopReq c r s.m.cfg s.fresh)) :=
  hostWrite_ring hs hc hr opened (o := 0x18) (by decide) 0x10

theorem exec_ringResume : exec (.ringResume c r) s = .next (s.served (ringResume c r s.m.cfg s.fresh)) :=
  hostWrite_ring hs hc hr opened (o := 0x18) (by decide) 0x20

/-- An enable and a disable are each one write of CTX_RING_CFG. -/
theorem exec_ringEnable_cfg (v : W32) : exec (.ringEnable c r v) s = .next (s.served (modRing s.fresh c r (fun _ =>
    ringCfg s.m.d.fc (getCtx s.m.d c) (getRing s.m.d c r) (v ||| w32 (2 ^ 31))))) :=
  (exec_ringEnable hs hc hr opened v).trans (by rw [ringEnable, ringCfgWrite_opened (d := s.fresh) opened hr]; rfl)

theorem exec_ringDisable_cfg (v : W32) : exec (.ringDisable c r v) s = .next (s.served (modRing s.fresh c r (fun _ =>
    ringCfg s.m.d.fc (getCtx s.m.d c) (getRing s.m.d c r) (v &&& w32 (2 ^ 31 - 1))))) :=
  (exec_ringDisable hs hc hr opened v).trans (by rw [ringDisable, ringCfgWrite_opened (d := s.fresh) opened hr]; rfl)

end RingCommands

/-! ### The obligation -/

/-- Settles O14: the doorbell by whether it fits the ring, CTX_RING_CFG by whether the ring is in use, settling or disabled, CTX_RING_STAT by
what the ring reads (a disabled ring's TAIL unchecked is log 35, HELD outside SERVICE log 69, the free fields of a RING_ERROR log 33). -/
theorem ringRegistersWritten : Obligations.RingRegistersWritten := by
  unfold Obligations.RingRegistersWritten
  intro s c r v hs hc hr opened k fc g gen log2 legal becomes
  obtain ⟨enOn, enGen, enLog2⟩ := enableWord_fields v
  obtain ⟨disOff, disGen, disLog2⟩ := disableWord_fields v
  have rung : ∀ {d : Dyn}, ringDoorbell c r v k s.fresh = d → exec (.ringDoorbell c r v) s = .next (s.served d) :=
    fun ring => ring ▸ exec_ringDoorbell hs hc hr opened v
  have enabled : ∀ {g' : Ring}, ringCfg fc (getCtx s.m.d c) g (v ||| w32 (2 ^ 31)) = g' → becomes (.ringEnable c r v) g' :=
    fun write => write ▸ exec_ringEnable_cfg hs hc hr opened v
  have disabled : ∀ {g' : Ring}, ringCfg fc (getCtx s.m.d c) g (v &&& w32 (2 ^ 31 - 1)) = g' → becomes (.ringDisable c r v) g' :=
    fun write => write ▸ exec_ringDisable_cfg hs hc hr opened v
  have stopped : ∀ {g' : Ring}, stopReq c r k s.fresh = modRing s.fresh c r (fun _ => g') → becomes (.stopReq c r) g' :=
    fun stop => (exec_stopReq hs hc hr opened).trans (by rw [stop])
  have resumed : ∀ {g' : Ring}, ringResume c r k s.fresh = modRing s.fresh c r (fun _ => g') → becomes (.ringResume c r) g' :=
    fun resume => (exec_ringResume hs hc hr opened).trans (by rw [resume])
  have legal_iff : RingLegal (getCtx s.m.d c) g (v ||| w32 (2 ^ 31)) ↔ legal := by rw [RingLegal, enGen, enLog2]
  refine ⟨fun fits => rung (ringDoorbell_rings (d := s.fresh) opened hr fits),
    fun inUse past => rung (ringDoorbell_error (d := s.fresh) opened hr inUse past),
    fun unused still => ⟨fun ok => enabled ?_, fun bad => enabled ?_, disabled ?_⟩,
    fun unused settling => ⟨enabled (ringCfg_settling unused settling), disabled (ringCfg_settling unused settling)⟩,
    fun inUse => ⟨enabled ?_, disabled (ringCfg_disable inUse disOff)⟩,
    fun quiet runs inUse => stopped ?_,
    fun quiet still => stopped (stopReq_still (d := s.fresh) opened quiet still),
    fun now => ⟨stopped (stopReq_stopping (d := s.fresh) opened now), resumed (ringResume_ignored (d := s.fresh) opened (.inl now))⟩,
    fun quiet stops => resumed (ringResume_resumes (d := s.fresh) opened quiet stops),
    fun runs => resumed (ringResume_ignored (d := s.fresh) opened (.inr runs))⟩
  · rw [ringCfg_legal unused still enOn (legal_iff.mpr ok), enGen, enLog2]
  · rw [ringCfg_illegal unused still enOn (mt legal_iff.mp bad), enGen, enLog2]
  · rw [ringCfg_fields unused still disOff, disGen, disLog2]
  · rw [ringCfg_inUse inUse enOn, enGen, enLog2]
  · rw [stopReq_taken (d := s.fresh) opened quiet runs]
    rw [ringStop_inUse (g := getRing s.fresh c r) inUse]
    rfl

end Sys2Proof.Machine

/-! ## The registers of a context's page (R280, R296, R303, R383, R385) -/

namespace Sys2Proof.Machine

/-! ### A replay record leaves the front end and the launch table alone -/

section Recorded
variable (d : Dyn) (type : Nat) (glob : Bool) (ctx sub data : Nat) (body : List W256) (img : Option CmdId)

theorem rpPut_fe : (rpPut d type glob ctx sub data body img).fe = d.fe := by
  obtain ⟨p, recorded⟩ := rpPut_frame d type glob ctx sub data body img
  rw [recorded]

theorem rpPut_lt : (rpPut d type glob ctx sub data body img).lt = d.lt := by
  obtain ⟨p, recorded⟩ := rpPut_frame d type glob ctx sub data body img
  rw [recorded]

end Recorded

/-! ### CTX_CPL_BASE and CTX_CPL_CFG (R280, R385) -/

/-- A size and base with which a completion ring may be enabled (R280). -/
def CplLegal (x : Ctx) (v : W64) : Prop :=
  bit v.toNat 31 = true ∧ 4 ≤ bits v.toNat 0 5 ∧ bits v.toNat 0 5 ≤ 16 ∧ x.cplBase.toNat % 4096 = 0

theorem cplTest_iff (x : Ctx) (v : W64) :
    (bit v.toNat 31 && 4 ≤ bits v.toNat 0 5 && bits v.toNat 0 5 ≤ 16 && x.cplBase.toNat % 4096 = 0) = true ↔ CplLegal x v := by
  simp only [CplLegal, Bool.and_eq_true, decide_eq_true_eq, and_assoc]

section CplRings
variable {k : Cfg} {d : Dyn} {c : Nat}

theorem cplRingConfig_closed (closed : (getCtx d c).isOpen = false) (base : Bool) (v : W64) : cplRingConfig c base v k d = d := by
  simp [cplRingConfig, closed]

section Opened
variable (opened : (getCtx d c).isOpen = true)
include opened

section Unused
variable (unused : (getCtx d c).cplEn = false)
include unused

theorem cplRingConfig_base (v : W64) : cplRingConfig c true v k d = setCtx d c { getCtx d c with cplBase := v } := by
  simp [cplRingConfig, opened, unused]

theorem cplRingConfig_legal {v : W64} (legal : CplLegal (getCtx d c) v) :
    cplRingConfig c false v k d = flushPosts k (setCtx (forgetIdx d c) c { getCtx d c with
      cplLog2 := BitVec.ofNat 5 (bits v.toNat 0 5), cplEn := true, cplHead := 0, cplTail := 0, cplNext := 0 }) c := by
  simp only [cplRingConfig, opened, unused, Bool.not_true, Bool.false_eq_true, if_false]
  exact if_pos ((cplTest_iff _ v).mpr legal)

theorem cplRingConfig_illegal {v : W64} (illegal : ¬ CplLegal (getCtx d c) v) :
    cplRingConfig c false v k d = setCtx d c { getCtx d c with cplLog2 := BitVec.ofNat 5 (bits v.toNat 0 5) } := by
  simp only [cplRingConfig, opened, unused, Bool.not_true, Bool.false_eq_true, if_false]
  exact if_neg fun test => illegal ((cplTest_iff _ v).mp test)

end Unused

section InUse
variable (inUse : (getCtx d c).cplEn = true)
include inUse

theorem cplRingConfig_base_ignored (v : W64) : cplRingConfig c true v k d = setCtx d c { getCtx d c with cplIgn := true } := by
  simp [cplRingConfig, opened, inUse]

theorem cplRingConfig_disable {v : W64} (off : bit v.toNat 31 = false) (noRing : ∀ r ∈ (getCtx d c).rings, r.2.en = false) :
    cplRingConfig c false v k d = setCtx d c { getCtx d c with cplEn := false } := by
  have none : (getCtx d c).rings.any (fun r => r.2.en) = false := List.any_eq_false.mpr fun r h => by rw [noRing r h]; decide
  simp [cplRingConfig, opened, inUse, off, none]

theorem cplRingConfig_ignored {v : W64} (held : bit v.toNat 31 = true ∨ ∃ r ∈ (getCtx d c).rings, r.2.en = true) :
    cplRingConfig c false v k d = setCtx d c { getCtx d c with cplIgn := true } := by
  have no : (!false && !bit v.toNat 31 && !(getCtx d c).rings.any (fun r => r.2.en)) = false := by
    rcases held with on | ring
    · rw [on]; rfl
    · rw [List.any_eq_true.mpr ring, Bool.not_true, Bool.and_false]
  simp only [cplRingConfig, opened, inUse, no, Bool.not_true, Bool.false_eq_true, if_false, if_true]

end InUse
end Opened

/-! ### CTX_CPL_HEAD (R385) -/

theorem cplHeadWrite_closed (closed : (getCtx d c).isOpen = false) (v : W32) : cplHeadWrite c v k d = d := by
  simp [cplHeadWrite, closed]

section Heads
variable (opened : (getCtx d c).isOpen = true) {v : W32}
include opened

theorem cplHeadWrite_moves
    (within : dist32 (getCtx d c).cplHead v ≤ dist32 (getCtx d c).cplHead (getCtx d c).cplTail) :
    cplHeadWrite c v k d = flushPosts k (setCtx d c { getCtx d c with cplHead := v }) c := by
  simp [cplHeadWrite, opened, Nat.not_lt.mpr within]

theorem cplHeadWrite_ignored
    (beyond : dist32 (getCtx d c).cplHead (getCtx d c).cplTail < dist32 (getCtx d c).cplHead v) :
    cplHeadWrite c v k d = setCtx d c { getCtx d c with cplIgn := true } := by
  simp [cplHeadWrite, opened, beyond]

end Heads

/-! ### CTX_CANCEL (R16, R296, log 36) -/

theorem ctxCancel_closed (closed : (getCtx d c).isOpen = false) (v : W64) : ctxCancel c v k d = d := by
  simp [ctxCancel, closed]

theorem ctxCancel_posted (opened : (getCtx d c).isOpen = true) (room : rpRoom d 1 false = true) (v : W64) :
    ctxCancel c v k d =
      let e := rpPut d 0x06 false c (bits v.toNat 32 3) v.toNat [] none
      { e with fe := { e.fe with
        cancels := d.fe.cancels ++ [cancelReq c (bit v.toNat 35) (bits v.toNat 32 3) (w32 v.toNat)] } } := by
  simp [ctxCancel, opened, room, rpPut_fe]

/-! ### The mailbox doorbell (R303) -/

theorem mboxDoorbell_idle (idle : (getCtx d c).mboxBusy = false) :
    mboxDoorbell c k d = setCtx d c { getCtx d c with mboxBusy := true, mboxTaken := false } := by
  simp [mboxDoorbell, modCtx, idle]

theorem mboxDoorbell_busy (busy : (getCtx d c).mboxBusy = true) :
    mboxDoorbell c k d = setCtx d c { getCtx d c with mboxBusyErr := true } := by
  rw [mboxDoorbell, modCtx, if_pos busy]

end CplRings

/-! ### A cancellation that finds no other request (R18, R296, log 36) -/

section Cancellations
variable (c : Nat) (all : Bool) {r : Nat} (dseq : W32)

/-- The operands of a cancellation's request are its DSEQ, its ring and ALL. -/
theorem cancelReq_operands (ring : r < 8) :
    w32 (opn (cancelReq c all r dseq).ops 16 4) = dseq ∧ opn (cancelReq c all r dseq).ops 20 1 = r ∧
      opn (cancelReq c all r dseq).ops 21 1 = b2n all := by
  have word : (cancelReq c all r dseq).ops.toNat = dseq.toNat + r * 2 ^ 32 + b2n all * 2 ^ 40 := by
    have flag : b2n all ≤ 1 := by cases all <;> decide
    have := dseq.isLt
    simp only [cancelReq, BitVec.toNat_ofNat]
    omega
  have flag : b2n all ≤ 1 := by cases all <;> decide
  have seq := dseq.isLt
  simp only [opn, bits, word, Nat.shiftRight_eq_div_pow]
  refine ⟨BitVec.eq_of_toNat_eq ?_, ?_, ?_⟩
  · simp only [w32, BitVec.toNat_ofNat]
    omega
  · omega
  · omega

theorem takeCancel_eq (d : Dyn) (ring : r < 8) :
    takeCancel d (cancelReq c all r dseq) = cancel296 (dropReq d (cancelReq c all r dseq)) c all r dseq := by
  obtain ⟨seq, ringNo, allBit⟩ := cancelReq_operands c all dseq ring
  have flag : decide (b2n all % 2 = 1) = all := by cases all <;> rfl
  rw [takeCancel, seq, ringNo, allBit, flag]
  rfl

/-- Alone in the table, a cancellation is the next request: it names no graph that it could wait for. -/
theorem nextCancel_alone {d : Dyn} {q : Req} (alone : d.lt.reqs = [q]) (op : q.op = cCancel) : nextCancel d = some q := by
  have noGraph : reqWaits d q = false := by simp [reqWaits, Req.graph, namesGraph, op, cCancel, cLoad, cUnload, cPatch, cLaunch, cSvcStart]
  have front : frontOp d q.id.c cCancel = some q := by simp [frontOp, frontReq, frontGo, alone, noGraph, op]
  simp [nextCancel, alone, front, op]

theorem nextCancel_none {d : Dyn} (empty : d.lt.reqs = []) : nextCancel d = none := by simp [nextCancel, empty]

theorem emptied_cancels {d : Dyn} (cancels : d.fe.cancels = []) : { d with fe := { d.fe with cancels := [] } } = d := by rw [← cancels]

theorem emptied_reqs {d : Dyn} (reqs : d.lt.reqs = []) : { d with lt := { d.lt with reqs := [] } } = d := by rw [← reqs]

/-- With no request in the table a posted cancellation is taken at once, and leaves nothing behind it. -/
theorem settleCancels_alone {d : Dyn} (reqs : d.lt.reqs = []) (cancels : d.fe.cancels = []) (ring : r < 8) :
    settleCancels { d with fe := { d.fe with cancels := [cancelReq c all r dseq] } } = cancel296 d c all r dseq := by
  generalize posted : ({ d with fe := { d.fe with cancels := [cancelReq c all r dseq] } } : Dyn) = e
  have room : reqRoom e = true := by subst posted; simp [reqRoom, reqsPosted, reqs, reqCap]
  have table : e.lt.reqs = [] := by subst posted; exact reqs
  have waits : e.fe.cancels = [cancelReq c all r dseq] := by subst posted; rfl
  have enters : postReq { e with fe := { e.fe with cancels := [] } } (cancelReq c all r dseq) =
      { d with lt := { d.lt with reqs := [cancelReq c all r dseq] } } := by
    subst posted
    show postReq { d with fe := { d.fe with cancels := [] } } (cancelReq c all r dseq) = _
    rw [emptied_cancels cancels, postReq, reqs]
    rfl
  have leaves : dropReq { d with lt := { d.lt with reqs := [cancelReq c all r dseq] } } (cancelReq c all r dseq) = d := by
    simp only [dropReq, dropFirst, decide_true, if_true, emptied_reqs reqs]
  calc settleCancels e = serveCancels 2 e := by rw [settleCancels, table, waits]; rfl
    _ = serveCancels 1 { d with lt := { d.lt with reqs := [cancelReq c all r dseq] } } := by
      rw [serveCancels, nextCancel_none table, waits]
      exact (if_pos room).trans (congrArg _ enters)
    _ = takeCancel { d with lt := { d.lt with reqs := [cancelReq c all r dseq] } } (cancelReq c all r dseq) := by
      rw [serveCancels, nextCancel_alone rfl rfl]
      rfl
    _ = cancel296 d c all r dseq := by rw [takeCancel_eq c all dseq _ ring, leaves]

end Cancellations

/-! ### The commands -/

section ContextCommands
variable {s : State} (hs : s.hostOpen) {c : Nat} (hc : c < 64)
include hs hc

/-- A 32-bit host write of a context's CPL_CFG, CPL_HEAD or mailbox doorbell. -/
theorem hostWrite_ctx {o : Nat} (ho : o = 0x18 ∨ o = 0x20 ∨ o = 0x40) (v : W64) :
    hostWrite (ctxOff c o) 4 v s = .next (s.served (writeCtx32 c o (v.toNat % p32) s.m.cfg s.fresh)) := by
  rw [hostWrite_open hs (aligned_ctx hc ho) (waitsReplay_32 _ _ _), applyWrite_ctx hc ho, servedBlock_onD]

theorem exec_cplRingConfig_base (v : W64) :
    exec (.cplRingConfig c true v) s = .next (s.served (cplRingConfig c true v s.m.cfg s.fresh)) := by
  have page := (page_off hc (show 0x10 < 0x1000 by decide)).2.2
  have free : waitsReplay s.m.d (.write (ctxOff c 0x10) 8 v) = false := by simp [waitsReplay, ctxOff_eq hc, page]
  exact (hostWrite_open hs (aligned_ctx64 hc (.inl rfl)) free).trans (by rw [applyWrite_cplBase hc, servedBlock_onD])

theorem exec_cplRingConfig_cfg (v : W64) :
    exec (.cplRingConfig c false v) s = .next (s.served (cplRingConfig c false (w64 (v.toNat % p32)) s.m.cfg s.fresh)) := by
  refine (hostWrite_ctx hs hc (o := 0x18) (by decide) v).trans ?_
  cases opened : (getCtx s.fresh c).isOpen
  · rw [cplRingConfig_closed opened]
    simp [writeCtx32, opened]
  · simp [writeCtx32, opened]

theorem exec_cplHeadWrite (v : W32) : exec (.cplHeadWrite c v) s = .next (s.served (cplHeadWrite c v s.m.cfg s.fresh)) := by
  refine (hostWrite_ctx hs hc (o := 0x20) (by decide) (v.setWidth 64)).trans ?_
  cases opened : (getCtx s.fresh c).isOpen
  · rw [cplHeadWrite_closed opened]
    simp [writeCtx32, opened]
  · simp only [writeCtx32, opened, w32_ofHost]
    rfl

theorem exec_mboxDoorbell : exec (.mboxDoorbell c) s = .next (s.served (mboxDoorbell c s.m.cfg s.fresh)) :=
  hostWrite_ctx hs hc (o := 0x40) (by decide) 1

/-- A CTX_CANCEL that needs no replay record, or finds room for it. -/
theorem exec_ctxCancel {v : W64} (free : (getCtx s.m.d c).isOpen = false ∨ rpRoom s.m.d 1 false = true) :
    exec (.ctxCancel c v) s = .next (s.served (ctxCancel c v s.m.cfg s.fresh)) := by
  have page := (page_off hc (show 0x30 < 0x1000 by decide)).2.1
  have now : waitsReplay s.m.d (.write (ctxOff c 0x30) 8 v) = false := by
    rcases free with closed | room
    · simp [waitsReplay, ctxOff_eq hc, page, closed]
    · simp [waitsReplay, room]
  exact (hostWrite_open hs (aligned_ctx64 hc (.inr rfl)) now).trans (by rw [applyWrite_cancel hc, servedBlock_onD])

end ContextCommands

/-! ### The obligation -/

/-- Settles O15: each register by whether its context is open, CTX_CPL_CFG by whether its ring is in use, and a cancellation by the table
that it finds (it is a request taken as soon as its turn has come, log 36). -/
theorem contextRegistersWritten : Obligations.ContextRegistersWritten := by
  unfold Obligations.ContextRegistersWritten
  intro s c hs hc k x writes
  have based : ∀ {v : W64} {d : Dyn}, cplRingConfig c true v k s.fresh = d → writes (.cplRingConfig c true v) d :=
    fun config => config ▸ exec_cplRingConfig_base hs hc _
  have configured : ∀ {v : W64} {d : Dyn}, v.toNat < 2 ^ 32 → cplRingConfig c false v k s.fresh = d →
      writes (.cplRingConfig c false v) d := fun {v d} low config => (exec_cplRingConfig_cfg hs hc v).trans (by
    rw [← config, show v.toNat % p32 = v.toNat from Nat.mod_eq_of_lt low, w64, BitVec.ofNat_toNat, BitVec.setWidth_eq])
  have headed : ∀ {v : W32} {d : Dyn}, cplHeadWrite c v k s.fresh = d → writes (.cplHeadWrite c v) d :=
    fun head => head ▸ exec_cplHeadWrite hs hc _
  have rung : ∀ {d : Dyn}, mboxDoorbell c k s.fresh = d → writes (.mboxDoorbell c) d := fun ring => ring ▸ exec_mboxDoorbell hs hc
  refine ⟨fun opened unused => ⟨fun v => based (cplRingConfig_base (d := s.fresh) opened unused v),
      fun v low => ⟨fun legal => configured low (cplRingConfig_legal (d := s.fresh) opened unused legal),
        fun illegal => configured low (cplRingConfig_illegal (d := s.fresh) opened unused illegal)⟩⟩,
    fun opened inUse => ⟨fun v => based (cplRingConfig_base_ignored (d := s.fresh) opened inUse v),
      fun v low => ⟨fun ⟨off, noRing⟩ => configured low (cplRingConfig_disable (d := s.fresh) opened inUse off noRing),
        fun held => configured low (cplRingConfig_ignored (d := s.fresh) opened inUse held)⟩⟩,
    fun v opened => ⟨fun within => headed (cplHeadWrite_moves (d := s.fresh) opened within),
      fun beyond => headed (cplHeadWrite_ignored (d := s.fresh) opened beyond)⟩,
    fun v opened room => ⟨(exec_ctxCancel hs hc (.inr room)).trans ?_, fun reqs cancels => ?_⟩,
    fun closed base v => ?_, fun closed v w => ⟨headed (cplHeadWrite_closed (d := s.fresh) closed v), ?_⟩,
    fun idle => rung (mboxDoorbell_idle (d := s.fresh) idle), fun busy => rung (mboxDoorbell_busy (d := s.fresh) busy)⟩
  · rw [ctxCancel_posted (d := s.fresh) opened room]
    rfl
  · have taken := settleCancels_alone (d := rpPut s.fresh 0x06 false c (bits v.toNat 32 3) v.toNat [] none) c (bit v.toNat 35)
      (w32 v.toNat) (r := bits v.toNat 32 3) (by rw [rpPut_lt]; exact reqs) (by rw [rpPut_fe]; exact cancels) (Nat.mod_lt _ (by decide))
    simpa only [cancels, List.nil_append] using taken
  · cases base
    · exact (exec_cplRingConfig_cfg hs hc v).trans (by rw [cplRingConfig_closed (d := s.fresh) closed])
    · exact based (cplRingConfig_closed (d := s.fresh) closed _ v)
  · exact (exec_ctxCancel hs hc (.inl closed)).trans (by rw [ctxCancel_closed (d := s.fresh) closed])

end Sys2Proof.Machine

/-! ## NOP, FENCE, SET_MODE and SET_MODE_APPLY (R291, R295, R325) -/

namespace Sys2Proof.Machine

/-! ### A request taken -/

/-- Taking a request drops it from the table; of the rest only the front end changes. -/
theorem takeReq_frame (d : Dyn) (q : Req) : ∃ f, takeReq d q = { dropReq d q with fe := f } := by
  unfold takeReq
  dsimp only
  split
  · exact ⟨(dropReq d q).fe, rfl⟩
  · unfold unholdRing
    split
    · exact ⟨(setStage (dropReq d q) q.id .running).fe, rfl⟩
    · exact ⟨_, rfl⟩

/-! ### NOP, FENCE and SET_MODE as they are taken (R291, R295) -/

section Taken
variable {k : Cfg} {d : Dyn} {c : Nat} {q : Req}

theorem nop_taken (front : frontOp d c 0 = some q) : nop c k d = dropReq d q := by rw [nop, front]

theorem fence_taken (front : frontOp d c cFence = some q) :
    fence c k d = fenceCheck (holdRing (setStage (takeReq d q) q.id (.fence (opn q.ops 16 1 = 1))) q.id) := by
  rw [fence, front]

/-- A SET_MODE waits behind those that were taken before it. -/
theorem setMode_queued (front : frontOp d c cMode = some q) :
    (setMode c k d).ls.modes = d.ls.modes ++ [{ id := q.id, mode := w32 (opn q.ops 16 4), mask := w32 (opn q.ops 20 4) }] ∧
      (setMode c k d).lt.reqs = dropFirst (· = q) d.lt.reqs ∧ (setMode c k d).lt.rets = d.lt.rets := by
  obtain ⟨f, taken⟩ := takeReq_frame d q
  simp only [setMode, front, taken, holdRing]
  exact ⟨rfl, rfl, rfl⟩

end Taken

/-! ### SET_MODE_APPLY (R295, R312, R325, log 113) -/

section Applies
variable {b : Block} {m : ModeReq} {rest : List ModeReq} (oldest : b.d.ls.modes = m :: rest)
include oldest

theorem setModeApply_waits (busy : noLaunch b.d = false) : setModeApply b = b := by
  simp [setModeApply, oldest, busy]

variable (idle : noLaunch b.d = true)
  (room : (if lateStart b.cfg b.d m then rpFits b.d 1 false else rpRoom b.d 1 false) = true)
include idle room

theorem setModeApply_refused {st : Status} (refused : modeRefused b.cfg b.d m = some st) :
    setModeApply b =
      let k := b.cfg
      let d := { b.d with ls := { b.d.ls with modes := rest } }
      let d := if d.rp.recording && !k.det && bit (newMode k m) 0 then logStop d m.id st k.modeWord else d
      { b with d := finish d m.id cMode st k.modeWord } := by
  have same : modeRefused b.cfg { b.d with ls := { b.d.ls with modes := rest } } m = some st := refused
  simp only [setModeApply, oldest, idle, room, same, Bool.not_true, Bool.or_self, Bool.false_eq_true, if_false]

theorem setModeApply_applied (legal : modeRefused b.cfg b.d m = none) :
    setModeApply b =
      let k := b.cfg
      let n := newMode k m
      let d := { b.d with ls := { b.d.ls with modes := rest } }
      { cfg := { k with det := bit n 0, cblk := bits n 4 4, shfrac := bits n 8 3 },
        d := finish (traceState k (if lateStart k b.d m then logStart k d m.id.c m.id.r n
          else if d.rp.recording && k.det && !bit n 0 then logStop d m.id .ok n else d) 4 n k.modeWord) m.id cMode .ok n } := by
  have same : modeRefused b.cfg { b.d with ls := { b.d.ls with modes := rest } } m = none := legal
  simp only [setModeApply, oldest, idle, room, same, Bool.not_true, Bool.or_self, Bool.false_eq_true, if_false]

end Applies

/-- The record that a SET_MODE needs room for is one that starts a log, or one of a log under way. -/
theorem setModeApply_room {k : Cfg} {d : Dyn} {m : ModeReq} (late : lateStart k d m = true → rpFits d 1 false = true)
    (prompt : lateStart k d m = false → rpRoom d 1 false = true) :
    (if lateStart k d m then rpFits d 1 false else rpRoom d 1 false) = true := by
  split
  · exact late ‹_›
  · exact prompt (Bool.eq_false_iff.mpr ‹_›)

/-! ### The commands -/

section ModesServed
variable {s : State} (h : s.serving)
include h

theorem exec_nop (c : Nat) : exec (.nop c) s = .next (s.served (nop c s.m.cfg s.fresh)) := runSrv_open h _

theorem exec_fence (c : Nat) : exec (.fence c) s = .next (s.served (fence c s.m.cfg s.fresh)) := runSrv_open h _

theorem exec_setMode (c : Nat) : exec (.setMode c) s = .next (s.served (setMode c s.m.cfg s.fresh)) := runSrv_open h _

theorem exec_setModeApply : exec .setModeApply s = .next (s.servedBlock (setModeApply s.block)) := runSrvBlock_open h _

end ModesServed

/-! ### The obligation -/

/-- Settles O5: NOP, FENCE and SET_MODE as they are taken, and the oldest SET_MODE by what is in flight and by whether it is refused. -/
theorem modeAndFenceCommands : Obligations.ModeAndFenceCommands := by
  unfold Obligations.ModeAndFenceCommands
  refine ⟨fun s c q h => ⟨fun front => ?_, fun front => ?_, fun front => ?_⟩,
    fun s m rest h oldest => ⟨fun busy => ?_, fun idle late prompt => ⟨fun st refused => ?_, fun legal => ?_⟩⟩⟩
  · rw [exec_nop h, nop_taken front]
  · rw [exec_fence h, fence_taken front]
  · exact ⟨_, exec_setMode h c, setMode_queued front⟩
  · rw [exec_setModeApply h, setModeApply_waits (b := s.block) oldest busy, servedBlock_block]
  · rw [exec_setModeApply h, setModeApply_refused (b := s.block) oldest idle (setModeApply_room late prompt) refused]
    rfl
  · rw [exec_setModeApply h, setModeApply_applied (b := s.block) oldest idle (setModeApply_room late prompt) legal]
    rfl

end Sys2Proof.Machine

/-! ## WRITE_TABLE (R294, R314, Table 12.4) -/

namespace Sys2Proof.Machine

/-! ### The read of a source image -/

section SourceReads
variable {d : Dyn} {use : RdUse}

/-- A read whose data has returned is still at the port. -/
theorem reading_of_readDone {j : RdJob} (done : readDone d use = some j) : ∃ j ∈ d.bus.reads, j.use = use := by
  have found := List.find?_some done
  simp only [Bool.and_eq_true, decide_eq_true_eq] at found
  exact ⟨j, List.mem_of_find?_eq_some done, found.1⟩

theorem reads_any (reading : ∃ j ∈ d.bus.reads, j.use = use) : d.bus.reads.any (fun j => j.use = use) = true := by
  simpa using reading

theorem reads_none (unread : ∀ j ∈ d.bus.reads, j.use ≠ use) : d.bus.reads.any (fun j => j.use = use) = false := by
  simpa using unread

end SourceReads

/-! ### The command, step by step -/

/-- The table, its form and its range exist (Table 10.8, R294). -/
def TableKnown (q : Req) : Prop :=
  opn q.ops 16 1 ≤ 9 ∧ (opn q.ops 16 1 = 9 ∨ opn q.ops 17 1 = 0) ∧ tableRange (opn q.ops 16 1) (opn q.ops 18 2) (opn q.ops 20 4) = true

theorem tableFault_iff (q : Req) :
    (9 < opn q.ops 16 1 || (opn q.ops 16 1 ≠ 9 && opn q.ops 17 1 ≠ 0)
      || !tableRange (opn q.ops 16 1) (opn q.ops 18 2) (opn q.ops 20 4)) = true ↔ ¬ TableKnown q := by
  simp only [TableKnown, Bool.or_eq_true, Bool.and_eq_true, decide_eq_true_eq, Bool.not_eq_true', ← Bool.not_eq_true, not_and_or, not_or,
    Nat.not_le, or_assoc, ne_eq]

section Tables
variable {k : Cfg} {d : Dyn} {c : Nat} {q : Req} (front : frontOp d c cTable = some q)
include front

theorem writeTable_drains (drains : tableDrains k d (opn q.ops 16 1) = true) : writeTable c k d = blockReq d q := by
  simp [writeTable, front, drains]

variable (drained : tableDrains k d (opn q.ops 16 1) = false)
include drained

theorem writeTable_unknown (unknown : ¬ TableKnown q) : writeTable c k d = tableRefuse d q .badDescriptor := by
  simp only [writeTable, front, drained, Bool.false_eq_true, if_false]
  exact if_pos ((tableFault_iff q).mpr unknown)

variable (known : TableKnown q)
include known

theorem writeTable_reads (unread : ∀ j ∈ d.bus.reads, j.use ≠ .table q.id) :
    writeTable c k d = busRead k d (opn q.ops 24 8) (tableBytes (opn q.ops 16 1) (opn q.ops 18 2)) (.table q.id) := by
  simp only [writeTable, front, drained, Bool.false_eq_true, if_false]
  rw [if_neg (mt (tableFault_iff q).mp (not_not.mpr known)), if_pos (by rw [reads_none unread]; rfl)]

/-- What comes of a WRITE_TABLE whose image is being read, or has been. -/
theorem writeTable_reading (reading : ∃ j ∈ d.bus.reads, j.use = .table q.id) :
    writeTable c k d = match readDone d (.table q.id) with
      | none => d
      | some j =>
        if j.err then tableRefuse (dropRead d (.table q.id)) q .eccUncorr
        else match tableWrite k (rpImg d q.id (digBytes (j.data.getD []))) c q.ops (j.data.getD []) with
          | .waits d => blockReq d q
          | .refuse st v =>
            finish (takeReq (dropRead (rpImg d q.id (digBytes (j.data.getD []))) (.table q.id)) q) q.id cTable st v
          | .ok d => finish (takeReq (dropRead d (.table q.id)) q) q.id cTable .ok 0 := by
  simp only [writeTable, front, drained, Bool.false_eq_true, if_false]
  exact (if_neg (mt (tableFault_iff q).mp (not_not.mpr known))).trans (if_neg (by rw [reads_any reading]; decide))

theorem writeTable_unreturned (reading : ∃ j ∈ d.bus.reads, j.use = .table q.id) (unreturned : readDone d (.table q.id) = none) :
    writeTable c k d = d := by
  rw [writeTable_reading front drained known reading, unreturned]

variable {j : RdJob} (done : readDone d (.table q.id) = some j)
include done

theorem writeTable_error (err : j.err = true) : writeTable c k d = tableRefuse (dropRead d (.table q.id)) q .eccUncorr := by
  simp only [writeTable_reading front drained known (reading_of_readDone done), done, err, if_true]

variable (sound : j.err = false)
include sound

theorem writeTable_written {e : Dyn}
    (answer : tableWrite k (rpImg d q.id (digBytes (j.data.getD []))) c q.ops (j.data.getD []) = .ok e) :
    writeTable c k d = finish (takeReq (dropRead e (.table q.id)) q) q.id cTable .ok 0 := by
  simp only [writeTable_reading front drained known (reading_of_readDone done), done, sound, answer, Bool.false_eq_true, if_false]

theorem writeTable_refused {st : Status} {v : Nat}
    (answer : tableWrite k (rpImg d q.id (digBytes (j.data.getD []))) c q.ops (j.data.getD []) = .refuse st v) :
    writeTable c k d =
      finish (takeReq (dropRead (rpImg d q.id (digBytes (j.data.getD []))) (.table q.id)) q) q.id cTable st v := by
  simp only [writeTable_reading front drained known (reading_of_readDone done), done, sound, answer, Bool.false_eq_true, if_false]

theorem writeTable_held {e : Dyn}
    (answer : tableWrite k (rpImg d q.id (digBytes (j.data.getD []))) c q.ops (j.data.getD []) = .waits e) :
    writeTable c k d = blockReq e q := by
  simp only [writeTable_reading front drained known (reading_of_readDone done), done, sound, answer, Bool.false_eq_true, if_false]

end Tables

theorem exec_writeTable {s : State} (h : s.serving) (c : Nat) : exec (.writeTable c) s = .next (s.served (writeTable c s.m.cfg s.fresh)) :=
  runSrv_open h _

/-! ### The obligation -/

/-- Settles O10: the command waits, is refused whole, reads its image, or has the answer of the checks of its entries (the free VALUE of a
refusal as a whole is log 38). -/
theorem tableWritten : Obligations.TableWritten := by
  unfold Obligations.TableWritten
  intro s c q h front k t cnt use known answers
  have written : ∀ {d : Dyn}, writeTable c k s.fresh = d → answers d := fun write => write ▸ exec_writeTable h c
  exact ⟨fun drains => written (writeTable_drains front drains),
    fun drained => ⟨fun unknown => written (writeTable_unknown front drained unknown),
      fun isTable unread => written (writeTable_reads (d := s.fresh) front drained isTable unread),
      fun isTable reading unreturned => written (writeTable_unreturned (d := s.fresh) front drained isTable reading unreturned),
      fun j isTable done => ⟨fun err => written (writeTable_error front drained isTable done err),
        fun sound => ⟨fun d answer => written (writeTable_written front drained isTable done sound answer),
          fun st v answer => written (writeTable_refused front drained isTable done sound answer),
          fun d answer => written (writeTable_held front drained isTable done sound answer)⟩⟩⟩⟩

end Sys2Proof.Machine

/-! ## SERVICE_START and SERVICE_STOP (R305, R310, R313, R328) -/

namespace Sys2Proof.Machine

/-! ### SERVICE_START -/

section Refusals
variable {k : Cfg} {d : Dyn} {q : Req}

theorem svcRefused_absent (absent : tget d.gs.graphs (gidOf q.ops) = none) : svcRefused k d q = some .badDescriptor := by
  rw [svcRefused, absent]

variable {g : Graph} (atId : tget d.gs.graphs (gidOf q.ops) = some g)
include atId

theorem svcRefused_unfit (unfit : d.sv.run = true ∨ g.st ≠ .resident) : svcRefused k d q = some .badDescriptor := by
  rw [svcRefused, atId]
  exact if_pos (by simpa using unfit)

variable (idle : d.sv.run = false) (resident : g.st = .resident)
include idle resident

theorem svcRefused_racing (det : k.det = true) (racing : g.racing = true) : svcRefused k d q = some .determinism := by
  simp [svcRefused, atId, idle, resident, det, racing]

theorem svcRefused_none (ordered : (k.det && g.racing) = false) : svcRefused k d q = none := by
  simp only [svcRefused, atId, idle, resident, ordered, ne_eq, not_true_eq_false, decide_false, Bool.or_self, Bool.false_eq_true, if_false]

end Refusals

section Starts
variable {k : Cfg} {d : Dyn} {c : Nat} {q : Req} (front : frontOp d c cSvcStart = some q)
include front

theorem serviceStart_refused {st : Status} (refused : svcRefused k d q = some st) : serviceStart c k d = svcRefuse d q st := by
  simp only [serviceStart, front, refused]

variable (fit : svcRefused k d q = none)
include fit

theorem serviceStart_reads (unread : ∀ j ∈ d.bus.reads, j.use ≠ .svcBlock q.id) :
    serviceStart c k d = busRead k d (opn q.ops 24 8) 64 (.svcBlock q.id) := by
  simp only [serviceStart, front, fit, reads_none unread, Bool.not_false, if_true]

variable {j : RdJob} (done : readDone d (.svcBlock q.id) = some j)
include done

theorem serviceStart_error (err : j.err = true) : serviceStart c k d = svcRefuse d q .eccUncorr := by
  simp [serviceStart, front, fit, reads_any (reading_of_readDone done), done, err]

variable (sound : j.err = false)
include sound

theorem serviceStart_waits (full : rpRoom d 1 false = false) : serviceStart c k d = blockReq d q := by
  simp [serviceStart, front, fit, reads_any (reading_of_readDone done), done, sound, full]

variable (room : rpRoom d 1 false = true)
include room

theorem serviceStart_illegal (illegal : svcBlockOk (BitVec.ofNat 512 (leNat (j.data.getD []))) = false) :
    serviceStart c k d = svcRefuse (rpImg d q.id (digBytes (j.data.getD []))) q .badDescriptor := by
  simp [serviceStart, front, fit, reads_any (reading_of_readDone done), done, sound, room, illegal]

theorem serviceStart_runs (legal : svcBlockOk (BitVec.ofNat 512 (leNat (j.data.getD []))) = true) :
    serviceStart c k d =
      svcRun (takeReq (dropRead (rpImg d q.id (digBytes (j.data.getD []))) (.svcBlock q.id)) q) q
        (BitVec.ofNat 512 (leNat (j.data.getD []))) := by
  simp [serviceStart, front, fit, reads_any (reading_of_readDone done), done, sound, room, legal]

end Starts

/-! ### SERVICE_STOP -/

theorem takeReq_sv (d : Dyn) (q : Req) : (takeReq d q).sv = d.sv := by
  obtain ⟨f, taken⟩ := takeReq_frame d q
  rw [taken]
  rfl

theorem takeReq_step (d : Dyn) (q : Req) : (takeReq d q).step = d.step := by
  obtain ⟨f, taken⟩ := takeReq_frame d q
  rw [taken]
  rfl

section Stops
variable {k : Cfg} {d : Dyn} {c : Nat} {q : Req} (front : frontOp d c cSvcStop = some q)
include front

theorem serviceStop_idle (idle : d.sv.run = false) :
    serviceStop c k d = finish (takeReq d q) q.id cSvcStop .ok d.step.toNat := by
  simp [serviceStop, front, takeReq_sv, takeReq_step, idle]

theorem serviceStop_running (running : d.sv.run = true) :
    serviceStop c k d =
      svcStop k (modSv (takeReq d q) (fun v => { v with stopCmds := v.stopCmds ++ [q.id] })) (bit q.ops.toNat 0) := by
  simp [serviceStop, front, takeReq_sv, running]

end Stops

/-! ### The commands -/

section ServiceCommands
variable {s : State} (h : s.firmware) (c : Nat)
include h

theorem exec_serviceStart : exec (.serviceStart c) s = .next (s.served (serviceStart c s.m.cfg s.fresh)) := runSrvFw_open h _

theorem exec_serviceStop : exec (.serviceStop c) s = .next (s.served (serviceStop c s.m.cfg s.fresh)) := runSrvFw_open h _

end ServiceCommands

/-! ### The obligation -/

/-- Settles O11: a start by its graph and then by the read of its block, a stop by whether a service runs. -/
theorem serviceStartStop : Obligations.ServiceStartStop := by
  unfold Obligations.ServiceStartStop
  intro s c q h k use starts
  have started : ∀ {d : Dyn}, serviceStart c k s.fresh = d → starts d := fun start => start ▸ exec_serviceStart h c
  refine ⟨fun front => ⟨fun absent => started (serviceStart_refused front (svcRefused_absent (d := s.fresh) absent)),
      fun g atId => ⟨fun unfit => started (serviceStart_refused front (svcRefused_unfit (d := s.fresh) atId unfit)),
        fun idle resident det racing => started (serviceStart_refused front (svcRefused_racing (d := s.fresh) atId idle resident det racing)),
        fun idle resident ordered => ?_⟩⟩,
    fun front => ⟨fun idle => ?_, fun running => ?_⟩⟩
  · have fit := svcRefused_none (k := k) (d := s.fresh) atId idle resident ordered
    exact ⟨fun unread => started (serviceStart_reads (d := s.fresh) front fit unread),
      fun j done => ⟨fun err => started (serviceStart_error front fit done err),
        fun sound full => started (serviceStart_waits front fit done sound full),
        fun sound room => ⟨fun illegal => started (serviceStart_illegal front fit done sound room illegal),
          fun legal => started (serviceStart_runs front fit done sound room legal)⟩⟩⟩
  · rw [exec_serviceStop h, serviceStop_idle (d := s.fresh) front idle]
    rfl
  · rw [exec_serviceStop h, serviceStop_running (d := s.fresh) front running]

end Sys2Proof.Machine

/-! ## RING_FETCH_READ and RING_FETCH_RETURN (R18, R282, R284, R285, R290, R325, R326, Table 12.7) -/

namespace Sys2Proof.Machine

/-! ### RING_FETCH_READ (R284, R285) -/

section Serves
variable {k : Cfg} {d : Dyn}

theorem ringFetchRead_none (no : k.fetches = false ∨ 16 ≤ ringReads d ∨ chooseRing d ringCount 0 = none) : ringFetchRead k d = d := by
  by_cases shut : (!k.fetches || 16 ≤ ringReads d) = true
  · exact if_pos shut
  · simp only [Bool.or_eq_true, Bool.not_eq_true', decide_eq_true_eq, not_or] at shut
    have none : chooseRing d ringCount 0 = none := (no.resolve_left shut.1).resolve_left shut.2
    rw [ringFetchRead, none]
    exact ite_eq_left_iff.mpr fun _ => rfl

variable {c r : Nat} (fetches : k.fetches = true) (few : ringReads d < 16) (chosen : chooseRing d ringCount 0 = some (c, r))
include fetches few chosen

theorem ringFetchRead_chosen : ringFetchRead k d =
    if !(getRing d c r).atSnap then fetchIssue k d c r
    else if (getRing d c r).tail = (getRing d c r).head && !(getRing d c r).pendingDb then modRing d c r (fun g => { g with st := .idle })
    else snapshot k d c r := by
  simp only [ringFetchRead, fetches, Nat.not_le.mpr few, decide_false, Bool.not_true, Bool.or_self, Bool.false_eq_true, if_false, chosen]

theorem ringFetchRead_issues (short : (getRing d c r).head ≠ (getRing d c r).snap) : ringFetchRead k d = fetchIssue k d c r := by
  rw [ringFetchRead_chosen fetches few chosen, if_pos (by simp [Ring.atSnap, short])]

variable (used : (getRing d c r).head = (getRing d c r).snap)
include used

theorem ringFetchRead_idles (caught : (getRing d c r).tail = (getRing d c r).head) (quiet : (getRing d c r).pendingDb = false) :
    ringFetchRead k d = modRing d c r (fun g => { g with st := .idle }) := by
  rw [ringFetchRead_chosen fetches few chosen, if_neg (by simp [Ring.atSnap, used]), if_pos (by simp [caught, quiet])]

theorem ringFetchRead_snapshots (due : (getRing d c r).tail ≠ (getRing d c r).head ∨ (getRing d c r).pendingDb = true) :
    ringFetchRead k d = snapshot k d c r := by
  rw [ringFetchRead_chosen fetches few chosen, if_neg (by simp [Ring.atSnap, used]), if_neg (by simpa [imp_iff_not_or] using due)]

end Serves

/-! ### An entry taken (R18, R290, R325, R326) -/

/-- The command of an entry breaks its form, or is refused for it. -/
def takeRefused (k : Cfg) (d : Dyn) (c : Nat) (g : Ring) (e : Entry) : Bool :=
  !e.formOk || cmdRefused k c g.gen (getCtx d c).rev e.op e.ops

/-- The take of an entry starts the log. -/
def takeStarts (k : Cfg) (d : Dyn) (c : Nat) (g : Ring) (e : Entry) : Bool := !takeRefused k d c g e && startsLog k d e

/-- An entry's request and its record have room: the record has the entry's slots, and one more where it starts the log. -/
def takeRoom (k : Cfg) (d : Dyn) (c : Nat) (g : Ring) (e : Entry) : Bool :=
  let slots := 1 + (if g.gen then 2 else 1)
  (takeRefused k d c g e || reqRoom d) && (if takeStarts k d c g e then rpFits d (slots + 1) false else rpRoom d slots false)

/-- The running side once an entry has been taken, before its command holds its ring. -/
def entryTaken (k : Cfg) (d : Dyn) (c r : Nat) (e : Entry) (b : List Byte) (rest : List (List Byte)) : Dyn :=
  let g := getRing d c r
  let id : CmdId := { c := c, r := r, dseq := e.dseq }
  let refused := takeRefused k d c g e
  let head := g.head + 1
  let d := recordEntry (if takeStarts k d c g e then logStart k d c r (modeAfter k e.ops) else d) id e head b refused
  let d := postCmd (modRing d c r (fun g => { g with head := head, dseq := g.dseq + 1 })) id e head refused
  endRead (modRing d c r (fun g => afterTake d.fc g rest)) c r rest

section Takes
variable {k : Cfg} {d : Dyn} {c r : Nat} {b : List Byte} {rest : List (List Byte)} {e : Entry}
  (entry : Entry.ofBytes (getRing d c r).gen b = e)
include entry

theorem takeEntry_wrong (wrong : e.dseq ≠ (getRing d c r).dseq) :
    takeEntry k d c r b rest = ringError k d c r ((getRing d c r).dseq.setWidth 64) e.dseq := by
  subst entry
  exact if_pos wrong

variable (right : e.dseq = (getRing d c r).dseq)
include right

/-- The model's test of an entry's room is the negation of `takeRoom`. -/
theorem takeEntry_right : takeEntry k d c r b rest =
    if takeRoom k d c (getRing d c r) e = false then holdHead d c r
    else if !takeRefused k d c (getRing d c r) e && holdsRing e.op then
      holdRing (entryTaken k d c r e b rest) { c := c, r := r, dseq := e.dseq }
    else entryTaken k d c r e b rest := by
  subst entry
  rw [takeEntry, if_neg (not_not.mpr right)]
  exact if_congr (by rw [takeRoom, Bool.and_eq_false_iff]; simp [takeRefused, takeStarts]) rfl rfl

theorem takeEntry_held (full : takeRoom k d c (getRing d c r) e = false) : takeEntry k d c r b rest = holdHead d c r := by
  rw [takeEntry_right entry right, if_pos full]

variable (room : takeRoom k d c (getRing d c r) e = true)
include room

theorem takeEntry_passes (passes : takeRefused k d c (getRing d c r) e = true ∨ holdsRing e.op = false) :
    takeEntry k d c r b rest = entryTaken k d c r e b rest := by
  rw [takeEntry_right entry right, if_neg (by rw [room]; decide), if_neg (by simpa [imp_iff_not_or] using passes)]

theorem takeEntry_holds (kept : takeRefused k d c (getRing d c r) e = false) (holds : holdsRing e.op = true) :
    takeEntry k d c r b rest = holdRing (entryTaken k d c r e b rest) { c := c, r := r, dseq := e.dseq } := by
  rw [takeEntry_right entry right, if_neg (by rw [room]; decide), if_pos (by rw [kept, holds]; rfl)]

end Takes

/-! ### RING_FETCH_RETURN (R285) -/

section Returns
variable {k : Cfg} {d : Dyn} {c r : Nat}

theorem ringFetchReturn_notItsTurn (other : turn d ≠ some (c, r)) : ringFetchReturn c r k d = d := if_pos other

theorem ringFetchReturn_takes (its : turn d = some (c, r)) {f : Fetch} (fetched : (getRing d c r).fetch = some f) {b : List Byte}
    {rest : List (List Byte)} (left : f.left = b :: rest) : ringFetchReturn c r k d = takeEntry k d c r b rest := by
  obtain ⟨tag, entries⟩ := f
  subst left
  rw [ringFetchReturn, if_neg (not_not.mpr its), fetched]

end Returns

/-! ### The commands -/

section FetchCommands
variable {s : State} (h : s.part frontUnit)
include h

theorem exec_ringFetchRead_clean {hits : List Hit} (clean : Clean hits) :
    exec (.ringFetchRead hits) s = .next (s.served (ringFetchRead s.m.cfg s.fresh)) :=
  (runPart_open h _).trans (by rw [withHits_clean clean])

theorem exec_ringFetchReturn (c r : Nat) :
    exec (.ringFetchReturn c r) s = .next (s.served (ringFetchReturn c r s.m.cfg s.fresh)) := runPart_open h _

end FetchCommands

/-! ### The obligation -/

/-- Settles O12: the ring chosen by where its HEAD and TAIL stand, the entry whose turn it is by its DSEQ, its room and its form (a ring
that something holds is passed over, log 92). -/
theorem ringEntriesFetched : Obligations.RingEntriesFetched := by
  unfold Obligations.RingEntriesFetched
  intro s hits c r h clean k g reads takes
  have served : ∀ {d : Dyn}, ringFetchRead k s.fresh = d → reads d := fun read => read ▸ exec_ringFetchRead_clean h clean
  have taken : ∀ {d : Dyn}, ringFetchReturn c r k s.fresh = d → takes d := fun take => take ▸ exec_ringFetchReturn h c r
  refine ⟨fun fetches few chosen => ⟨fun short => served (ringFetchRead_issues fetches few chosen short),
      fun used caught quiet => served (ringFetchRead_idles fetches few chosen used caught quiet),
      fun used due => served (ringFetchRead_snapshots fetches few chosen used due)⟩,
    fun no => served (ringFetchRead_none no), fun other => taken (ringFetchReturn_notItsTurn other),
    fun f b rest its fetched left => ?_⟩
  have takeOf := ringFetchReturn_takes (k := k) (d := s.fresh) its fetched left
  exact ⟨fun wrong => taken (takeOf.trans (takeEntry_wrong rfl wrong)),
    fun right full => taken (takeOf.trans (takeEntry_held rfl right full)),
    fun right room => ⟨fun passes => taken (takeOf.trans (takeEntry_passes rfl right room passes)),
      fun kept holds => taken (takeOf.trans (takeEntry_holds rfl right room kept holds))⟩⟩

end Sys2Proof.Machine

/-! ## Completion entries, their acknowledgement, and the interrupt (R290, R297 to R299, R302, R322, R323, R344, R388) -/

namespace Sys2Proof.Machine

/-! ### COMPLETION_ENTRY (R290, R297 to R299) -/

section Entries
variable {k : Cfg} {d : Dyn} {c : Nat}

/-- The refused commands of a context. -/
def refusedCmds (d : Dyn) (c : Nat) : List Cmd := d.fe.cmds.filter (fun x => x.id.c = c && x.stage == .refused)

theorem completionEntry_full (full : cplRoom d c = false) : completionEntry c k d = d := by simp [completionEntry, full]

variable (room : cplRoom d c = true)
include room

theorem completionEntry_waiting (waiting : ∃ p ∈ d.fe.posts, p.1 = c) : completionEntry c k d = flushPosts k d c := by
  have any : d.fe.posts.any (fun p => p.1 = c) = true := by simpa using waiting
  simp only [completionEntry, room, any, Bool.not_true, Bool.false_eq_true, if_false, if_true]

variable (noPost : ∀ p ∈ d.fe.posts, p.1 ≠ c)
include noPost

/-- With nothing of the front end before them, a refused command goes first and then a return. -/
theorem completionEntry_quiet : completionEntry c k d = match minBy Cmd.seq (refusedCmds d c) with
    | some x => postRefused k d x
    | none => match retFor d c with
      | some r => if r.kind = 1 then postNotify k d r else postCommand k d r
      | none => d := by
  have none : d.fe.posts.any (fun p => p.1 = c) = false := by simpa using noPost
  simp only [completionEntry, room, none, Bool.not_true, Bool.false_eq_true, if_false]
  rfl

theorem completionEntry_refused {x : Cmd} (oldest : minBy Cmd.seq (refusedCmds d c) = some x) :
    completionEntry c k d = postRefused k d x := by
  simp only [completionEntry_quiet room noPost, oldest]

variable (noRefused : minBy Cmd.seq (refusedCmds d c) = none)
include noRefused

theorem completionEntry_idle (noRet : retFor d c = none) : completionEntry c k d = d := by
  simp only [completionEntry_quiet room noPost, noRefused, noRet]

variable {r : Ret} (oldest : retFor d c = some r)
include oldest

theorem completionEntry_notify (notify : r.kind = 1) : completionEntry c k d = postNotify k d r := by
  simp only [completionEntry_quiet room noPost, noRefused, oldest, notify, if_true]

theorem completionEntry_command (command : r.kind ≠ 1) : completionEntry c k d = postCommand k d r := by
  simp only [completionEntry_quiet room noPost, noRefused, oldest, command, if_false]

end Entries

section CommandEntries
variable {k : Cfg} {d : Dyn} {r : Ret}

theorem postCommand_unknown (gone : d.fe.cmds.find? (fun x => x.id = r.id && x.stage ≠ .refused) = none) :
    postCommand k d r = markRet d r := by rw [postCommand, gone]

/-- The entry of a command's return; a launch's of a context of revision 2 has its cairn record (R322, R323). -/
theorem postCommand_entry {x : Cmd} (command : d.fe.cmds.find? (fun x => x.id = r.id && x.stage ≠ .refused) = some x) :
    postCommand k d r = cmdGone (ledgerAdd (postEntry k (markRet d r) r.id.c
      (BitVec.ofNat 512 (entryWord 0 r.status r.id.dseq r.id.r r.op x.consumed r.value x.userdata
        + (if r.op = cLaunch && (getCtx d r.id.c).rev = 2 then launchCairn k x r * 2 ^ 256 else 0))) x.irq) r) x := by
  rw [postCommand, command]

end CommandEntries

/-! ### The acknowledgement of an entry's write (R298) -/

section EntryAcks
variable {k : Cfg} {d : Dyn} {c : Nat}

theorem completionWriteAck_none (none : d.bus.writes.find? (isEntryOf c) = none) : completionWriteAck c k d = d := by
  rw [completionWriteAck, none]

theorem completionWriteAck_entry {j : WrJob} (oldest : d.bus.writes.find? (isEntryOf c) = some j) {c' : Nat} {idx : Option W32}
    {qual : Bool} {record : Option Nat} (use : j.use = .completion c' idx qual record) :
    completionWriteAck c k d = entryAcked
      { d with bus := { d.bus with writes := dropFirst (fun w => w = j) d.bus.writes } } c idx qual record := by
  simp only [completionWriteAck, oldest, use]

end EntryAcks

/-! ### The interrupt (R302) and the entry that the firmware stages (R388) -/

section Interrupts
variable {k : Cfg} {d : Dyn} {c : Nat}

theorem irqHoldExpiry_requests (on : irqOn (getCtx d c) = true) (pend : 0 < (getCtx d c).irqPend)
    (passed : irqHold (getCtx d c) * 256 ≤ cyclesSince d (getCtx d c).irqFrom) : irqHoldExpiry c k d = irqRequest d c := by
  simp [irqHoldExpiry, on, pend, passed]

theorem irqHoldExpiry_early (early : cyclesSince d (getCtx d c).irqFrom < irqHold (getCtx d c) * 256) : irqHoldExpiry c k d = d := by
  simp [irqHoldExpiry, Nat.not_le.mpr early]

theorem fePost_open (opened : (getCtx d c).isOpen = true) (w : BitVec 512) :
    fePost c w k d = addPost k { d with fe := { d.fe with entry := w } } c w := if_pos opened

theorem fePost_closed (closed : (getCtx d c).isOpen = false) (w : BitVec 512) :
    fePost c w k d = { d with fe := { d.fe with entry := w } } := if_neg (Bool.eq_false_iff.mp closed)

end Interrupts

/-! ### The commands -/

theorem exec_completionEntry {s : State} (h : s.part frontUnit) (c : Nat) :
    exec (.completionEntry c) s = .next (s.served (completionEntry c s.m.cfg s.fresh)) := runPart_open h _

section CompletionCommands
variable {s : State} (h : s.serving)
include h

theorem exec_completionWriteAck (c : Nat) :
    exec (.completionWriteAck c) s = .next (s.served (showReads (completionWriteAck c s.m.cfg s.fresh))) := runSrv_open h _

theorem exec_irqHoldExpiry (c : Nat) : exec (.irqHoldExpiry c) s = .next (s.served (irqHoldExpiry c s.m.cfg s.fresh)) := runSrv_open h _

theorem exec_fePost (runs : s.m.cfg.fwRuns = true) (c : Nat) (w : BitVec 512) :
    exec (.fePost c w) s = .next (s.served (fePost c w s.m.cfg s.fresh)) := runSrvFw_open ⟨h, runs⟩ _

end CompletionCommands

/-! ### The obligation -/

/-- Settles O13: an entry by what waits for the ring, an acknowledgement by the write that it is of, the interrupt by its HOLD, and a staged
entry by whether its context is open (an entry refused at the take has no cairn record, log 34). -/
theorem completionRing : Obligations.CompletionRing := by
  unfold Obligations.CompletionRing
  constructor
  · intro s c h k posts first
    have posted : ∀ {d : Dyn}, completionEntry c k s.fresh = d → posts d := fun entry => entry ▸ exec_completionEntry h c
    exact ⟨fun full => posted (completionEntry_full full), fun room waiting => posted (completionEntry_waiting room waiting),
      fun room noPost => ⟨fun x oldest => posted (completionEntry_refused room noPost oldest),
        fun noRefused noRet => posted (completionEntry_idle room noPost noRefused noRet), fun r noRefused oldest =>
          ⟨fun notify => posted (completionEntry_notify room noPost noRefused oldest notify),
            fun command gone => posted ((completionEntry_command room noPost noRefused oldest command).trans (postCommand_unknown gone)),
            fun x command known =>
              posted ((completionEntry_command room noPost noRefused oldest command).trans (postCommand_entry known))⟩⟩⟩
  · intro s c h
    refine ⟨fun j idx qual rec oldest use => ?_, fun none => ?_, ⟨fun on pend passed => ?_, fun early => ?_⟩,
      fun w runs => ⟨fun opened => ?_, fun closed => ?_⟩⟩
    · rw [exec_completionWriteAck h, completionWriteAck_entry (d := s.fresh) oldest use]
      rfl
    · rw [exec_completionWriteAck h, completionWriteAck_none (d := s.fresh) none]
    · rw [exec_irqHoldExpiry h, irqHoldExpiry_requests (d := s.fresh) on pend passed]
      rfl
    · rw [exec_irqHoldExpiry h, irqHoldExpiry_early (d := s.fresh) early]
    · rw [exec_fePost h runs, fePost_open (d := s.fresh) opened]
      rfl
    · rw [exec_fePost h runs, fePost_closed (d := s.fresh) closed]
      rfl

end Sys2Proof.Machine

/-! ## The standing service: requests, step boundaries, batch tables and steps (R284, R306 to R310, R326) -/

namespace Sys2Proof.Machine

/-! ### SERVICE_REQUEST_TAKE (R284, R306, R307, R310, R326) -/

section Snapshots
variable {d : Dyn}

theorem svcSnap_none (no : d.sv.snapDue = false ∨ rpRoom d 1 false = false) : svcSnap d = d := if_pos (by simpa using no)

theorem svcSnap_taken (due : d.sv.snapDue = true) (room : rpRoom d 1 false = true) :
    svcSnap d = modSv (rpPut d 0x04 false d.sv.ctx 0 (d.sv.reqTail.toNat + 2 ^ 32) [] none)
      (fun x => { x with reqSnap := x.reqTail, reqPend := false }) := if_neg (by simp [due, room])

end Snapshots

/-- The request at HEAD is not taken: the service does not run, HEAD is at the snapshot, the window is full, a stopping service's batch has
not ended, or the record has no room. -/
def RequestStays (d : Dyn) : Prop :=
  d.sv.run = false ∨ d.sv.reqHead = d.sv.reqSnap ∨ 64 ≤ d.sv.window.length ∨ (d.sv.stopping.isSome = true ∧ d.sv.idle = false) ∨
    rpRoom d 3 false = false

theorem requestTest_iff (d : Dyn) :
    (!d.sv.run || d.sv.reqHead = d.sv.reqSnap || windowCap ≤ d.sv.window.length || (d.sv.stopping.isSome && !d.sv.idle)
      || !rpRoom d 3 false) = true ↔ RequestStays d := by
  simp only [RequestStays, Bool.or_eq_true, Bool.and_eq_true, Bool.not_eq_true', decide_eq_true_eq, or_assoc]
  rfl

/-- The request at HEAD has been read, with its record. -/
def requestRead (d : Dyn) (w : BitVec 512) : Dyn :=
  modSv (rpPut d 0x07 false d.sv.ctx 0 (qRseq w + d.sv.reqHead.toNat * 2 ^ 32) [w256 w.toNat, w256 (w.toNat >>> 256)] none)
    (fun x => { x with reqHead := x.reqHead + 1 })

/-- What waits for the result ring is posted, and a stopping service may end. -/
def serviceGoesOn (k : Cfg) (d : Dyn) : Dyn := svcTryEnd k (flushResults k d.sv.results d)

section Requests
variable {k : Cfg} {d : Dyn} {w : BitVec 512}

theorem serviceRequestTake_stays (stays : RequestStays (svcSnap d)) : serviceRequestTake w k d = svcSnap d :=
  if_pos ((requestTest_iff _).mpr stays)

variable (goes : ¬ RequestStays (svcSnap d))
include goes

theorem serviceRequestTake_takes : serviceRequestTake w k d = serviceGoesOn k (
    if !svcReqOk w then endUnadmitted (requestRead (svcSnap d) w) w .badDescriptor
    else if (svcSnap d).sv.stopping.isSome then endUnadmitted (requestRead (svcSnap d) w) w .cancelled
    else enterWindow (requestRead (svcSnap d) w) w) := if_neg (mt (requestTest_iff _).mp goes)

theorem serviceRequestTake_malformed (bad : svcReqOk w = false) :
    serviceRequestTake w k d = serviceGoesOn k (endUnadmitted (requestRead (svcSnap d) w) w .badDescriptor) := by
  rw [serviceRequestTake_takes goes, if_pos (by rw [bad]; rfl)]

variable (ok : svcReqOk w = true)
include ok

theorem serviceRequestTake_stopping (stopping : (svcSnap d).sv.stopping ≠ none) :
    serviceRequestTake w k d = serviceGoesOn k (endUnadmitted (requestRead (svcSnap d) w) w .cancelled) := by
  rw [serviceRequestTake_takes goes, if_neg (by rw [ok]; decide), if_pos (Option.isSome_iff_ne_none.mpr stopping)]

theorem serviceRequestTake_enters (open_ : (svcSnap d).sv.stopping = none) :
    serviceRequestTake w k d = serviceGoesOn k (enterWindow (requestRead (svcSnap d) w) w) := by
  rw [serviceRequestTake_takes goes, if_neg (by rw [ok]; decide), if_neg (by rw [open_]; decide)]

end Requests

/-! ### STEP_BOUNDARY (R307, R308) -/

theorem endPendings_stopping (st : Status) (rs : List SvcReq) :
    ∀ d : Dyn, (rs.foldl (fun d r => endPending d r st) d).sv.stopping = d.sv.stopping := by
  induction rs with
  | nil => intro d; rfl
  | cons r rs ih => intro d; exact ih (endPending d r st)

/-- The running side of a step boundary: expired requests have ended, free slots are filled, and what waits has been posted. -/
def boundaryBatch (k : Cfg) (d : Dyn) : Dyn :=
  let e := modSv d (fun x => { x with stepDone := false })
  let e := (e.sv.window.filter (·.expired)).foldl (fun d r => endPending d r .timeout) e
  let e := if d.sv.stopping.isSome = true then e else fillBatch e
  flushResults k e.sv.results e

section Boundaries
variable {k : Cfg} {d : Dyn}

theorem stepBoundary_none (no : d.sv.atBoundary = false ∨ d.sv.results ≠ [] ∨ rpRoom d 1 false = false) : stepBoundary k d = d :=
  if_pos (by simpa [or_assoc] using no)

variable (boundary : d.sv.atBoundary = true) (noResult : d.sv.results = []) (room : rpRoom d 1 false = true)
include boundary noResult room

theorem stepBoundary_eq : stepBoundary k d =
    if (boundaryBatch k d).sv.batch.isEmpty then svcTryEnd k (boundaryBatch k d)
    else busWrite k (modSv (boundaryBatch k d) (fun x => { x with writing := true })) (boundaryBatch k d).sv.batchTab
      (batchBytes (boundaryBatch k d).sv) .batchTab := by
  simp only [stepBoundary, boundary, noResult, room, List.isEmpty_nil, Bool.not_true, Bool.or_self, Bool.false_eq_true, if_false,
    endPendings_stopping]
  rfl

theorem stepBoundary_empty (empty : (boundaryBatch k d).sv.batch = []) : stepBoundary k d = svcTryEnd k (boundaryBatch k d) := by
  rw [stepBoundary_eq boundary noResult room, if_pos (by rw [empty]; rfl)]

theorem stepBoundary_writes (batch : (boundaryBatch k d).sv.batch ≠ []) : stepBoundary k d =
    busWrite k (modSv (boundaryBatch k d) (fun x => { x with writing := true })) (boundaryBatch k d).sv.batchTab
      (batchBytes (boundaryBatch k d).sv) .batchTab := by
  rw [stepBoundary_eq boundary noResult room, if_neg (by simpa using batch)]

end Boundaries

/-! ### BATCH_TABLE_ACK (R308, R309) -/

section BatchTables
variable {k : Cfg} {d : Dyn}

theorem batchWritten_held (held : d.sv.run = false ∨ d.sv.writing = false ∨ d.sv.results ≠ [] ∨ reqRoom d = false) :
    batchWritten d = d := if_pos (by simpa [or_assoc] using held)

theorem batchWritten_posts (run : d.sv.run = true) (writing : d.sv.writing = true) (noResult : d.sv.results = [])
    (room : reqRoom d = true) :
    batchWritten d = postReq (modSv d (fun x => { x with writing := false, inFlight := true })) (stepReq d.sv) :=
  if_neg (by simp [run, writing, noResult, room])

theorem batchTableAck_written (out : ∃ j ∈ d.bus.writes, j.use = .batchTab) :
    batchTableAck k d = svcTryEnd k (batchWritten
      { d with bus := { d.bus with writes := dropFirst (fun j => j.use = .batchTab) d.bus.writes } }) := if_pos (by simpa using out)

theorem batchTableAck_none (none : ¬ ∃ j ∈ d.bus.writes, j.use = .batchTab) : batchTableAck k d = batchWritten d :=
  if_neg (by simpa using none)

end BatchTables

/-! ### STEP_COMPLETION (R309, R310) -/

section StepReturns
variable {k : Cfg} {d : Dyn} {dones : List Byte}

theorem stepCompletion_none (no : stepReturn d = none ∨ d.sv.run = false ∨ d.sv.inFlight = false) : stepCompletion dones k d = d := by
  cases found : stepReturn d with
  | none => rw [stepCompletion, found]
  | some r =>
    rw [stepCompletion, found]
    exact if_pos (by simpa [found] using no)

theorem stepCompletion_ends {r : Ret} (found : stepReturn d = some r) (run : d.sv.run = true) (inFlight : d.sv.inFlight = true) :
    stepCompletion dones k d =
      let c := w256 (cairn r.prog (w64 d.sv.wdigest) 0 r.stepv d.sv.seedidx k.ftv.toNat r.mode)
      let d := modSv (markRet d r) (fun x => { x with inFlight := false, stepDone := true, lastStep := r.stepv, lastCairn := c })
      let d := d.sv.batch.foldl (slotOutcome r.status dones) d
      serviceGoesOn k (if d.sv.stopping = some false then cancelBatch d else d) := by
  rw [stepCompletion, found]
  exact if_neg (by simp [run, inFlight])

end StepReturns

/-! ### The commands -/

section ServiceServed
variable {s : State} (h : s.firmware)
include h

theorem exec_serviceRequestTake (w : BitVec 512) :
    exec (.serviceRequestTake w) s = .next (s.served (serviceRequestTake w s.m.cfg s.fresh)) := runSrvFw_open h _

theorem exec_stepBoundary : exec .stepBoundary s = .next (s.served (stepBoundary s.m.cfg s.fresh)) := runSrvFw_open h _

theorem exec_batchTableAck : exec .batchTableAck s = .next (s.served (showReads (batchTableAck s.m.cfg s.fresh))) := runSrvFw_open h _

theorem exec_stepCompletion (dones : List Byte) :
    exec (.stepCompletion dones) s = .next (s.served (stepCompletion dones s.m.cfg s.fresh)) := runSrvFw_open h _

end ServiceServed

/-! ### The obligation -/

/-- Settles O54: a request by the snapshot and by what it is, a boundary by the batch that it leaves, the batch table by its write, and a step by
its return (ring, DSEQ and SUB of the step's request and of the snapshot's record are logs 56 and 57). -/
theorem serviceSteps : Obligations.ServiceSteps := by
  unfold Obligations.ServiceSteps
  intro s w dones h k sv took bound written stepped
  have took_of : ∀ {d : Dyn}, serviceRequestTake w k s.fresh = d → took d := fun take => take ▸ exec_serviceRequestTake h w
  have bound_of : ∀ {d : Dyn}, stepBoundary k s.fresh = d → bound d := fun step => step ▸ exec_stepBoundary h
  have written_of : ∀ {d : Dyn}, batchTableAck k s.fresh = d → written d := fun ack => ack ▸ exec_batchTableAck h
  have stepped_of : ∀ {d : Dyn}, stepCompletion dones k s.fresh = d → stepped d := fun step => step ▸ exec_stepCompletion h dones
  refine ⟨⟨svcSnap_none (d := s.fresh), svcSnap_taken (d := s.fresh), fun stays => took_of (serviceRequestTake_stays stays),
      fun goes => ⟨fun bad => took_of (serviceRequestTake_malformed goes bad),
        fun ok stopping => took_of (serviceRequestTake_stopping goes ok stopping),
        fun ok open_ => took_of (serviceRequestTake_enters goes ok open_)⟩⟩,
    fun no => bound_of (stepBoundary_none (d := s.fresh) no),
    fun boundary noResult room => ⟨fun empty => bound_of (stepBoundary_empty (d := s.fresh) boundary noResult room empty),
      fun batch => bound_of (stepBoundary_writes (d := s.fresh) boundary noResult room batch)⟩,
    ⟨fun out => written_of (batchTableAck_written (d := s.fresh) out), fun none => written_of (batchTableAck_none (d := s.fresh) none),
      fun d => ⟨batchWritten_held, batchWritten_posts⟩⟩,
    fun no => stepped_of (stepCompletion_none (d := s.fresh) no),
    fun r found run inFlight => stepped_of (stepCompletion_ends (d := s.fresh) found run inFlight)⟩

end Sys2Proof.Machine

/-! ## Health under every command (R354) -/

namespace Sys2Proof.Machine

theorem not_isReset {c : Instr} (por : c ≠ .por) (sys : c ≠ .sysReset) (dnt : c ≠ .dntReset) : ¬ IsReset c := by
  intro reset
  cases c with
  | por => exact por rfl
  | sysReset => exact sys rfl
  | dntReset => exact dnt rfl
  | _ => exact reset

theorem exec_moves_health {c : Instr} {s t : State} (noReset : ¬ IsReset c) (e : exec c s = .next t) :
    HealthEdge s.m.cfg.health t.m.cfg.health := by
  by_cases writes : WritesConfig c
  · exact (exec_moves_cfg noReset writes e).2
  · exact .inl (by rw [exec_keeps_cfg writes e])

/-- Settles O59: a command that writes the configuration side moves its health along an edge, and any other leaves it (the edge from SURVEY to
SERVICE is SURVEY_END's alone, log 62). -/
theorem healthChangesOnlyAsTheTableGives : Obligations.HealthChangesOnlyAsTheTableGives := by
  unfold Obligations.HealthChangesOnlyAsTheTableGives
  intro c s t por sys dnt e
  exact exec_moves_health (not_isReset por sys dnt) e

end Sys2Proof.Machine

/-! ## Fault records, and faults of Denut's own logic (R331, R334, R341, R344, R345, R363, R364, R389) -/

namespace Sys2Proof.Machine

/-! ### FAULT_SERVE (R331, R334, R363, R364) -/

section Serving
variable {b : Block} {n : Nat} {e : FEntry}

/-- The running side once the record of an entry has been served: charged to its units, its signature exported, its context told. -/
def recordServed (k : Cfg) (d : Dyn) (n : Nat) (e : FEntry) : Dyn :=
  let r := e.record
  let d := (r.charged k).foldl (chargeUnit k.now.toNat (r.mech = 0x0D)) d
  let tells := r.ctx.any (faultCtx d)
  let recs := tput d.fs.recs n { e with served := true, posted := !tells }
  let d := { d with fs := { d.fs with recs := recs, sigs := d.fs.sigs ++ [(n, signature k d r)] } }
  if tells then faultEntryPost k d (optNat r.ctx) r.status n else d

/-- The charged units that are classified permanent once the record has been served. -/
def permanentCharged (k : Cfg) (d : Dyn) (n : Nat) (e : FEntry) : List Nat :=
  (e.record.charged k).filter (fun u => (getHist (recordServed k d n e) u).permanent k.now.toNat)

theorem faultServe_none (none : nextRecord b.d = none) : faultServe b = b := by
  rw [faultServe, none]

theorem faultServe_oldest (oldest : nextRecord b.d = some (n, e)) :
    faultServe b = if (permanentCharged b.cfg b.d n e).isEmpty then { b with d := recordServed b.cfg b.d n e }
      else permanentFound { b with d := recordServed b.cfg b.d n e } e.record.status n (permanentCharged b.cfg b.d n e) := by
  rw [faultServe, oldest]
  rfl

theorem faultServe_serves (oldest : nextRecord b.d = some (n, e)) (none : permanentCharged b.cfg b.d n e = []) :
    faultServe b = { b with d := recordServed b.cfg b.d n e } := by
  rw [faultServe_oldest oldest, if_pos (by simp [none])]

theorem faultServe_permanent (oldest : nextRecord b.d = some (n, e)) (some : permanentCharged b.cfg b.d n e ≠ []) :
    faultServe b =
      permanentFound { b with d := recordServed b.cfg b.d n e } e.record.status n (permanentCharged b.cfg b.d n e) := by
  rw [faultServe_oldest oldest, if_neg (by simp [some])]

end Serving

/-! ### FS_FREE (R334, R389) -/

section Freeing
variable {k : Cfg} {d : Dyn} {n : Nat} {e : FEntry}

theorem fsFree_empty (empty : tget d.fs.recs n = none) : fsFree n k d = d := by
  rw [fsFree, empty]

theorem fsFree_finished (found : tget d.fs.recs n = some e) (done : e.finished d = true) :
    fsFree n k d = enterWaiting k { d with fs := { d.fs with recs := tdel d.fs.recs n } } := by
  rw [fsFree, found]
  exact if_pos done

theorem fsFree_unfinished (found : tget d.fs.recs n = some e) (unfinished : e.finished d = false) : fsFree n k d = d := by
  rw [fsFree, found]
  exact if_neg (by simp [unfinished])

end Freeing

/-! ### DUP_COMPARE_MISMATCH and LOCKSTEP_MISMATCH (R341, R344, R345) -/

section OwnLogic
variable {k : Cfg} {d : Dyn} {unit group : Nat}

/-- The record of a comparison of a part's copies (Table 12.2). -/
def compareRec (unit group : Nat) : FRec := { frec 0x03 .conservation unit with detail := w64 (group % 65536) }

theorem dupCompareMismatch_waits (slots : List Nat) (waits : sourceHolds d (compareRec unit group) = true) :
    dupCompareMismatch unit group slots k d = d := if_pos waits

theorem dupCompareMismatch_fails (slots : List Nat) (free : sourceHolds d (compareRec unit group) = false) :
    dupCompareMismatch unit group slots k d = settleAll (conservationFault k d (compareRec unit group)
      (chargedTo d (fun x l => slots.contains x || touches unit l.touch)
        (fun e => touches unit e.banks || (slots.contains e.slot && (tget d.ls.slots e.slot).all (fun l => l.id = e.id))))) :=
  if_neg (by simpa [compareRec] using free)

theorem lockstepMismatch_halts (pc : W64) (b : Block) :
    (lockstepMismatch pc b).cfg.health = .flagged ∧ (lockstepMismatch pc b).cfg.dcpHalted = true := ⟨rfl, rfl⟩

end OwnLogic

/-! ### The commands -/

section FaultCommands
variable {s : State}

theorem exec_faultServe (fw : s.m.cfg.fwRuns = true) : exec .faultServe s = .next (s.servedBlock (faultServe s.block)) :=
  runFwBlock_open fw (fun b => tidy (faultServe b))

theorem exec_fsFree (fw : s.m.cfg.fwRuns = true) (n : Nat) : exec (.fsFree n) s = .next (s.with (fsFree n s.m.cfg s.fresh)) :=
  runFw_open fw _

theorem exec_dupCompareMismatch (h : s.serving) (unit group : Nat) (slots : List Nat) :
    exec (.dupCompareMismatch unit group slots) s = .next (s.served (dupCompareMismatch unit group slots s.m.cfg s.fresh)) :=
  runSrv_open h _

theorem exec_lockstepMismatch (fw : s.m.cfg.fwRuns = true) (pc : W64) :
    exec (.lockstepMismatch pc) s = .next (s.servedBlock (lockstepMismatch pc s.block)) :=
  runFwBlock_open fw (fun b => tidy (lockstepMismatch pc b))

end FaultCommands

/-! ### The obligation -/

/-- Settles O22: a record is served by the units it is charged to, an entry freed by whether it is done with, a mismatch of copies by whether a
record of the part waits, and a lockstep mismatch always halts the DCP (a launch whose return waits is log 103). -/
theorem faultRecordsServedAndOwnLogic : Obligations.FaultRecordsServedAndOwnLogic := by
  unfold Obligations.FaultRecordsServedAndOwnLogic
  refine ⟨fun s fw => ?_, fun s => ⟨fun unit group slots h => ?_, fun pc fw => ?_⟩⟩
  · have serves : ∀ {b : Block}, faultServe s.block = b → exec .faultServe s = .next (s.servedBlock b) :=
      fun serve => serve ▸ exec_faultServe fw
    have frees : ∀ {n : Nat} {d : Dyn}, fsFree n s.m.cfg s.fresh = d → exec (.fsFree n) s = .next (s.with d) :=
      fun free => free ▸ exec_fsFree fw _
    exact ⟨fun none => serves (faultServe_none none),
      fun n e oldest => ⟨fun none => serves (faultServe_serves oldest none), fun some => serves (faultServe_permanent oldest some)⟩,
      fun n empty => frees (fsFree_empty empty),
      fun n e found => ⟨fun done => frees (fsFree_finished found done), fun unfinished => frees (fsFree_unfinished found unfinished)⟩⟩
  · have compares : ∀ {d : Dyn}, dupCompareMismatch unit group slots s.m.cfg s.fresh = d →
        exec (.dupCompareMismatch unit group slots) s = .next (s.served d) :=
      fun compare => compare ▸ exec_dupCompareMismatch h unit group slots
    exact ⟨fun waits => compares (dupCompareMismatch_waits slots waits), fun free => compares (dupCompareMismatch_fails slots free)⟩
  · obtain ⟨flagged, halted⟩ := lockstepMismatch_halts pc s.block
    exact ⟨exec_lockstepMismatch fw pc, _, exec_lockstepMismatch fw pc,
      by rw [State.servedBlock, tidy_cfg, flagged], by rw [State.servedBlock, tidy_cfg, halted]⟩

end Sys2Proof.Machine

/-! ## The scrub, and the words that a command reads (R333, R336 to R338, R408, Table 12.12) -/

namespace Sys2Proof.Machine

/-! ### SCRUB_READ (R336 to R338) -/

section Scrub
variable {k : Cfg} {d : Dyn} {edge : Bool} {unit : Nat}

/-- What keeps a bank or a slice from being scrubbed: no such unit, a fallow bank (R408), a waiting record of the part (R333). -/
def ScrubBlocked (edge : Bool) (unit : Nat) (d : Dyn) : Prop :=
  64 ≤ unit ∨ (edge = false ∧ d.pw.cbFallow = true) ∨ unitWaits d 0x02 (scrubUnit edge unit) = true

/-- A part once the scrub has read its word: the next word follows it, the first of a new pass the last. -/
def scrubbed (d : Dyn) (u word : Nat) : Dyn :=
  { d with fs := { d.fs with scrub := tset d.fs.scrub u ((word + 1) % 16384) 0 } }

/-- The run of visits that corrected this word ends. -/
def endRun (d : Dyn) (key : Nat × Nat) : Dyn := { d with fs := { d.fs with corrected := d.fs.corrected.filter (· ≠ key) } }

theorem scrubRead_stays {word : Nat} (res : EccResult) (stays : ScrubBlocked edge unit d ∨ word ≠ scrubNext d (scrubUnit edge unit)) :
    scrubRead edge unit word res k d = d := by
  refine if_pos ?_
  rcases stays with (absent | ⟨bank, fallow⟩ | waits) | other
  · simp [absent]
  · simp [bank, fallow]
  · simp [waits]
  · simp [other]

section Visited
variable {word : Nat} (free : ¬ ScrubBlocked edge unit d) (next : word = scrubNext d (scrubUnit edge unit))
include free next

/-- The test of `scrubRead` for the next word of a part that nothing keeps from being scrubbed. -/
theorem not_scrubTest : ¬ (decide (64 ≤ unit) || decide (word ≠ scrubNext d (scrubUnit edge unit)) || (!edge && d.pw.cbFallow)
    || unitWaits d 0x02 (scrubUnit edge unit)) = true := by
  simpa [next, ScrubBlocked, or_assoc] using free

theorem scrubRead_clean : scrubRead edge unit word .clean k d =
    endRun (scrubbed d (scrubUnit edge unit) word) (scrubUnit edge unit, word) := if_neg (not_scrubTest free next)

theorem scrubRead_corrected (symbol : Nat) : scrubRead edge unit word (.corrected symbol) k d =
    scrubCorrected k (scrubbed d (scrubUnit edge unit) word) (b2n edge) (scrubUnit edge unit) word (symbol % 256)
      (scrubUnit edge unit, word) := if_neg (not_scrubTest free next)

theorem scrubRead_uncorrectable : scrubRead edge unit word .uncorrectable k d =
    settleAll (scrubLost (fault k
      (count (endRun (scrubbed d (scrubUnit edge unit) word) (scrubUnit edge unit, word)) (cEccUe (b2n edge)) 1)
      { frec 0x02 .eccUncorr (scrubUnit edge unit) with detail := w64 (word + 0xFF * 2 ^ 56), charge := true }) edge unit word) :=
  if_neg (not_scrubTest free next)

end Visited

section Corrected
variable {u word symbol store : Nat} {key : Nat × Nat}

theorem scrubCorrected_first (first : key ∉ d.fs.corrected) : scrubCorrected k d store u word symbol key =
    { count d (cEccCe store) 1 with fs := { d.fs with corrected := key :: d.fs.corrected } } := by
  have new : d.fs.corrected.contains key = false := by simpa using first
  simp only [scrubCorrected, new]
  rfl

theorem scrubCorrected_again (again : key ∈ d.fs.corrected) : scrubCorrected k d store u word symbol key =
    fault k (count d (cEccCe store) 1) { frec 0x02 .eccCorr u with detail := w64 (word + symbol * 2 ^ 56) } := by
  have seen : d.fs.corrected.contains key = true := by simpa using again
  simp only [scrubCorrected, seen]
  rfl

end Corrected
end Scrub

/-! ### One word of a command in error (R337, Table 12.12) -/

section OneHit
variable {reads : Stored → Bool} {w : Stored} (read : reads w = true) (f : Cfg → Dyn → Dyn) (k : Cfg) {d : Dyn}
include read

theorem withHits_corrected (symbol : Nat) :
    withHits reads [{ word := w, res := .corrected symbol }] f k d = f k (count d (cEccCe (storeNo w)) 1) := by
  simp [withHits, read, isort, insertBy, readHit]

theorem withHits_full (full : summaryFull d = true) : withHits reads [{ word := w, res := .uncorrectable }] f k d = d := by
  simp [withHits, read, isort, insertBy, full]

theorem withHits_uncorrectable (room : summaryFull d = false) : withHits reads [{ word := w, res := .uncorrectable }] f k d =
    f k (fault k (settleAll (wordLost k (useFree (count d (cEccUe (storeNo w)) 1) 1) w)) (hitRec d w)) := by
  simp [withHits, read, isort, insertBy, readHit, room]

end OneHit

/-- The part and the place of a node's word do not rest on the counters. -/
theorem hitRec_node_count (d : Dyn) (off n g : Nat) : hitRec (count d off n) (.node g) = hitRec d (.node g) := rfl

/-! ### The obligation -/

theorem exec_scrubRead {s : State} (h : s.serving) (edge : Bool) (unit word : Nat) (res : EccResult) :
    exec (.scrubRead edge unit word res) s = .next (s.served (scrubRead edge unit word res s.m.cfg s.fresh)) := runSrv_open h _

theorem exec_dec_hits {s : State} {b : Nat} (h : s.part (bankUnit b)) (hits : List Hit) :
    exec (.dec b hits) s = .next (s.served (withHits Stored.isNode hits (bankOp .dec b) s.m.cfg s.fresh)) := runPart_open h _

/-- Settles O23: the scrub by whether the part is blocked, by what the check finds and by whether the visit before corrected the same word; the
word of a DEC by what the check finds and by whether the record can enter. -/
theorem errorsCountedAndRecorded : Obligations.ErrorsCountedAndRecorded := by
  unfold Obligations.ErrorsCountedAndRecorded
  intro s edge unit h u word cor fs' blocked counted
  have scrubs : ∀ {w : Nat} {res : EccResult} {d : Dyn}, scrubRead edge unit w res s.m.cfg s.fresh = d →
      exec (.scrubRead edge unit w res) s = .next (s.served d) := fun scrub => scrub ▸ exec_scrubRead h edge unit _ _
  refine ⟨fun w res stays => scrubs (scrubRead_stays res stays), fun unblocked => ?_, fun b g part => ?_⟩
  · have free : ¬ ScrubBlocked edge unit s.fresh := unblocked
    exact ⟨scrubs (scrubRead_clean free rfl),
      fun symbol first => scrubs ((scrubRead_corrected free rfl symbol).trans (scrubCorrected_first first)),
      fun symbol again => scrubs ((scrubRead_corrected free rfl symbol).trans (scrubCorrected_again again)),
      scrubs (scrubRead_uncorrectable free rfl)⟩
  · have decs : ∀ {hits : List Hit} {d : Dyn}, withHits Stored.isNode hits (bankOp .dec b) s.m.cfg s.fresh = d →
        exec (.dec b hits) s = .next (s.served d) := fun dec => dec ▸ exec_dec_hits part _
    refine ⟨fun symbol => decs (withHits_corrected rfl _ _ symbol), fun full => decs (withHits_full rfl _ _ full), fun room => decs ?_⟩
    rw [withHits_uncorrectable rfl _ _ room, hitRec_node_count]
    rfl

end Sys2Proof.Machine

/-! ## Draining and the health transitions (R354, R355, R357, R358, R364, R389) -/

namespace Sys2Proof.Machine

/-! ### FS_HEALTH (R389) -/

section Transitions
variable {b : Block} {v : W32}

theorem fsHealthWrite_drains (service : b.cfg.health = .service) (asks : Health.ofCode (bits v.toNat 0 3) = some .draining) :
    fsHealthWrite v b = enterDraining b := by
  rw [fsHealthWrite, service, asks]

theorem fsHealthWrite_flags_service (service : b.cfg.health = .service) (asks : Health.ofCode (bits v.toNat 0 3) = some .flagged)
    (phase : b.cfg.phase = .p5) : fsHealthWrite v b = setHealth b .flagged := by
  rw [fsHealthWrite, service, asks]
  exact if_pos (by simp [phase])

theorem fsHealthWrite_service_booted (service : b.cfg.health = .service)
    (asks : Health.ofCode (bits v.toNat 0 3) = some .flagged) (phase : b.cfg.phase ≠ .p5) : fsHealthWrite v b = b := by
  rw [fsHealthWrite, service, asks]
  exact if_neg (by simp [phase])

theorem fsHealthWrite_surveys (drained : b.cfg.health = .drained) (asks : Health.ofCode (bits v.toNat 0 3) = some .survey) :
    fsHealthWrite v b = setHealth (startSurvey b ((b.cfg.drain.bind (·.survey)).getD false) 1 []) .survey := by
  rw [fsHealthWrite, drained, asks]

theorem fsHealthWrite_flags_drained (drained : b.cfg.health = .drained)
    (asks : Health.ofCode (bits v.toNat 0 3) = some .flagged) : fsHealthWrite v b = setHealth b .flagged := by
  rw [fsHealthWrite, drained, asks]

theorem fsHealthWrite_permanent (drained : b.cfg.health = .drained) (asks : Health.ofCode (bits v.toNat 0 3) = some .service)
    (permanent : somePermanent b = true) : fsHealthWrite v b = b := by
  rw [fsHealthWrite, drained, asks]
  exact if_pos permanent

theorem fsHealthWrite_releases (drained : b.cfg.health = .drained) (asks : Health.ofCode (bits v.toNat 0 3) = some .service)
    (none : somePermanent b = false) : fsHealthWrite v b = toService b := by
  rw [fsHealthWrite, drained, asks]
  exact if_neg (by simp [none])

theorem fsHealthWrite_ends_survey (survey : b.cfg.health = .survey) (asks : Health.ofCode (bits v.toNat 0 3) = some .drained) :
    fsHealthWrite v b = surveyOver b := by
  rw [fsHealthWrite, survey, asks]

/-- Table 12.7 gives the firmware these six transitions and no other. -/
theorem fsHealthWrite_ignored (other : (b.cfg.health, Health.ofCode (bits v.toNat 0 3)) ∉ [(Health.service, some .draining),
    (.service, some .flagged), (.drained, some .survey), (.drained, some .flagged), (.drained, some Health.service),
    (.survey, some .drained)]) : fsHealthWrite v b = b := by
  unfold fsHealthWrite
  split
  case h_7 => rfl
  all_goals
    rename_i health code
    exact absurd (by simp [health, code]) other

end Transitions

/-! ### DRAIN_ORDER, HEDGE_WRITE (R355, R357) -/

section Orders
variable {b : Block} {k : Cfg} {d : Dyn}

theorem drainOrder_orders (service : b.cfg.health = .service) (asked : b.cfg.drain.isSome = true) :
    drainOrder b = enterDraining b := if_pos (by simp [service, asked])

theorem drainOrder_stays (stays : b.cfg.health ≠ .service ∨ b.cfg.drain = none) : drainOrder b = b := by
  refine if_neg ?_
  rcases stays with health | unasked
  · simp [health]
  · simp [unasked]

theorem hedgeWrite_writes (edge : Bool) (i : Nat) (set : Bool) (opened : k.health = .draining ∨ k.health = .survey) :
    hedgeWrite edge i set k d = closeHedged (hedgeBit k d edge i set) := if_pos (by simpa using opened)

theorem hedgeWrite_ignored (edge : Bool) (i : Nat) (set : Bool) (draining : k.health ≠ .draining) (survey : k.health ≠ .survey) :
    hedgeWrite edge i set k d = d := if_neg (by simp [draining, survey])

end Orders

/-! ### DRAIN_WAIT_EXPIRY and DRAINED (R354, R355, R358) -/

section DrainEnds
variable {b : Block}

/-- The drain has lasted DRAIN_WAIT microseconds, and DRAIN_WAIT is a limit. -/
def DrainExpired (b : Block) : Prop :=
  b.cfg.health = .draining ∧ b.cfg.drainWait ≠ 0 ∧
    reached b.d.ts ((b.cfg.drain.map (·.since)).getD 0 + w64 (b.cfg.drainWait.toNat * 1000)) = true

theorem drainWaitExpiry_cancels (expired : DrainExpired b) : drainWaitExpiry b = drainTell
    { b with d := settleAll ((launchesInFlight b.d).foldl (fun d e => failLaunch d e.1 .cancelled) b.d) } := by
  obtain ⟨draining, limit, due⟩ := expired
  exact if_neg (by simpa [draining] using ⟨limit, due⟩)

theorem drainWaitExpiry_stays (unexpired : ¬ DrainExpired b) : drainWaitExpiry b = b := by
  refine if_pos ?_
  by_contra due
  exact unexpired (by simpa [DrainExpired, and_assoc] using due)

/-- A draining chip with no launch left and only ended packets in its ports. -/
def DrainEmpty (b : Block) : Prop := b.cfg.health = .draining ∧ noLaunch b.d = true ∧ portsTerminal b.d = true

theorem drained_empty (empty : DrainEmpty b) : drained b = flagPermanent (setHealth (drainTell b) .drained) := by
  obtain ⟨draining, launches, ports⟩ := empty
  exact if_pos (by simp [draining, launches, ports])

theorem drained_stays (busy : ¬ DrainEmpty b) : drained b = b := by
  refine if_neg fun empty => busy ?_
  simpa [DrainEmpty, and_assoc] using empty

theorem flagPermanent_flags (fw : b.cfg.fwRuns = true) (permanent : somePermanent b = true) :
    flagPermanent b = setHealth b .flagged := if_pos (by simp [fw, permanent])

theorem flagPermanent_keeps (none : b.cfg.fwRuns = false ∨ somePermanent b = false) : flagPermanent b = b :=
  if_neg (by rcases none with halted | none <;> simp [*])

end DrainEnds

/-! ### The commands -/

section HealthCommands
variable {s : State}

theorem exec_fsHealthWrite (fw : s.m.cfg.fwRuns = true) (v : W32) :
    exec (.fsHealthWrite v) s = .next (s.servedBlock (fsHealthWrite v s.block)) :=
  runFwBlock_open fw (fun b => tidy (fsHealthWrite v b))

theorem exec_drainOrder (h : s.firmware) : exec .drainOrder s = .next (s.servedBlock (drainOrder s.block)) := runSrvFwBlock_open h _

theorem exec_hedgeWrite (h : s.firmware) (edge : Bool) (i : Nat) (set : Bool) :
    exec (.hedgeWrite edge i set) s = .next (s.served (hedgeWrite edge i set s.m.cfg s.fresh)) := runSrvFw_open h _

theorem exec_drainWaitExpiry (h : s.serving) : exec .drainWaitExpiry s = .next (s.servedBlock (drainWaitExpiry s.block)) :=
  runSrvBlock_open h _

theorem exec_drained (h : s.serving) : exec .drained s = .next (s.servedBlock (drained s.block)) := runSrvBlock_open h _

end HealthCommands

/-! ### The obligation -/

/-- Settles O24: FS_HEALTH by the state and the value, a drain order by what was asked for, a hedge bit by the state, the wait by the time, and
the end of a drain by what is left and by the classifications. -/
theorem drainAndHealth : Obligations.DrainAndHealth := by
  unfold Obligations.DrainAndHealth
  intro s health
  refine ⟨fun fw v => ?_, fun h => ?_, fun h => ?_⟩
  · intro code answers
    have answer : ∀ {b : Block}, fsHealthWrite v s.block = b → answers b := fun write => write ▸ exec_fsHealthWrite fw v
    exact ⟨fun service asks => answer (fsHealthWrite_drains service asks),
      fun service asks phase => answer (fsHealthWrite_flags_service service asks phase),
      fun service asks phase => answer (fsHealthWrite_service_booted service asks phase),
      fun drained asks => answer (fsHealthWrite_surveys drained asks),
      fun drained asks => answer (fsHealthWrite_flags_drained drained asks),
      fun drained asks permanent => answer (fsHealthWrite_permanent drained asks permanent),
      fun drained asks none => answer (fsHealthWrite_releases drained asks none),
      fun survey asks => answer (fsHealthWrite_ends_survey survey asks),
      fun other => answer (fsHealthWrite_ignored other)⟩
  · have orders : ∀ {b : Block}, drainOrder s.block = b → exec .drainOrder s = .next (s.servedBlock b) :=
      fun order => order ▸ exec_drainOrder h
    have hedges : ∀ {edge : Bool} {i : Nat} {set : Bool} {d : Dyn}, hedgeWrite edge i set s.m.cfg s.fresh = d →
        exec (.hedgeWrite edge i set) s = .next (s.served d) := fun hedge => hedge ▸ exec_hedgeWrite h _ _ _
    exact ⟨fun service asked => orders (drainOrder_orders service asked), fun stays => orders (drainOrder_stays stays),
      fun edge i set opened => hedges (hedgeWrite_writes edge i set opened),
      fun edge i set draining survey => hedges (hedgeWrite_ignored edge i set draining survey)⟩
  · intro since expires empty b
    have waits : ∀ {b : Block}, drainWaitExpiry s.block = b → exec .drainWaitExpiry s = .next (s.servedBlock b) :=
      fun wait => wait ▸ exec_drainWaitExpiry h
    have ends : ∀ {b : Block}, drained s.block = b → exec .drained s = .next (s.servedBlock b) := fun ended => ended ▸ exec_drained h
    exact ⟨fun expired => waits (drainWaitExpiry_cancels expired), fun unexpired => waits (drainWaitExpiry_stays unexpired),
      fun empty fw permanent => ends ((drained_empty (b := s.block) empty).trans (flagPermanent_flags fw permanent)),
      fun empty none => ends ((drained_empty (b := s.block) empty).trans (flagPermanent_keeps none)),
      fun busy => ends (drained_stays busy)⟩

end Sys2Proof.Machine

/-! ## Surveys, and the orders of the management port (R355, R359 to R364, R406, R447) -/

namespace Sys2Proof.Machine

/-! ### SURVEY_END (R360 to R364) -/

section SurveyEnds
variable {b : Block} (failed : List (Nat × Byte × W64)) (passed : List Nat)

/-- The units whose parts SURVEY_END takes: all of them, and in a second survey those tested again. -/
def surveyTested (b : Block) (u : Nat) : Bool := !decide (b.cfg.survey.pass = 2) || b.d.fs.again.contains u

/-- The block once what SURVEY_END reports has been recorded, and every unit's history has taken what the survey found. -/
def surveyRecorded (failed : List (Nat × Byte × W64)) (passed : List Nat) (b : Block) : Block :=
  { b with d := surveyHistory ((passed.filter (surveyTested b)).foldl unitPassed
      ((failed.filter (fun f => surveyTested b f.1)).foldl (surveyFail b.cfg) b.d)) }

theorem surveyEnd_stays (stays : b.cfg.health ≠ .survey ∨ mechWaits b.d 0x0D = true) : surveyEnd failed passed b = b := by
  refine if_pos ?_
  rcases stays with health | waits
  · simp [health]
  · simp [waits]

/-- Only the survey and the drain of the configuration side change at the start of a survey, and no hedge rests on them. -/
theorem hedgeOthers_startSurvey (b : Block) (full : Bool) (pass : Nat) (again : List Nat) (d : Dyn) (bad : List Nat) :
    hedgeOthers (startSurvey b full pass again).cfg d bad = hedgeOthers b.cfg d bad := rfl

section Ending
variable (survey : b.cfg.health = .survey) (free : mechWaits b.d 0x0D = false)
include survey free

theorem surveyEnd_ending : surveyEnd failed passed b =
    if !decide (b.cfg.survey.pass = 2) && !(surveyRecorded failed passed b).d.fs.failed.isEmpty then
      let again := startSurvey (surveyRecorded failed passed b) true 2 (surveyRecorded failed passed b).d.fs.failed
      { again with d := hedgeOthers again.cfg again.d (surveyRecorded failed passed b).d.fs.failed }
    else
      let ended := flagPermanent (surveyOver (surveyRecorded failed passed b))
      if decide (b.cfg.survey.pass = 2) && ended.cfg.health ≠ .flagged then toService ended else ended :=
  if_neg (by simp [survey, free])

theorem surveyEnd_again (first : b.cfg.survey.pass ≠ 2) (bad : (surveyRecorded failed passed b).d.fs.failed ≠ []) :
    surveyEnd failed passed b =
      let again := startSurvey (surveyRecorded failed passed b) true 2 (surveyRecorded failed passed b).d.fs.failed
      { again with d := hedgeOthers b.cfg again.d (surveyRecorded failed passed b).d.fs.failed } := by
  rw [surveyEnd_ending failed passed survey free, if_pos (by simp [first, bad])]
  simp only [hedgeOthers_startSurvey]
  rfl

theorem surveyEnd_over (last : b.cfg.survey.pass = 2 ∨ (surveyRecorded failed passed b).d.fs.failed = []) :
    surveyEnd failed passed b =
      let ended := flagPermanent (surveyOver (surveyRecorded failed passed b))
      if decide (b.cfg.survey.pass = 2) && ended.cfg.health ≠ .flagged then toService ended else ended := by
  rw [surveyEnd_ending failed passed survey free, if_neg]
  rcases last with second | none
  · simp [second]
  · simp [none]

theorem surveyEnd_flags (fw : b.cfg.fwRuns = true)
    (last : b.cfg.survey.pass = 2 ∨ (surveyRecorded failed passed b).d.fs.failed = [])
    (permanent : somePermanent (surveyOver (surveyRecorded failed passed b)) = true) :
    surveyEnd failed passed b = setHealth (surveyOver (surveyRecorded failed passed b)) .flagged := by
  have run : (surveyOver (surveyRecorded failed passed b)).cfg.fwRuns = true := fw
  rw [surveyEnd_over failed passed survey free last, flagPermanent_flags run permanent]
  exact if_neg (by simp [setHealth])

theorem surveyEnd_drained (first : b.cfg.survey.pass ≠ 2) (none : (surveyRecorded failed passed b).d.fs.failed = [])
    (usable : somePermanent (surveyOver (surveyRecorded failed passed b)) = false) :
    surveyEnd failed passed b = surveyOver (surveyRecorded failed passed b) := by
  rw [surveyEnd_over failed passed survey free (.inr none), flagPermanent_keeps (.inr usable)]
  exact if_neg (by simp [first])

theorem surveyEnd_releases (second : b.cfg.survey.pass = 2)
    (usable : somePermanent (surveyOver (surveyRecorded failed passed b)) = false) :
    surveyEnd failed passed b = toService (surveyOver (surveyRecorded failed passed b)) := by
  rw [surveyEnd_over failed passed survey free (.inl second), flagPermanent_keeps (.inr usable)]
  exact if_pos (by simp [second, surveyOver, setHealth])

end Ending
end SurveyEnds

/-! ### The orders of the management port (R355, R359, R406, R447) -/

section Orders
variable {b : Block}

theorem orElseWake_asleep (order : Option Bool) (f : Block → Block) (asleep : b.cfg.doze ≠ .awake) :
    orElseWake order b f = wake { b with d := { b.d with held := b.d.held ++ [.order order] } } := if_pos (by simpa using asleep)

theorem orElseWake_awake (order : Option Bool) (f : Block → Block) (awake : b.cfg.doze = .awake) : orElseWake order b f = f b :=
  if_neg (by simp [awake])

theorem mgtDrain_asks (booted : b.cfg.phase = .booted) (service : b.cfg.health = .service) :
    mgtDrain b = askDrain b none none [] := if_pos (by simp [booted, service])

theorem mgtDrain_ignored (refused : b.cfg.phase ≠ .booted ∨ b.cfg.health ≠ .service) : mgtDrain b = b :=
  if_neg (by rcases refused with booting | health <;> simp [*])

theorem mgtSurvey_booted (full : Bool) (booted : b.cfg.phase = .booted) : mgtSurvey full b = surveyStart full b :=
  if_pos (by simp [booted])

theorem mgtSurvey_booting (full : Bool) (booting : b.cfg.phase ≠ .booted) : mgtSurvey full b = b := if_neg (by simp [booting])

theorem surveyStart_asks (full : Bool) (storage : b.cfg.boot.surveySize ≠ 0) (service : b.cfg.health = .service) :
    surveyStart full b = askDrain b (some full) none [] := by
  rw [surveyStart, if_neg storage, service]

theorem surveyStart_starts (full : Bool) (storage : b.cfg.boot.surveySize ≠ 0) (drained : b.cfg.health = .drained) :
    surveyStart full b = setHealth (startSurvey b full 1 []) .survey := by
  rw [surveyStart, if_neg storage, drained]

theorem surveyStart_refused (full : Bool)
    (refused : b.cfg.boot.surveySize = 0 ∨ (b.cfg.health ≠ .service ∧ b.cfg.health ≠ .drained)) :
    surveyStart full b = surveyRefused b := by
  unfold surveyStart
  split
  · rfl
  · rename_i storage
    obtain ⟨service, drained⟩ := refused.resolve_left storage
    split
    · exact absurd ‹_› service
    · exact absurd ‹_› drained
    · rfl

end Orders

/-! ### The commands -/

theorem exec_surveyEnd {s : State} (h : s.firmware) (failed : List (Nat × Byte × W64)) (passed : List Nat) :
    exec (.surveyEnd failed passed) s = .next (s.servedBlock (surveyEnd failed passed s.block)) := runSrvFwBlock_open h _

theorem exec_mgtDrain {s : State} (run : s.m.cfg.mgtRuns = true) :
    exec .mgtDrain s = .next { s with m := orElseWake none s.block mgtDrain } := runMgt_open run (fun b => orElseWake none b mgtDrain)

theorem exec_mgtSurvey {s : State} (run : s.m.cfg.mgtRuns = true) (full : Bool) :
    exec (if full then .mgtFullSurvey else .mgtQuickSurvey) s = .next { s with m := orElseWake (some full) s.block (mgtSurvey full) } := by
  cases full
  · exact runMgt_open run (fun b => orElseWake (some false) b (mgtSurvey false))
  · exact runMgt_open run (fun b => orElseWake (some true) b (mgtSurvey true))

/-! ### The obligation -/

/-- Settles O25: SURVEY_END by its pass, what failed and what is classified permanent, an order of the management port by DOZE, the boot phase
(before boot is complete it does nothing, log 41), the health and the reserved storage. -/
theorem surveyAndOrders : Obligations.SurveyAndOrders := by
  unfold Obligations.SurveyAndOrders
  refine ⟨fun s failed passed h => ?_, fun s run => ?_⟩
  · intro second tested d b bad answers
    have answer : ∀ {b : Block}, surveyEnd failed passed s.block = b → answers b := fun ends => ends ▸ exec_surveyEnd h failed passed
    exact ⟨fun stays => answer (surveyEnd_stays failed passed stays), fun health free =>
      ⟨fun first bad => answer (surveyEnd_again failed passed health free first bad),
        fun last permanent => answer (surveyEnd_flags failed passed health free h.2 last permanent),
        fun first none usable => answer (surveyEnd_drained failed passed health free first none usable),
        fun second usable => answer (surveyEnd_releases failed passed health free second usable)⟩⟩
  · intro survey held
    have drains : ∀ {b : Block}, orElseWake none s.block mgtDrain = b → exec .mgtDrain s = .next { s with m := b } :=
      fun order => order ▸ exec_mgtDrain run
    have surveys : ∀ {full : Bool} {b : Block}, orElseWake (some full) s.block (mgtSurvey full) = b →
        survey full = .next { s with m := b } := fun order => order ▸ exec_mgtSurvey run _
    refine ⟨fun asleep => ⟨drains (orElseWake_asleep none _ asleep), fun full => surveys (orElseWake_asleep (some full) _ asleep)⟩,
      fun awake => ?_⟩
    have drain_of : ∀ {b : Block}, mgtDrain s.block = b → exec .mgtDrain s = .next { s with m := b } :=
      fun drain => drains ((orElseWake_awake (b := s.block) none _ awake).trans drain)
    have survey_of : ∀ {full : Bool} {b : Block}, mgtSurvey full s.block = b → survey full = .next { s with m := b } :=
      fun start => surveys ((orElseWake_awake (b := s.block) _ _ awake).trans start)
    refine ⟨fun booting => ⟨drain_of (mgtDrain_ignored (.inl booting)), fun full => survey_of (mgtSurvey_booting full booting)⟩,
      fun booted => ?_⟩
    have start_of : ∀ {full : Bool} {b : Block}, surveyStart full s.block = b → survey full = .next { s with m := b } :=
      fun start => survey_of ((mgtSurvey_booted (b := s.block) _ booted).trans start)
    exact ⟨fun service => drain_of (mgtDrain_asks booted service), fun health => drain_of (mgtDrain_ignored (.inr health)),
      fun full storage service => start_of (surveyStart_asks full storage service),
      fun full storage drained => start_of (surveyStart_starts full storage drained),
      fun full refused => start_of (surveyStart_refused full refused)⟩

end Sys2Proof.Machine

/-! ## The step, and the gates of the commands (R391, R399, R405, R423) -/

namespace Sys2Proof.Machine

/-! ### What a command can change -/

/-- Every gate answers a next state, with another block alone: no command sees the waiting commands, and none ends in a fault or a refusal. -/
theorem exec_changes_block (c : Instr) (s : State) : ∃ b, exec c s = .next { s with m := b } := by
  cases c with
  | cplRingConfig c base => cases base <;> exact ⟨_, rfl⟩
  | replayCfgWrite base => cases base <;> exact ⟨_, rfl⟩
  | registerWrite at_ => cases at_ <;> exact ⟨_, rfl⟩
  | registerRead at_ => cases at_ <;> exact ⟨_, rfl⟩
  | _ => exact ⟨_, rfl⟩

theorem exec_next (c : Instr) (s : State) : ∃ t, exec c s = .next t ∧ t.pending = s.pending := by
  obtain ⟨b, changed⟩ := exec_changes_block c s
  exact ⟨_, changed, rfl⟩

theorem exec_keeps_pending {c : Instr} {s t : State} (e : exec c s = .next t) : t.pending = s.pending := by
  obtain ⟨b, changed⟩ := exec_changes_block c s
  cases changed.symm.trans e
  rfl

/-! ### Shut gates -/

/-- The gates of the data plane, of its duplicated parts and of the firmware that acts on the served planes are shut together. -/
theorem exec_shut {c : Instr} {s : State} (served : IsServed c) (shut : s.m.cfg.serving = false) : exec c s = .next (s.with s.fresh) := by
  cases c with
  | nop | loadGraph | graphImageRead | unloadGraph | patchGraph | launch | recordEvent | recordEventApply | waitEvent
  | waitEventTimeout | signal | fence | writeTable | setMode | completionWriteAck | irqHoldExpiry | linkKeyApply | inspect
  | releaseWatchFire | sectionEndFire | expiryFire | admissionFire | startScan | descriptorFill | childLaunch | affinityWaitExpiry
  | takenReport | creditReturn | waitTimeout | conservationSweep | launchCompletionReturn | checkIntervalClose | intervalCompare
  | scrubRead | dupCompareMismatch | rebaseSweep | rebase | rebaseComplete | heartbeat | hang | read | idleTimeout | mark | rewind
  | release | send | tokenArrival | tokenAck | claim | unclaim | recv | recvTimeout | raise | take | takeTimeout | crAcquire
  | crCommit | crWait | crWaitTimeout | crDrain | gazetteerLookup | tileBlockAck | stagingSlotTake | statEnd | samplingTick
  | lossRecord | traceSpillWrite | replayDrain | counterBankFallow | muBankFallow | muBankWake | fallowAccess | linkFrame
  | linkRetransmitRequest | linkConfirmation | linkConfirmSend | linkConfirmTimeout | linkUpChange | writeAck => exact runSrv_shut shut _
  | ringFetchRead | ringFetchReturn | completionEntry | dec | evt | decEvt | cancel | edgeWalk | readyEntryEnter | placement
  | packetNotice | completionReport | contributionApply | resultDelivery | logitChunk | tokenScore | statControlBlock | rowFinish
  | evalRequest | evalResult => exact runPart_shut shut _
  | serviceStart | serviceStop | openCtx | close | query | quiesce | undefinedMessage | ltReqPost | ltRetPop | hedgeWrite | fePost
  | serviceRequestTake | stepBoundary | batchTableAck | stepCompletion => exact runSrvFw_shut shut _
  | setModeApply | drainWaitExpiry | drained | dozeEntry => exact runSrvBlock_shut shut _
  | drainOrder | surveyEnd | monDrain | monSurveyQuick | monSurveyFull => exact runSrvFwBlock_shut shut _
  | _ => exact absurd served id

/-! ### The obligations -/

/-- Settles O1: the queue of a step holds the command in front. -/
theorem stepRunsFrontCommand : Obligations.StepRunsFrontCommand := by
  unfold Obligations.StepRunsFrontCommand
  intro c rest s front
  rw [step, front]

/-- Settles O2: every command leaves another block and the queue as it is (that no command faults or is refused is the model's choice,
logs 5 and 88). -/
theorem everyCommandAnswersNext : Obligations.EveryCommandAnswersNext := exec_next

/-- Settles O4: the gate of each such command is shut. -/
theorem nothingServedOutsideService : Obligations.NothingServedOutsideService := fun _ _ => exec_shut

/-- Settles O60: the queue is kept by every command, the configuration side by those that do not write it. -/
theorem configurationKept : Obligations.ConfigurationKept := by
  unfold Obligations.ConfigurationKept
  intro c s t e
  exact ⟨exec_keeps_pending e, fun kept => exec_keeps_cfg kept e⟩

end Sys2Proof.Machine

/-! ## Freeze, DOZE and the wake (R405 to R408, R423, R424, R449) -/

namespace Sys2Proof.Machine

theorem Cfg.mgtRuns_iff {k : Cfg} : k.mgtRuns = true ↔ k.inReset = false ∧ k.frozen = false := by simp [Cfg.mgtRuns]

/-! ### The wake (R406) -/

section Waking
variable {b : Block}

theorem wake_dozing (dozing : b.cfg.doze = .dozing) : wake b = { cfg := { b.cfg with doze := .waking }, d := gateReq b.d .doze false } :=
  if_pos dozing

theorem wake_ignored (other : b.cfg.doze ≠ .dozing) : wake b = b := if_neg other

theorem dozeWakeSource_asleep (run : b.cfg.mgtRuns = true) (dozes : b.cfg.doze ≠ .awake) : dozeWakeSource b = wake b := by
  obtain ⟨run, warm⟩ := Cfg.mgtRuns_iff.mp run
  exact if_pos (by simp [Cfg.asleep, run, warm, dozes])

theorem dozeWakeSource_dozing (run : b.cfg.mgtRuns = true) (dozing : b.cfg.doze = .dozing) :
    dozeWakeSource b = { cfg := { b.cfg with doze := .waking }, d := gateReq b.d .doze false } :=
  (dozeWakeSource_asleep run (by simp [dozing])).trans (wake_dozing dozing)

theorem dozeWakeSource_waking (run : b.cfg.mgtRuns = true) (waking : b.cfg.doze = .waking) : dozeWakeSource b = b :=
  (dozeWakeSource_asleep run (by simp [waking])).trans (wake_ignored (by simp [waking]))

theorem dozeWakeSource_awake (awake : b.cfg.doze = .awake) : dozeWakeSource b = { b with cfg := { b.cfg with dozeReq := false } } :=
  if_neg (by simp [Cfg.asleep, awake])

end Waking

section WakeSources
variable {s : State}

theorem runAwakeOrNot_booting (booting : s.m.cfg.phase ≠ .booted) (f : Block → Block) : runAwakeOrNot f s = .next (s.with s.fresh) := by
  simp [runAwakeOrNot, runBlock_eq, booting, State.with, State.block]

variable (run : s.m.cfg.mgtRuns = true)
include run

theorem runAwakeOrNot_booted (booted : s.m.cfg.phase = .booted) (f : Block → Block) :
    runAwakeOrNot f s = .next { s with m := f s.block } := by
  simp [runAwakeOrNot, runBlock_eq, run, booted]

/-- The controller's wake and any other wake source are one. -/
theorem exec_wakeSources (booted : s.m.cfg.phase = .booted) :
    exec .dozeWakeSource s = .next { s with m := dozeWakeSource s.block } ∧
      exec .mgtWake s = .next { s with m := dozeWakeSource s.block } :=
  ⟨runAwakeOrNot_booted run booted _, runAwakeOrNot_booted run booted _⟩

end WakeSources

/-! ### FREEZE and its release (R407, R423, R424) -/

section Freezing
variable {b : Block}

theorem freeze_ignored (no : b.cfg.inReset = true ∨ b.cfg.frozen = true) : freeze b = b := if_pos (by simpa using no)

theorem freeze_awake (run : b.cfg.inReset = false) (warm : b.cfg.frozen = false) (awake : b.cfg.doze = .awake) :
    freeze b = { b with cfg := { b.cfg with frozen := true } } :=
  (if_neg (by simp [run, warm])).trans (if_pos awake)

theorem freeze_waits (run : b.cfg.inReset = false) (warm : b.cfg.frozen = false) (dozes : b.cfg.doze ≠ .awake) :
    freeze b = wake { b with cfg := { b.cfg with freezeWait := true } } :=
  (if_neg (by simp [run, warm])).trans (if_neg dozes)

theorem freeze_waking (run : b.cfg.inReset = false) (warm : b.cfg.frozen = false) (waking : b.cfg.doze = .waking) :
    freeze b = { b with cfg := { b.cfg with freezeWait := true } } :=
  (freeze_waits run warm (by simp [waking])).trans (wake_ignored (by simp [waking]))

theorem freeze_dozing (run : b.cfg.inReset = false) (warm : b.cfg.frozen = false) (dozing : b.cfg.doze = .dozing) :
    freeze b = { cfg := { b.cfg with freezeWait := true, doze := .waking }, d := gateReq b.d .doze false } :=
  (freeze_waits run warm (by simp [dozing])).trans (wake_dozing dozing)

theorem freezeRelease_frozen (frozen : b.cfg.frozen = true) :
    freezeRelease b = serveHeldHost { cfg := { b.cfg with frozen := false }, d := tsResume b.d } := if_pos frozen

theorem freezeRelease_waiting (warm : b.cfg.frozen = false) : freezeRelease b = { b with cfg := { b.cfg with freezeWait := false } } :=
  if_neg (ne_true_of_eq_false warm)

end Freezing

/-! ### DOZE_ENTRY (R405) -/

/-- DOZE is enabled and asked for, no freeze waits, nothing is left to do, and the plane has reported idle for long enough. -/
def DozeReady (b : Block) : Prop :=
  b.cfg.dozeEn = true ∧ b.cfg.dozeReq = true ∧ b.cfg.freezeWait = false ∧ dataIdle b.cfg b.d = true ∧ fwIdle b.cfg b.d = true ∧
    b.d.held = [] ∧ passed b.d b.d.pw.idleFrom b.cfg.dozeIdle.toNat = true ∧ b.d.ch.expiry.any (fun w => w.found.isSome) = false ∧
    b.d.ch.admission.any (fun w => w.found.isSome) = false

section Entering
variable {b : Block}

theorem dozeReady_iff : (!b.cfg.dozeEn || !b.cfg.dozeReq || b.cfg.freezeWait || !dataIdle b.cfg b.d || !fwIdle b.cfg b.d || !b.d.held.isEmpty
    || !passed b.d b.d.pw.idleFrom b.cfg.dozeIdle.toNat || b.d.ch.expiry.any (fun w => w.found.isSome)
    || b.d.ch.admission.any (fun w => w.found.isSome)) = false ↔ DozeReady b := by
  simp only [DozeReady, Bool.or_eq_false_iff, Bool.not_eq_false', List.isEmpty_iff, and_assoc]

theorem dozeEntry_sleeps (ready : DozeReady b) :
    dozeEntry b = { cfg := { b.cfg with doze := .dozing }, d := gateReq (traceState b.cfg b.d 1 1 0) .doze true } :=
  if_neg (ne_true_of_eq_false (dozeReady_iff.mpr ready))

theorem dozeEntry_stays (busy : ¬ DozeReady b) : dozeEntry b = b :=
  if_pos (Bool.of_not_eq_false (mt dozeReady_iff.mp busy))

end Entering

/-- Nothing is set going in a block whose clocks are gated. -/
theorem tidy_dozing {b : Block} (dozes : b.cfg.doze ≠ .awake) : tidy b = b :=
  if_neg (by simp [Cfg.serving, Cfg.clocked, dozes])

theorem exec_dozeEntry {s : State} (h : s.serving) : exec .dozeEntry s = .next (s.servedBlock (dozeEntry s.block)) := runSrvBlock_open h _

/-! ### WAKE_COMPLETE (R406, R407) -/

/-- The block with its clocks running again: what the wake sets going has run, and the held accesses are applied. -/
def clocksRestored (b : Block) : Block :=
  serveHeldHost (tidy { cfg := { b.cfg with doze := .awake, dozeReq := false }, d := traceState b.cfg b.d 2 0 1 })

section WakeEnds
variable {b : Block}

theorem wakeComplete_ignored (no : b.cfg.doze ≠ .waking ∨ gateAcked b.d .doze = false) : wakeComplete b = b :=
  if_pos (by rcases no with doze | unacked <;> simp [*])

section Restored
variable (run : b.cfg.mgtRuns = true) (waking : b.cfg.doze = .waking) (acked : gateAcked b.d .doze = true)
include run waking acked

theorem wakeComplete_restored : wakeComplete b =
    if (clocksRestored b).cfg.freezeWait = true then
      { clocksRestored b with cfg := { (clocksRestored b).cfg with freezeWait := false, frozen := true } }
    else clocksRestored b := by
  obtain ⟨run, warm⟩ := Cfg.mgtRuns_iff.mp run
  exact if_neg (by simp [run, warm, waking, acked])

theorem wakeComplete_runs (free : (clocksRestored b).cfg.freezeWait = false) : wakeComplete b = clocksRestored b :=
  (wakeComplete_restored run waking acked).trans (if_neg (ne_true_of_eq_false free))

theorem wakeComplete_freezes (waits : (clocksRestored b).cfg.freezeWait = true) : wakeComplete b =
    { cfg := { (clocksRestored b).cfg with freezeWait := false, frozen := true }, d := (clocksRestored b).d } :=
  (wakeComplete_restored run waking acked).trans (if_pos waits)

end Restored
end WakeEnds

/-! ### PWR_GATE_ACK (R408, R449) -/

section GateAcks
variable {k : Cfg} {d : Dyn} {g : Gate}

/-- No request of the island waits for its acknowledgement any longer. -/
def gateDone (d : Dyn) (g : Gate) : Dyn := { d with pw := { d.pw with gates := d.pw.gates.filter (fun x => x.1 ≠ g) } }

theorem pwrGateAck_unasked (acked : gateAcked d g = true) : pwrGateAck g k d = d := if_pos acked

theorem pwrGateAck_ends (asked : gateAcked d g = false) (other : g ≠ .counterBanks ∨ d.pw.cbWaking = false) :
    pwrGateAck g k d = gateDone d g :=
  (if_neg (ne_true_of_eq_false asked)).trans (if_neg (by rcases other with gate | still <;> simp [*]))

theorem pwrGateAck_powers (asked : gateAcked d .counterBanks = false) (waking : d.pw.cbWaking = true) :
    pwrGateAck .counterBanks k d = counterBanksWake k (gateDone d .counterBanks) :=
  (if_neg (ne_true_of_eq_false asked)).trans (if_pos (by simp [waking]))

end GateAcks

theorem exec_pwrGateAck {s : State} (run : s.m.cfg.mgtRuns = true) (g : Gate) :
    exec (.pwrGateAck g) s = .next (s.with (pwrGateAck g s.m.cfg s.fresh)) := runMgt_open run (fun b => onD b (pwrGateAck g))

/-! ### The obligation -/

/-- Settles O33: FREEZE and its release by the resets, the freeze and the doze, the entry by its conditions, a wake source by the doze (before boot
is complete it does nothing, log 41; awake it takes the firmware's request back, log 63), the end of the wake by its acknowledgement and
the freeze that waits, and an acknowledgement by what asked for it. -/
theorem freezeAndDoze : Obligations.FreezeAndDoze := by
  unfold Obligations.FreezeAndDoze
  refine ⟨fun s => ?_, fun s h => ?_, fun s run => ?_⟩
  · intro k f
    have freezes : ∀ {b : Block}, freeze s.block = b → exec .freeze s = .next { s with m := b } := fun leaves => leaves ▸ rfl
    have releases : ∀ {b : Block}, freezeRelease s.block = b → exec .freezeRelease s = .next { s with m := b } := fun leaves => leaves ▸ rfl
    exact ⟨fun no => freezes (freeze_ignored no),
      fun run warm => ⟨fun awake => freezes (freeze_awake run warm awake),
        fun waking => freezes (freeze_waking (b := s.block) run warm waking),
        fun dozing => freezes (freeze_dozing (b := s.block) run warm dozing)⟩,
      fun frozen => releases (freezeRelease_frozen frozen), fun warm => releases (freezeRelease_waiting warm)⟩
  · intro k d ready
    refine ⟨fun idle => ?_, fun busy => ?_⟩
    · rw [exec_dozeEntry h, dozeEntry_sleeps (b := s.block) idle, State.servedBlock, tidy_dozing (by simp)]
      rfl
    · rw [exec_dozeEntry h, dozeEntry_stays (b := s.block) busy]
      rfl
  · intro k both
    have boths : k.phase = .booted → ∀ {b : Block}, dozeWakeSource s.block = b → both { s with m := b } :=
      fun booted _ leaves => leaves ▸ exec_wakeSources run booted
    have completes : ∀ {b : Block}, wakeComplete s.block = b → exec .wakeComplete s = .next { s with m := b } := fun leaves => leaves ▸ rfl
    have acks : ∀ {g : Gate} {d : Dyn}, pwrGateAck g k s.fresh = d → exec (.pwrGateAck g) s = .next (s.with d) :=
      fun leaves => leaves ▸ exec_pwrGateAck run _
    refine ⟨fun booted => ⟨fun dozing => boths booted (dozeWakeSource_dozing (b := s.block) run dozing),
        fun waking => boths booted (dozeWakeSource_waking (b := s.block) run waking),
        fun awake => boths booted (dozeWakeSource_awake (b := s.block) awake)⟩,
      fun booting => ⟨runAwakeOrNot_booting booting _, runAwakeOrNot_booting booting _⟩,
      fun waking acked => ⟨fun free => completes (wakeComplete_runs (b := s.block) run waking acked free),
        fun waits => completes (wakeComplete_freezes (b := s.block) run waking acked waits)⟩,
      fun no => completes (wakeComplete_ignored no), fun g acked => acks (pwrGateAck_unasked acked),
      fun g asked => ⟨fun other => acks (pwrGateAck_ends (d := s.fresh) asked other), ?_⟩⟩
    rintro rfl waking
    exact acks (pwrGateAck_powers (d := s.fresh) asked waking)

end Sys2Proof.Machine

/-! ## Resets (R368, R391, R392, R399, Table 14.1) -/

namespace Sys2Proof.Machine

/-! ### The running side after a reset -/

/-- Dropping the held accesses only answers their reads. -/
theorem dropHeld_frame (d : Dyn) : ∃ o, dropHeld d = { d with held := [], outs := o } := by
  refine List.foldlRecOn d.held _ (motive := fun e : Dyn => ∃ o, e = { d with held := [], outs := o }) ⟨d.outs, rfl⟩ ?_
  rintro _ ⟨o, rfl⟩ a -
  cases a with
  | read off size rid => exact ⟨o ++ [.hostRead rid 0], rfl⟩
  | write | order => exact ⟨o, rfl⟩

/-- The reset values of the running side, but for the answers to held reads, the timestamp and the count of free values used. -/
def resetClean (d : Dyn) : Dyn := { Dyn.reset with outs := (dropHeld d).outs, ts := d.ts, free := d.free }

theorem resetDyn_all (d : Dyn) : resetDyn d true = resetClean d := by
  obtain ⟨o, dropped⟩ := dropHeld_frame d
  simp only [resetDyn, resetClean, dropped, if_true]

theorem resetDyn_kept (d : Dyn) : resetDyn d false =
    { resetClean d with step := d.step, fs := { Dyn.reset.fs with fseq := d.fs.fseq, recs := keepRecs d.fs.recs } } := by
  obtain ⟨o, dropped⟩ := dropHeld_frame d
  simp only [resetDyn, resetClean, dropped, Bool.false_eq_true, if_false]

/-! ### The commands -/

theorem exec_por (s : State) : exec .por s = .next { s with m := por s.block } := rfl

theorem exec_softReset (s : State) (sys : Bool) :
    exec (if sys then Instr.sysReset else Instr.dntReset) s = .next { s with m := softReset sys s.block } := by
  cases sys <;> rfl

theorem exec_resetRelease (s : State) (p y n : Bool) :
    exec (.resetRelease p y n) s = .next { s with m := resetRelease p y n s.block } := rfl

/-! ### The FLAGGED bit of the kept block (R392) -/

theorem length_leBytes (n v : Nat) : (leBytes n v).length = n := by
  induction n generalizing v with
  | zero => rfl
  | succ n ih => simp [leBytes, ih]

/-- The flags byte of the header has its lowest bit set; the CRC, which is made right again, stands before it and keeps its length. -/
theorem flagBlock_flags {blk : List Byte} (header : 20 ≤ blk.length) :
    (flagBlock blk).drop 19 = (blk.getD 19 0 ||| 1) :: blk.drop 20 := by
  unfold flagBlock
  dsimp only
  generalize crc32 _ = crc
  have front : (blk.take 19).length = 19 := List.length_take_of_le (by omega)
  have field : ((blk.take 19 ++ [blk.getD 19 0 ||| 1] ++ blk.drop 20).take 12 ++ leBytes 4 crc).length = 16 := by
    simp only [List.length_append, List.length_take, List.length_drop, List.length_singleton, length_leBytes]
    omega
  rw [List.drop_append, List.drop_eq_nil_of_le (by omega), field, List.nil_append, List.drop_drop, List.append_assoc]
  exact List.drop_left' front

theorem bbParse_flagBlock {blk : List Byte} (header : 20 ≤ blk.length) : (bbParse (flagBlock blk)).flagged = true := by
  show bit (leAt (flagBlock blk) 19 1) 0 = true
  rw [leAt, flagBlock_flags header, bit_eq_testBit]
  simp [leNat, BitVec.toNat_or]

/-! ### The block that phase 1 ends with (R396, R397) -/

section TakenBlock
variable {b : Block} {blk : List Byte}

theorem takeBlock_badFormat (format : bbFormatOk blk = false) : takeBlock b blk = bootFail b 1 := if_pos (by simp [format])

theorem takeBlock_badContent (format : bbFormatOk blk = true) (content : bbContentOk b.cfg.build blk = false) :
    takeBlock b blk = bootFail b 2 :=
  (if_neg (by simp [format])).trans (if_pos (by simp [content]))

theorem takeBlock_taken (format : bbFormatOk blk = true) (content : bbContentOk b.cfg.build blk = true) : takeBlock b blk =
    { b with cfg := { b.cfg with
        kept := some blk, boot := bbParse blk, now := (bbParse blk).time, rx := none, phase := .p2
        health := if (bbParse blk).flagged then .flagged else b.cfg.health } } :=
  (if_neg (by simp [format])).trans (if_neg (by simp [content]))

end TakenBlock

/-! ### The obligations -/

/-- Settles O31: each reset by its fields, and a release by the inputs that it names. -/
theorem resetsTaken : Obligations.ResetsTaken := by
  unfold Obligations.ResetsTaken
  intro s k clean kept
  refine ⟨?_, fun sys => ?_, fun p y n => exec_resetRelease s p y n⟩
  · rw [exec_por, por, State.block, resetDyn_all]
    rfl
  · rw [exec_softReset, softReset, State.block, resetDyn_kept]
    rfl

/-- Settles O32: the kept block has the bit set, and a block that has it and is taken makes the chip FLAGGED. -/
theorem flaggedSurvivesSoftReset : Obligations.FlaggedSurvivesSoftReset := by
  unfold Obligations.FlaggedSurvivesSoftReset
  intro s blk sys flagged kept header
  refine ⟨_, exec_softReset s sys, ?_, bbParse_flagBlock header, fun b format content => ?_⟩
  · simp [softReset, flagged, kept]
  · rw [takeBlock_taken format content]
    exact if_pos (bbParse_flagBlock header)

end Sys2Proof.Machine

/-! ## Boot (R396 to R403, R447, R448, Table 14.4) -/

namespace Sys2Proof.Machine

section BootGate
variable {k : Cfg} {p : BootPhase}

theorem Cfg.booting_of (run : k.mgtRuns = true) (phase : k.phase = p) : k.booting p = true := by simp [Cfg.booting, run, phase]

theorem Cfg.booting_other (phase : k.phase ≠ p) : k.booting p = false := by simp [Cfg.booting, phase]

end BootGate

/-! ### Phase 1: the boot configuration block (R396, R397, R447) -/

section BootBlock
variable {b : Block}

theorem mgtBootStart_empties (phase : b.cfg.booting .p1 = true) : mgtBootStart b = { b with cfg := { b.cfg with rx := some [] } } :=
  if_pos phase

theorem mgtBootStart_ignored (phase : b.cfg.phase ≠ .p1) : mgtBootStart b = b :=
  if_neg (ne_true_of_eq_false (Cfg.booting_other phase))

theorem mgtBootData_noStart (none : b.cfg.rx = none) (w : W32) : mgtBootData w b = b := by rw [mgtBootData, none]

theorem mgtBootData_ignored (phase : b.cfg.phase ≠ .p1) (w : W32) : mgtBootData w b = b := by
  unfold mgtBootData
  split
  · rfl
  · exact if_pos (by simp [Cfg.booting_other phase])

section Received
variable {bs : List Byte} (phase : b.cfg.booting .p1 = true) (rx : b.cfg.rx = some bs) (w : W32)
include phase rx

/-- The next word is appended, and a block with all its bytes is taken. -/
theorem mgtBootData_received : mgtBootData w b =
    let got := bs ++ leBytes 4 w.toNat
    if got.length < 12 || got.length < leAt got 8 4 then { b with cfg := { b.cfg with rx := some got } }
    else takeBlock b (got.take (leAt got 8 4)) := by
  rw [mgtBootData, rx]
  exact if_neg (by simp [phase])

theorem mgtBootData_more (more : (bs ++ leBytes 4 w.toNat).length < 12 ∨
      (bs ++ leBytes 4 w.toNat).length < leAt (bs ++ leBytes 4 w.toNat) 8 4) :
    mgtBootData w b = { b with cfg := { b.cfg with rx := some (bs ++ leBytes 4 w.toNat) } } :=
  (mgtBootData_received phase rx w).trans (if_pos (by simpa using more))

theorem mgtBootData_whole (header : 12 ≤ (bs ++ leBytes 4 w.toNat).length)
    (whole : leAt (bs ++ leBytes 4 w.toNat) 8 4 ≤ (bs ++ leBytes 4 w.toNat).length) :
    mgtBootData w b = takeBlock b ((bs ++ leBytes 4 w.toNat).take (leAt (bs ++ leBytes 4 w.toNat) 8 4)) :=
  (mgtBootData_received phase rx w).trans (if_neg (by simpa only [Bool.or_eq_true, decide_eq_true_eq, not_or, Nat.not_lt] using ⟨header, whole⟩))

end Received

theorem bootBlockTimeout_ignored (phase : b.cfg.phase ≠ .p1) : bootBlockTimeout b = b :=
  if_pos (by simp [Cfg.booting_other phase])

theorem bootBlockTimeout_started {bs : List Byte} (rx : b.cfg.rx = some bs) : bootBlockTimeout b = b :=
  if_pos (by simp [rx])

section Waited
variable (phase : b.cfg.booting .p1 = true) (none : b.cfg.rx = none)
include phase none

theorem bootBlockTimeout_kept {blk : List Byte} (kept : b.cfg.kept = some blk) : bootBlockTimeout b = takeBlock b blk := by
  rw [bootBlockTimeout, kept]
  exact if_neg (by simp [phase, none])

theorem bootBlockTimeout_noBlock (kept : b.cfg.kept = Option.none) : bootBlockTimeout b = bootFail b 1 := by
  rw [bootBlockTimeout, kept]
  exact if_neg (by simp [phase, none])

end Waited
end BootBlock

/-- Settles O27: START, a word and the time-out by the phase, by what has been received and by the kept block (FLAGGED at the acceptance of the
block is log 61, and a START that empties the receiver log 73). -/
theorem bootBlockReceived : Obligations.BootBlockReceived := by
  unfold Obligations.BootBlockReceived
  intro s run
  have starts : ∀ {b : Block}, mgtBootStart s.block = b → exec .mgtBootStart s = .next { s with m := b } := fun leaves => leaves ▸ rfl
  have receives : ∀ {w : W32} {b : Block}, mgtBootData w s.block = b → exec (.mgtBootData w) s = .next { s with m := b } :=
    fun leaves => leaves ▸ rfl
  have expires : ∀ {b : Block}, bootBlockTimeout s.block = b → exec .bootBlockTimeout s = .next { s with m := b } :=
    fun leaves => leaves ▸ rfl
  refine ⟨fun other => ⟨starts (mgtBootStart_ignored other), fun w => receives (mgtBootData_ignored (b := s.block) other w),
    expires (bootBlockTimeout_ignored other)⟩, fun phase => ?_⟩
  have p1 : s.block.cfg.booting .p1 = true := Cfg.booting_of run phase
  refine ⟨starts (mgtBootStart_empties p1), fun w none => receives (mgtBootData_noStart (b := s.block) none w), fun w bs rx => ?_,
    fun bs rx => expires (bootBlockTimeout_started rx),
    fun none => ⟨fun blk kept => expires (bootBlockTimeout_kept p1 none kept), fun kept => expires (bootBlockTimeout_noBlock p1 none kept)⟩⟩
  intro got blk
  refine ⟨fun more => receives (mgtBootData_more p1 rx w more), fun header whole => ?_⟩
  have taken : mgtBootData w s.block = takeBlock s.block blk := mgtBootData_whole p1 rx w header whole
  exact ⟨fun format => receives (taken.trans (takeBlock_badFormat format)),
    fun format content => receives (taken.trans (takeBlock_badContent format content)),
    fun format content => receives (taken.trans (takeBlock_taken format content))⟩

/-! ### Phases 2 to 5 (R399, R401 to R403, R448) -/

section BootSteps
variable {b : Block}

theorem bootInitDone_ends (phase : b.cfg.booting .p2 = true) : bootInitDone b = { b with cfg := { b.cfg with phase := .p3 } } := if_pos phase

theorem bootInitDone_ignored (phase : b.cfg.phase ≠ .p2) : bootInitDone b = b := if_neg (ne_true_of_eq_false (Cfg.booting_other phase))

theorem post_ignored (phase : b.cfg.phase ≠ .p3) (ok : Bool) (unit : Nat) : post ok unit b = b :=
  if_pos (by simp [Cfg.booting_other phase])

theorem post_passed (phase : b.cfg.booting .p3 = true) (unit : Nat) : post true unit b =
    { cfg := { b.cfg with phase := .p4, fwImage := [] }, d := busReadOn .memory b.d b.cfg.boot.fwAddr.toNat 64 .fwImage } :=
  (if_neg (by simp [phase])).trans (if_pos rfl)

theorem post_failed (phase : b.cfg.booting .p3 = true) (unit : Nat) :
    post false unit b = bootFail { b with d := postSignature b.cfg b.d unit } 3 :=
  (if_neg (by simp [phase])).trans (if_neg Bool.false_ne_true)

section Image
variable (img : List Byte)

theorem fwImageRead_ignored (phase : b.cfg.phase ≠ .p4) (err : Bool) : fwImageRead img err b = b :=
  if_pos (by simp [Cfg.booting_other phase])

variable (phase : b.cfg.booting .p4 = true)
include phase

theorem fwImageRead_error : fwImageRead img true b = bootFail b 4 :=
  (if_neg (by simp [phase])).trans (if_pos rfl)

theorem fwImageRead_malformed (form : imageFormOk img = false) : fwImageRead img false b = bootFail b 5 :=
  (if_neg (by simp [phase])).trans ((if_neg Bool.false_ne_true).trans (if_pos (by simp [form])))

theorem fwImageRead_whole (form : imageFormOk img = true) : fwImageRead img false b =
    { cfg := { b.cfg with phase := .p4Verify, fwImage := img }, d := out (dropRead b.d .fwImage) (.secReq img) } :=
  (if_neg (by simp [phase])).trans ((if_neg Bool.false_ne_true).trans (if_neg (by simp [form])))

end Image

theorem fwVerifyResult_ignored (phase : b.cfg.phase ≠ .p4Verify) (ok : Bool) : fwVerifyResult ok b = b :=
  if_pos (by simp [Cfg.booting_other phase])

/-- The block whose firmware starts: its code is in the DCP's memory, its tables are in the function unit. -/
def firmwareStarted (b : Block) : Block :=
  let i := b.cfg.fwImage
  let code := (i.drop (leAt i 32 4)).take (leAt i 36 4)
  { cfg := { b.cfg with phase := .p5, fwImage := code, dcpRun := true, dcpEntry := w64 (leAt i 24 8) },
    d := { b.d with sf := { b.d.sf with slots := vendorSlots i }, tr := { b.d.tr with buf := [] }, ram := (upFrom 0 code.length).zip code } }

theorem fwVerifyResult_good (phase : b.cfg.booting .p4Verify = true) : fwVerifyResult true b = firmwareStarted b :=
  (if_neg (by simp [phase])).trans (if_neg (by simp))

theorem fwVerifyResult_bad (phase : b.cfg.booting .p4Verify = true) :
    fwVerifyResult false b = bootFail { b with cfg := { b.cfg with fwImage := [] } } 6 :=
  (if_neg (by simp [phase])).trans (if_pos rfl)

theorem fwStartTimeout_fails (phase : b.cfg.booting .p5 = true) : fwStartTimeout b = bootFail b 7 := if_pos phase

theorem fwStartTimeout_ignored (phase : b.cfg.phase ≠ .p5) : fwStartTimeout b = b :=
  if_neg (ne_true_of_eq_false (Cfg.booting_other phase))

end BootSteps

/-! ### BOOT_COMPLETE (R358, R398, R402) -/

/-- The block at the end of boot: the history stands, LINK_KEY is generated, and the controller is told. -/
def bootEnded (b : Block) (ftv : W16) (fwver : W32) : Block :=
  { cfg := { b.cfg with phase := .booted, bootStat := 0, bootDone := true, ftv := ftv, fwver := fwver }
    d := powerReport b.cfg { b.d with
      fs := { b.d.fs with hist := bootHist b.cfg.boot }, gs := { b.d.gs with keys := 0 }
      lk := { b.d.lk with key := Config.keyGen b.cfg.boot.entropy 0 }
      mn := { b.d.mn with statUnread := true }, pw := { b.d.pw with upTs := b.d.ts } } }

section BootCompletes
variable {b : Block} {ftv : W16} {fwver : W32}

theorem bootComplete_zero (ftv : W16) : bootComplete ftv 0 b = b := by simp [bootComplete]

variable (run : b.cfg.mgtRuns = true) (version : fwver ≠ 0)
include run version

theorem bootComplete_runs : bootComplete ftv fwver b =
    if b.cfg.phase == .booted then
      (if b.cfg.fwRuns && !b.d.fe.opened then { b with cfg := { b.cfg with ftv := ftv, fwver := fwver } } else b)
    else if b.cfg.phase ≠ .p5 then b
    else if b.cfg.health ≠ .flagged && (b.cfg.boot.flagged || somePermanent (bootEnded b ftv fwver)) then
      setHealth (bootEnded b ftv fwver) .flagged
    else bootEnded b ftv fwver := by
  obtain ⟨run, warm⟩ := Cfg.mgtRuns_iff.mp run
  exact if_neg (by simpa [run, warm] using version)

theorem bootComplete_ignored (phase : b.cfg.phase ≠ .p5) (booting : b.cfg.phase ≠ .booted) : bootComplete ftv fwver b = b :=
  (bootComplete_runs run version).trans ((if_neg (by simpa using booting)).trans (if_pos phase))

section Booted
variable (booted : b.cfg.phase = .booted)
include booted

theorem bootComplete_reports (fw : b.cfg.fwRuns = true) (unopened : b.d.fe.opened = false) :
    bootComplete ftv fwver b = { b with cfg := { b.cfg with ftv := ftv, fwver := fwver } } :=
  (bootComplete_runs run version).trans ((if_pos (by simp [booted])).trans (if_pos (by simp [fw, unopened])))

theorem bootComplete_late (late : b.cfg.fwRuns = false ∨ b.d.fe.opened = true) : bootComplete ftv fwver b = b :=
  (bootComplete_runs run version).trans ((if_pos (by simp [booted])).trans (if_neg (by rcases late with halted | opened <;> simp [*])))

end Booted

section Ends
variable (phase : b.cfg.phase = .p5)
include phase

theorem bootComplete_p5 : bootComplete ftv fwver b =
    if b.cfg.health ≠ .flagged && (b.cfg.boot.flagged || somePermanent (bootEnded b ftv fwver)) then
      setHealth (bootEnded b ftv fwver) .flagged
    else bootEnded b ftv fwver :=
  (bootComplete_runs run version).trans ((if_neg (by simp [phase])).trans (if_neg (by simp [phase])))

theorem bootComplete_flagged
    (flags : b.cfg.health ≠ .flagged ∧ (b.cfg.boot.flagged = true ∨ somePermanent (bootEnded b ftv fwver) = true)) :
    bootComplete ftv fwver b = setHealth (bootEnded b ftv fwver) .flagged :=
  (bootComplete_p5 run version phase).trans (if_pos (by simpa using flags))

theorem bootComplete_ends
    (keeps : ¬ (b.cfg.health ≠ .flagged ∧ (b.cfg.boot.flagged = true ∨ somePermanent (bootEnded b ftv fwver) = true))) :
    bootComplete ftv fwver b = bootEnded b ftv fwver :=
  (bootComplete_p5 run version phase).trans (if_neg (by simpa using keeps))

end Ends
end BootCompletes

/-- Settles O28: each event by its phase and by what it reports, the end of boot by the version, the phase, the contexts and the flag (the row
FW_IMAGE_READ is log 96). -/
theorem bootPhases : Obligations.BootPhases := by
  unfold Obligations.BootPhases
  refine ⟨fun s run => ?_, fun s ftv fwver run => ?_⟩
  · intro same answers
    have at_ : ∀ {p : BootPhase}, s.m.cfg.phase = p → s.block.cfg.booting p = true := fun phase => Cfg.booting_of run phase
    have powers : ∀ {b : Block}, bootInitDone s.block = b → answers .bootInitDone b := fun leaves => leaves ▸ rfl
    have tests : ∀ {ok : Bool} {unit : Nat} {b : Block}, post ok unit s.block = b → answers (.post ok unit) b := fun leaves => leaves ▸ rfl
    have reads : ∀ {img : List Byte} {err : Bool} {b : Block}, fwImageRead img err s.block = b → answers (.fwImageRead img err) b :=
      fun leaves => leaves ▸ rfl
    have verifies : ∀ {ok : Bool} {b : Block}, fwVerifyResult ok s.block = b → answers (.fwVerifyResult ok) b := fun leaves => leaves ▸ rfl
    have expires : ∀ {b : Block}, fwStartTimeout s.block = b → answers .fwStartTimeout b := fun leaves => leaves ▸ rfl
    exact ⟨fun phase => powers (bootInitDone_ends (at_ phase)), fun other => powers (bootInitDone_ignored other),
      fun unit => ⟨fun phase => ⟨tests (post_passed (at_ phase) unit), tests (post_failed (at_ phase) unit)⟩,
        fun ok other => tests (post_ignored (b := s.block) other ok unit)⟩,
      fun img => ⟨fun phase => ⟨reads (fwImageRead_error img (at_ phase)), fun form => reads (fwImageRead_malformed img (at_ phase) form),
          fun form => reads (fwImageRead_whole img (at_ phase) form)⟩,
        fun err other => reads (fwImageRead_ignored (b := s.block) img other err)⟩,
      fun phase => ⟨verifies (fwVerifyResult_good (at_ phase)), verifies (fwVerifyResult_bad (at_ phase))⟩,
      fun ok other => verifies (fwVerifyResult_ignored (b := s.block) other ok),
      fun phase => expires (fwStartTimeout_fails (at_ phase)), fun other => expires (fwStartTimeout_ignored other)⟩
  · intro same
    have completes : ∀ {b : Block}, bootComplete ftv fwver s.block = b → exec (.bootComplete ftv fwver) s = .next { s with m := b } :=
      fun leaves => leaves ▸ rfl
    refine ⟨?_, fun version phase booting => completes (bootComplete_ignored run version phase booting),
      fun version booted => ⟨fun fw unopened => completes (bootComplete_reports (b := s.block) run version booted fw unopened),
        fun late => completes (bootComplete_late run version booted late)⟩,
      fun version phase => ?_⟩
    · rintro rfl
      exact completes (bootComplete_zero ftv)
    · intro d b flags
      exact ⟨fun flagged => completes (bootComplete_flagged (b := s.block) run version phase flagged),
        fun keeps => completes (bootComplete_ends (b := s.block) run version phase keeps)⟩

end Sys2Proof.Machine

/-! ## Fallow banks (R408, R410 to R412) -/

namespace Sys2Proof.Machine

/-! ### The counter banks (R408) -/

/-- The counter banks are powered, no launch is in flight and no operation waits, and CB_IDLE has passed since the last launch. -/
def BanksIdle (k : Cfg) (d : Dyn) : Prop :=
  k.boot.cbIdle ≠ 0 ∧ d.pw.cbFallow = false ∧ noLaunch d = true ∧ d.nb.queue.all (fun q => q.2.isEmpty) = true ∧
    passed d d.pw.launchFrom k.boot.cbIdle = true

section CounterBanks
variable {k : Cfg} {d : Dyn}

theorem banksIdle_iff : (k.boot.cbIdle = 0 || d.pw.cbFallow || !noLaunch d || !d.nb.queue.all (fun q => q.2.isEmpty)
    || !passed d d.pw.launchFrom k.boot.cbIdle) = false ↔ BanksIdle k d := by
  simp only [BanksIdle, Bool.or_eq_false_iff, Bool.not_eq_false', decide_eq_false_iff_not, and_assoc, ne_eq]

theorem counterBankFallow_sleeps (idle : BanksIdle k d) : counterBankFallow k d =
    let e := traceState k d 3 64 0
    gateReq { e with pw := { e.pw with cbFallow := true }, nb := { e.nb with nodes := [] } } .counterBanks true :=
  if_neg (ne_true_of_eq_false (banksIdle_iff.mpr idle))

theorem counterBankFallow_stays (busy : ¬ BanksIdle k d) : counterBankFallow k d = d :=
  if_pos (Bool.of_not_eq_false (mt banksIdle_iff.mp busy))

end CounterBanks

/-! ### The MU banks (R410, R411) -/

/-- A bank of a present MU that the boot configuration lets lie fallow is powered, has no write in flight, and has been covered by nothing for
MU_IDLE. -/
def MuIdle (site bank writes : Nat) (k : Cfg) (d : Dyn) : Prop :=
  bank < 8 ∧ bit k.boot.muFallow.toNat bank = true ∧ k.sitePresent site = true ∧ k.siteIsMu site = true ∧ writes = 0 ∧
    muKey site bank ∉ d.pw.muFallow ∧ passed d (muSince d site bank) k.boot.muIdle = true

section MuBanks
variable {site bank writes : Nat} {k : Cfg} {d : Dyn}

theorem muIdle_iff : (8 ≤ bank || !bit k.boot.muFallow.toNat bank || !k.sitePresent site || !k.siteIsMu site || writes ≠ 0
    || d.pw.muFallow.contains (muKey site bank) || !passed d (muSince d site bank) k.boot.muIdle) = false ↔ MuIdle site bank writes k d := by
  simp [MuIdle, and_assoc]

theorem muBankFallow_sleeps (idle : MuIdle site bank writes k (muReport site bank writes d)) : muBankFallow site bank writes k d =
    let e := muReport site bank writes d
    gateReq { e with pw := { e.pw with muFallow := putBit e.pw.muFallow (muKey site bank) true } } (.mu site bank) true :=
  if_neg (ne_true_of_eq_false (muIdle_iff.mpr idle))

theorem muBankFallow_reports (busy : ¬ MuIdle site bank writes k (muReport site bank writes d)) :
    muBankFallow site bank writes k d = muReport site bank writes d :=
  if_pos (Bool.of_not_eq_false (mt muIdle_iff.mp busy))

theorem muBankWake_powers (waking : muKey site bank ∈ d.pw.muWaking) (acked : gateAcked d (.mu site bank) = true) :
    muBankWake site bank k d = { d with pw := { d.pw with
      muFallow := d.pw.muFallow.filter (· ≠ muKey site bank), muWaking := d.pw.muWaking.filter (· ≠ muKey site bank) } } :=
  if_neg (by simp [waking, acked])

theorem muBankWake_waits (no : muKey site bank ∉ d.pw.muWaking ∨ gateAcked d (.mu site bank) = false) : muBankWake site bank k d = d :=
  if_pos (by rcases no with still | unacked <;> simp [*])

end MuBanks

/-! ### Accesses of an MU bank (R412) -/

/-- A write of a row of the STAT of node `g`. -/
def rowWriteOf (g : Nat) (w : WrJob) : Bool :=
  match w.use with
  | .statRow _ x => x = g
  | _ => false

section FallowAccesses
variable {site bank : Nat} (l : Nat) {k : Cfg} {d : Dyn}

theorem fallowAccess_powered (task : FallowTask) (powered : muKey site bank ∉ d.pw.muFallow) : fallowAccess site bank l task k d = d :=
  if_pos (by simp [powered])

variable (fallow : muKey site bank ∈ d.pw.muFallow)
include fallow

theorem fallowAccess_packet (ptag : Nat) : fallowAccess site bank l (.packet ptag) k d =
    modEng (wakeBank d site bank) l (fun e => modPkt e ptag (fun p => { p with fallow := true })) :=
  if_neg (by simp [fallow])

variable {g : Nat}

theorem fallowAccess_rowOut {w : WrJob} {x : Stat} (row : (wakeBank d site bank).bus.writes.find? (rowWriteOf g) = some w)
    (stat : getStat (wakeBank d site bank) g = some x) : fallowAccess site bank l (.stat g) k d =
      let e := wakeBank d site bank
      statFail (showReads { e with bus := { e.bus with writes := dropFirst (fun y => y = w) e.bus.writes } }) x .bankFallow := by
  rw [fallowAccess, if_neg (by simp [fallow])]
  dsimp only
  split
  next w' x' row' stat' =>
    cases row.symm.trans row'
    cases stat.symm.trans stat'
    rfl
  next none => exact absurd stat (none w x row)

theorem fallowAccess_noRow (none : (wakeBank d site bank).bus.writes.find? (rowWriteOf g) = none ∨ getStat (wakeBank d site bank) g = none) :
    fallowAccess site bank l (.stat g) k d = wakeBank d site bank := by
  rw [fallowAccess, if_neg (by simp [fallow])]
  dsimp only
  split
  next w x row stat =>
    rcases none with noRow | noStat
    · cases noRow.symm.trans row
    · cases noStat.symm.trans stat
  next => rfl

end FallowAccesses

/-! ### The commands -/

section FallowCommands
variable {s : State} (h : s.serving)
include h

theorem exec_counterBankFallow : exec .counterBankFallow s = .next (s.served (counterBankFallow s.m.cfg s.fresh)) := runSrv_open h _

theorem exec_muBankFallow (site bank writes : Nat) :
    exec (.muBankFallow ⟨site, bank⟩ writes) s = .next (s.served (muBankFallow site bank writes s.m.cfg s.fresh)) := runSrv_open h _

theorem exec_muBankWake (site bank : Nat) :
    exec (.muBankWake site bank) s = .next (s.served (muBankWake site bank s.m.cfg s.fresh)) := runSrv_open h _

theorem exec_fallowAccess (site bank l : Nat) (task : FallowTask) :
    exec (.fallowAccess site bank l task) s = .next (s.served (fallowAccess site bank l task s.m.cfg s.fresh)) := runSrv_open h _

end FallowCommands

/-! ### The obligation -/

/-- Settles O34: a bank by what keeps it powered, a wake by its request and acknowledgement, an access by the bank and the task that made it. -/
theorem banksLieFallow : Obligations.BanksLieFallow := by
  unfold Obligations.BanksLieFallow
  intro s h k idle d
  have banks : ∀ {d : Dyn}, counterBankFallow k s.fresh = d → exec .counterBankFallow s = .next (s.served d) :=
    fun leaves => leaves ▸ exec_counterBankFallow h
  refine ⟨fun idle => banks (counterBankFallow_sleeps (d := s.fresh) idle), fun busy => banks (counterBankFallow_stays busy),
    fun site bank writes => ?_, fun site bank l task powered => ?_, fun site bank l ptag fallow => ?_⟩
  · intro i d sleeps
    have falls : ∀ {d : Dyn}, muBankFallow site bank writes k s.fresh = d →
        exec (.muBankFallow ⟨site, bank⟩ writes) s = .next (s.served d) := fun leaves => leaves ▸ exec_muBankFallow h site bank writes
    have wakes : ∀ {d : Dyn}, muBankWake site bank k s.fresh = d → exec (.muBankWake site bank) s = .next (s.served d) :=
      fun leaves => leaves ▸ exec_muBankWake h site bank
    exact ⟨fun idle => falls (muBankFallow_sleeps (d := s.fresh) idle), fun busy => falls (muBankFallow_reports busy),
      fun waking acked => wakes (muBankWake_powers (d := s.fresh) waking acked), fun no => wakes (muBankWake_waits no)⟩
  · rw [exec_fallowAccess h, fallowAccess_powered (d := s.fresh) l task powered]
  · intro d row answers
    have accesses : ∀ {task : FallowTask} {d : Dyn}, fallowAccess site bank l task k s.fresh = d → answers task d :=
      fun leaves => leaves ▸ exec_fallowAccess h site bank l _
    exact ⟨accesses (fallowAccess_packet (d := s.fresh) l fallow ptag),
      fun g w x out stat => accesses (fallowAccess_rowOut (d := s.fresh) l fallow out stat),
      fun g none => accesses (fallowAccess_noRow (d := s.fresh) l fallow none)⟩

end Sys2Proof.Machine

/-! ## Read-out (R424 to R426, Table 15.5) -/

namespace Sys2Proof.Machine

section ReadOuts
variable {b : Block} (store index : Nat) (res : EccResult)

theorem readOut_reset (reset : b.cfg.inReset = true) : readOut store index res b = b := if_pos reset

variable (run : b.cfg.inReset = false)
include run

theorem readOut_running (warm : b.cfg.frozen = false) :
    readOut store index res b = { b with d := out b.d (.readOut 0 0 3) } :=
  (if_neg (ne_true_of_eq_false run)).trans (if_pos (by simp [warm]))

variable (frozen : b.cfg.frozen = true)
include frozen

theorem readOut_unassigned (none : roEntry b.cfg b.d store index = none) :
    readOut store index res b = { b with d := out b.d (.readOut 0 0 3) } := by
  rw [readOut, if_neg (ne_true_of_eq_false run), none]
  exact if_neg (by simp [frozen])

theorem readOut_entry {v : Nat} {kind : RoKind} (entry : roEntry b.cfg b.d store index = some (v, kind)) :
    readOut store index res b = { b with d := out (useFree b.d 5) (roAnswer b.d v kind res) } := by
  rw [readOut, if_neg (ne_true_of_eq_false run), entry]
  exact if_neg (by simp [frozen])

end ReadOuts

/-! ### The answer for an entry -/

section Answers
variable (d : Dyn) (v : Nat)

/-- A response with its three fields. -/
def roGives (data check stat : Nat) : PortOut := .readOut (BitVec.ofNat 128 data) (BitVec.ofNat 24 check) stat

/-- The free value that stands for stored check symbols. -/
def roFreeCheck (d : Dyn) : Nat := bits (freeW d 2).toNat 0 24

theorem roAnswer_flop (res : EccResult) : roAnswer d v .flop res = roGives v 0 0 := rfl

theorem roAnswer_sram : roAnswer d v .sram .clean = roGives v (rsCheck v) 0 := rfl

theorem roAnswer_grouped : roAnswer d v .grouped .clean = roGives v (roFreeCheck d) 0 := rfl

variable {kind : RoKind} (stored : kind ≠ .flop)
include stored

theorem roAnswer_corrected (x : Nat) : roAnswer d v kind (.corrected x) = roGives v (roFreeCheck d) 1 := if_neg (by simpa using stored)

theorem roAnswer_uncorrectable : roAnswer d v kind .uncorrectable =
    roGives ((freeW d 3).toNat + (freeW d 4).toNat * p64) (roFreeCheck d) 2 := if_neg (by simpa using stored)

end Answers

/-! ### The obligation -/

/-- Settles O30: a read-out by the resets, the freeze and its entry, and the answer for an entry by its kind and by what the check finds (the free
symbols are log 44). -/
theorem readOutAnswers : Obligations.ReadOutAnswers := by
  unfold Obligations.ReadOutAnswers
  intro s store index res gives free24 refused
  have reads : ∀ {res : EccResult} {b : Block}, readOut store index res s.block = b →
      exec (.readOut store index res) s = .next { s with m := b } := fun leaves => leaves ▸ rfl
  refine ⟨fun reset => reads (readOut_reset store index res reset), fun run => ?_⟩
  have given : s.m.cfg.frozen = true → ∀ {v kind}, roEntry s.m.cfg s.fresh store index = some (v, kind) →
      ∀ {res : EccResult} {data check stat : Nat}, roAnswer s.fresh v kind res = roGives data check stat → gives res data check stat := by
    intro frozen v kind entry res data check stat answer
    refine (reads (readOut_entry (b := s.block) store index res run frozen entry)).trans ?_
    exact congrArg (fun o => Host.Outcome.next (s.with (out (useFree s.fresh 5) o))) answer
  exact ⟨fun warm => reads (readOut_running (b := s.block) store index res run warm),
    fun frozen none => reads (readOut_unassigned (b := s.block) store index res run frozen none),
    fun v frozen entry => given frozen entry (roAnswer_flop s.fresh v res),
    fun v frozen entry => given frozen entry (roAnswer_sram s.fresh v),
    fun v frozen entry => given frozen entry (roAnswer_grouped s.fresh v),
    fun v kind x frozen entry stored => ⟨given frozen entry (roAnswer_corrected s.fresh v stored x),
      given frozen entry (roAnswer_uncorrectable s.fresh v stored)⟩⟩

end Sys2Proof.Machine

/-! ## The monitor and the serial line (R429 to R432, Table 15.8) -/

namespace Sys2Proof.Machine

/-! ### Commands that only read -/

section MonitorReads
variable (k : Cfg) (d : Dyn)

/-- The lines of a context: its registers, and a line for each of its enabled rings. -/
def ctxLines (c : Nat) : List MonLine :=
  let x := getCtx d c
  [("CTX_STAT", ctxStat k d c), ("CTX_CSEQ", x.cseq.toNat), ("CTX_INFLIGHT", ctxInflight d c), ("CPL_HEAD", x.cplHead.toNat),
      ("CPL_TAIL", x.cplTail.toNat)]
    :: ((upFrom 0 ringCount).filter (fun r => (x.ring r).en)).map (fun r =>
      let g := x.ring r
      [("RING", r), ("HEAD", g.head.toNat), ("TAIL", g.tail.toNat), ("DSEQ", g.dseq.toNat), ("STATE", (ringState k g).code)])

/-- The lines of a launch slot. -/
def launchLines (n : Nat) : List MonLine :=
  let p := slotPart0 d n
  [[("CTX", bits p 0 6), ("RING", bits p 6 3), ("DSEQ", bits p 16 32), ("GRAPH", bits p 48 12), ("EPOCH", bits p 64 8)],
    ((nodeCounts d n).zip (upFrom 0 10)).map (fun x => ("NODES", x.1 + x.2 * 2 ^ 20)),
    [("ISSUES", bits p 96 32), ("NAKS", bits p 128 32), ("BUSY", bits p 160 48)]]

/-- The newest PC_SAMPLE record of a leaf that the buffer holds. -/
def newestSample (l : Nat) : Option W256 := d.tr.buf.reverse.find? (fun w => bits w.toNat 64 8 = 0x02 && bits w.toNat 112 17 = l)

variable {n : Nat}

theorem monFault_entry (entry : n < 1024) :
    monFault (some n) k d = monOk d (((tget d.fs.recs n).map (fun e => recLines n e.record)).getD []) := if_neg (Nat.not_le.mpr entry)

theorem monFault_beyond (beyond : 1024 ≤ n) : monFault (some n) k d = monBad d := if_pos beyond

theorem monCtx_context (context : n < 64) : monCtx n k d = monOk d (ctxLines k d n) := if_neg (Nat.not_le.mpr context)

theorem monCtx_beyond (beyond : 64 ≤ n) : monCtx n k d = monBad d := if_pos beyond

theorem monLaunch_slot (slot : n < 1024) : monLaunch n k d = monOk (useFree d 1) (launchLines d n) := if_neg (Nat.not_le.mpr slot)

theorem monLaunch_beyond (beyond : 1024 ≤ n) : monLaunch n k d = monBad d := if_pos beyond

theorem monCount_counter {v : Nat} (counter : counterValue k d n = some v) : monCount n k d = monOk d [[("COUNT", v)]] := by
  rw [monCount, counter]

theorem monCount_noCounter (none : counterValue k d n = none) : monCount n k d = monBad d := by
  rw [monCount, none]

theorem monParcel_parcel (parcel : n < 65536) :
    monParcel n k d = monOk d ([("ENTRY", parcelEntry k d n)] :: (parcelMembers k d n).map (fun m => [("REF", m)])) :=
  if_neg (Nat.not_le.mpr parcel)

theorem monParcel_beyond (beyond : 65536 ≤ n) : monParcel n k d = monBad d := if_pos beyond

theorem monTrace_records (one : 1 ≤ n) (most : n ≤ 64) : monTrace n k d = monOk d ((d.tr.buf.reverse.take n).map traceLine) :=
  if_neg (by simpa using ⟨Nat.one_le_iff_ne_zero.mp one, most⟩)

theorem monTrace_beyond (beyond : n = 0 ∨ 64 < n) : monTrace n k d = monBad d := if_pos (by simpa using beyond)

theorem monPcs_none (leaf : n < 65536) (none : newestSample d n = none) : monPcs n k d = monOk d [[("none", 1)]] := by
  rw [newestSample] at none
  rw [monPcs, none]
  exact if_neg (Nat.not_le.mpr leaf)

theorem monPcs_newest (leaf : n < 65536) {w : W256} (newest : newestSample d n = some w) :
    monPcs n k d = monOk d [(traceLine w).filter (fun p => ["TICK", "PC", "STALL", "NODE", "LAUNCH"].contains p.1)] := by
  rw [newestSample] at newest
  rw [monPcs, newest]
  exact if_neg (Nat.not_le.mpr leaf)

theorem monPcs_beyond (beyond : 65536 ≤ n) : monPcs n k d = monBad d := if_pos beyond

end MonitorReads

/-! ### Commands that write the configuration side (R430, R431) -/

/-- A block whose monitor has answered with a status and no lines. -/
def monAnswered (b : Block) (st : Status) : Block := { b with d := monAnswer b.d st [] }

section MonitorOrders
variable {b : Block}

theorem monBaud_rate {rate : Nat} (known : rate ∈ baudRates) :
    monBaud rate b = { cfg := { b.cfg with baudNext := some rate }, d := monOk b.d [] } := if_pos (by simpa using known)

theorem monBaud_other {rate : Nat} (other : rate ∉ baudRates) : monBaud rate b = { b with d := monBad b.d } := if_neg (by simpa using other)

theorem monDrain_refused (health : b.cfg.health ≠ .service) : monDrain b = monAnswered (surveyRefused b) .cancelled := if_pos health

theorem monDrain_asks (booted : b.cfg.phase = .booted) (service : b.cfg.health = .service) :
    monDrain b = monAnswered (askDrain b none none []) .ok := by
  rw [monDrain, if_neg (not_not.mpr service), mgtDrain_asks booted service]
  rfl

variable (full : Bool)

theorem monSurvey_refused (refused : b.cfg.boot.surveySize = 0 ∨ (b.cfg.health ≠ .service ∧ b.cfg.health ≠ .drained)) :
    monSurvey full b = monAnswered (surveyRefused b) .cancelled := if_pos (by simpa using refused)

section Taken
variable (booted : b.cfg.phase = .booted) (storage : b.cfg.boot.surveySize ≠ 0)
include booted storage

theorem monSurvey_taken (health : b.cfg.health = .service ∨ b.cfg.health = .drained) :
    monSurvey full b = monAnswered (surveyStart full b) .ok := by
  have usable : ¬ (b.cfg.boot.surveySize = 0 || !(b.cfg.health = .service || b.cfg.health = .drained)) = true := by
    simpa only [Bool.or_eq_true, Bool.not_eq_true', decide_eq_true_eq, not_or, Bool.not_eq_false] using ⟨storage, health⟩
  rw [monSurvey, if_neg usable, mgtSurvey_booted full booted]
  rfl

theorem monSurvey_asks (service : b.cfg.health = .service) : monSurvey full b = monAnswered (askDrain b (some full) none []) .ok := by
  rw [monSurvey_taken full booted storage (.inl service), surveyStart_asks full storage service]

theorem monSurvey_starts (drained : b.cfg.health = .drained) :
    monSurvey full b = monAnswered (setHealth (startSurvey b full 1 []) .survey) .ok := by
  rw [monSurvey_taken full booted storage (.inr drained), surveyStart_starts full storage drained]

end Taken
end MonitorOrders

/-! ### The serial line (R429, R431) -/

section Serial
variable {b : Block}

theorem uartRxChar_reset (reset : b.cfg.inReset = true) (ch : Byte) : uartRxChar ch b = b := if_pos reset

theorem uartTxChar_none (tx : b.d.mn.tx = []) : uartTxChar b = b := by rw [uartTxChar, tx]

theorem uartTxChar_reset (reset : b.cfg.inReset = true) : uartTxChar b = b := by
  unfold uartTxChar
  split
  · rfl
  · exact if_pos reset

variable (run : b.cfg.inReset = false)
include run

theorem uartRxChar_room (ch : Byte) (room : b.d.mn.rx.length < 64) :
    uartRxChar ch b = { b with d := { b.d with mn := { b.d.mn with rx := b.d.mn.rx ++ [ch] } } } :=
  (if_neg (ne_true_of_eq_false run)).trans (if_neg (Nat.not_le.mpr room))

theorem uartRxChar_full (ch : Byte) (full : 64 ≤ b.d.mn.rx.length) :
    uartRxChar ch b = { b with d := { b.d with mn := { b.d.mn with rxOver := true } } } :=
  (if_neg (ne_true_of_eq_false run)).trans (if_pos full)

variable {ch : Byte} {rest : List Byte} (tx : b.d.mn.tx = ch :: rest)
include tx

/-- The oldest character leaves; the prompt's last one puts a new rate in force. -/
theorem uartTxChar_leaves : uartTxChar b =
    { cfg := if ch = 0x3E then { b.cfg with baud := b.cfg.baudNext.getD b.cfg.baud, baudNext := none } else b.cfg
      d := out { b.d with mn := { b.d.mn with tx := rest } } (.uartTx ch) } := by
  rw [uartTxChar, tx]
  exact if_neg (ne_true_of_eq_false run)

theorem uartTxChar_char (other : ch ≠ 0x3E) :
    uartTxChar b = { b with d := out { b.d with mn := { b.d.mn with tx := rest } } (.uartTx ch) } := by
  rw [uartTxChar_leaves run tx, if_neg other]

theorem uartTxChar_prompt (prompt : ch = 0x3E) : uartTxChar b =
    { cfg := { b.cfg with baud := b.cfg.baudNext.getD b.cfg.baud, baudNext := none }
      d := out { b.d with mn := { b.d.mn with tx := rest } } (.uartTx ch) } := by
  rw [uartTxChar_leaves run tx, if_pos prompt]

end Serial

/-! ### The commands -/

/-- A command of the running firmware, by what its effect is. -/
theorem runFw_leaves {s : State} (fw : s.m.cfg.fwRuns = true) {f : Cfg → Dyn → Dyn} {d : Dyn} (leaves : f s.m.cfg s.fresh = d) :
    runFw f s = .next (s.with d) := leaves ▸ runFw_open fw f

theorem exec_monDrain {s : State} (h : s.firmware) : exec .monDrain s = .next (s.servedBlock (monDrain s.block)) := runSrvFwBlock_open h _

theorem exec_monSurvey {s : State} (h : s.firmware) (full : Bool) :
    exec (if full then .monSurveyFull else .monSurveyQuick) s = .next (s.servedBlock (monSurvey full s.block)) := by
  cases full <;> exact runSrvFwBlock_open h _

theorem exec_monBaud {s : State} (fw : s.m.cfg.fwRuns = true) (rate : Nat) :
    exec (.monBaud rate) s = .next { s with m := monBaud rate s.block } := runFwBlock_open fw _

theorem Cfg.booted_of_serving {k : Cfg} (serving : k.serving = true) : k.phase = .booted := by
  simp only [Cfg.serving, Bool.and_eq_true, beq_iff_eq] at serving
  exact serving.2

/-! ### The obligation -/

/-- Settles O29: a reading command by its operand's range, an order by the health and the reserved storage, a rate by Table 15.7, a character by the
resets and the queue (a rate applies with the prompt's last character, log 72). -/
theorem monitor : Obligations.Monitor := by
  unfold Obligations.Monitor
  refine ⟨fun s fw => ?_, fun s => ?_⟩
  · intro k d tells ok bad
    have rates : ∀ {rate : Nat} {b : Block}, monBaud rate s.block = b → exec (.monBaud rate) s = .next { s with m := b } :=
      fun leaves => leaves ▸ exec_monBaud fw _
    exact ⟨runFw_open fw _, runFw_open fw _, runFw_open fw _, runFw_open fw _, runFw_open fw _,
      fun n entry => runFw_leaves fw (monFault_entry k d entry), fun n beyond => runFw_leaves fw (monFault_beyond k d beyond),
      runFw_open fw _, fun c context => runFw_leaves fw (monCtx_context k d context),
      fun c beyond => runFw_leaves fw (monCtx_beyond k d beyond), fun n slot => runFw_leaves fw (monLaunch_slot k d slot),
      fun n beyond => runFw_leaves fw (monLaunch_beyond k d beyond), fun off v counter => runFw_leaves fw (monCount_counter k d counter),
      fun off none => runFw_leaves fw (monCount_noCounter k d none), fun p parcel => runFw_leaves fw (monParcel_parcel k d parcel),
      fun p beyond => runFw_leaves fw (monParcel_beyond k d beyond), runFw_open fw _,
      fun n one most => runFw_leaves fw (monTrace_records k d one most), fun n beyond => runFw_leaves fw (monTrace_beyond k d beyond),
      fun l leaf => ⟨fun none => runFw_leaves fw (monPcs_none k d leaf none),
        fun w newest => runFw_leaves fw (monPcs_newest k d leaf newest)⟩,
      fun l beyond => runFw_leaves fw (monPcs_beyond k d beyond),
      fun rate known => rates (monBaud_rate known), fun rate other => rates (monBaud_other other)⟩
  · intro answered survey
    have receives : ∀ {ch : Byte} {b : Block}, uartRxChar ch s.block = b → exec (.uartRxChar ch) s = .next { s with m := b } :=
      fun leaves => leaves ▸ rfl
    have sends : ∀ {b : Block}, uartTxChar s.block = b → exec .uartTxChar s = .next { s with m := b } := fun leaves => leaves ▸ rfl
    refine ⟨fun h => ?_, fun ch reset => ⟨receives (uartRxChar_reset (b := s.block) reset ch), sends (uartTxChar_reset reset)⟩, fun run => ?_⟩
    · have booted : s.block.cfg.phase = .booted := Cfg.booted_of_serving h.1
      have drains : ∀ {b : Block}, monDrain s.block = b → exec .monDrain s = .next (s.servedBlock b) :=
        fun leaves => leaves ▸ exec_monDrain h
      have surveys : ∀ {full : Bool} {b : Block}, monSurvey full s.block = b → survey full = .next (s.servedBlock b) :=
        fun leaves => leaves ▸ exec_monSurvey h _
      exact ⟨fun service => drains (monDrain_asks booted service), fun health => drains (monDrain_refused health),
        fun full storage service => surveys (monSurvey_asks full booted storage service),
        fun full storage drained => surveys (monSurvey_starts full booted storage drained),
        fun full refused => surveys (monSurvey_refused full refused)⟩
    · exact ⟨fun ch room => receives (uartRxChar_room (b := s.block) run ch room),
        fun ch full => receives (uartRxChar_full (b := s.block) run ch full), fun tx => sends (uartTxChar_none tx),
        fun ch rest tx => ⟨fun other => sends (uartTxChar_char (b := s.block) run tx other),
          fun prompt => sends (uartTxChar_prompt (b := s.block) run tx prompt)⟩⟩

end Sys2Proof.Machine

/-! ## Inspection, sampling, the trace buffer and the replay log (R325, R328, R370, R390, R415 to R417, R420 to R422) -/

namespace Sys2Proof.Machine

/-! ### INSPECT (R390) -/

section Inspections
variable {k : Cfg} {d : Dyn} {q : Req}

theorem inspect_none (none : frontOp d 0 cInspect = none) : inspect k d = d := by rw [inspect, none]

variable (front : frontOp d 0 cInspect = some q)
include front

theorem inspect_unknown (unknown : inspectParts k d (opn q.ops 16 1) (opn q.ops 20 4) = none) :
    inspect k d = pushRet (useFree (takeReq d q) 1) (inspectRet q .badDescriptor 0 true 0) := by
  simp only [inspect, front, unknown]

theorem inspect_parts {ps : List Nat} (parts : inspectParts k d (opn q.ops 16 1) (opn q.ops 20 4) = some ps) :
    inspect k d = (ps.zip (upFrom 0 ps.length)).foldl
      (fun d x => pushRet d (inspectRet q .ok x.2 (x.2 + 1 = ps.length) x.1)) (useFree (takeReq d q) 1) := by
  simp only [inspect, front, parts]

end Inspections

/-! ### SAMPLING_TICK (R415 to R417, R420) -/

/-- The launches in flight that were not taken in this very cycle. -/
def sampledLaunches (d : Dyn) : List (Nat × Launch) :=
  (launchesInFlight d).filter (fun e => !(tget d.ls.counts e.1).any (fun c => c.fc = d.fc))

section Samples
variable {taps : List (Nat × W64 × BitVec 3)} {k : Cfg} {d : Dyn}

theorem samplingTick_between (between : d.fc.toNat % 2 ^ k.pcsLog2.toNat ≠ 0) : samplingTick taps k d = d :=
  if_pos (by simpa [atTick] using between)

theorem samplingTick_samples (tick : d.fc.toNat % 2 ^ k.pcsLog2.toNat = 0) : samplingTick taps k d =
    let e := if k.pcsEn then (k.allLeaves.filter k.taskEngine).foldl (pcSample k taps) d else d
    (sampledLaunches e).foldl (fun d x => launchSample k d x.1 false) e :=
  if_neg (by simpa [atTick] using tick)

end Samples

/-! ### LOSS_RECORD (R422) -/

section Losses
variable {k : Cfg} {d : Dyn}

theorem traceLoss_nothing (nothing : d.tr.dropped = 0 ∨ traceRoom k d = false) : traceLoss k d = d := if_pos (by simpa using nothing)

theorem traceLoss_writes (dropped : d.tr.dropped ≠ 0) (room : traceRoom k d = true) : traceLoss k d =
    let e := tracePush d (traceRec d.ts 0x01 2 (d.tr.dropped + d.tr.firstTs.toNat * 2 ^ 64))
    { e with tr := { e.tr with dropped := 0, firstTs := 0 } } :=
  if_neg (by simpa [room] using dropped)

end Losses

/-! ### TRACE_SPILL_WRITE (R421) -/

section Spills
variable {k : Cfg} {d : Dyn}

theorem spillNext_stays (stays : d.tr.buf = [] ∨ k.traceSpill = false ∨
    2 ^ k.spillLog2.toNat < dist32 d.tr.spillHead d.tr.spillTail + d.tr.spillOut + 32) : spillNext k d = d := by
  unfold spillNext
  dsimp only
  split
  · rfl
  next w t buf => exact if_pos (by simpa [buf] using stays)

theorem spillNext_writes {w : W256} {t : List W256} (buf : d.tr.buf = w :: t) (spill : k.traceSpill = true)
    (room : dist32 d.tr.spillHead d.tr.spillTail + d.tr.spillOut + 32 ≤ 2 ^ k.spillLog2.toNat) : spillNext k d =
      let a := (k.spillBase.toNat + (d.tr.spillTail.toNat + d.tr.spillOut) % 2 ^ k.spillLog2.toNat) % p64
      traceLoss k (busWrite k { d with tr := { d.tr with buf := t, spillOut := d.tr.spillOut + 32 } } a (leBytes 32 w.toNat) (.spill 32)) := by
  rw [spillNext, buf]
  exact if_neg (by simpa [spill] using room)

theorem traceSpillWrite_noneOut (none : ∀ j ∈ d.bus.writes, isSpill j = false) : traceSpillWrite k d = spillNext k d := by
  rw [traceSpillWrite, List.find?_eq_none.mpr (by simpa using none)]

theorem traceSpillWrite_acked {j : WrJob} (isOut : d.bus.writes.find? isSpill = some j) : traceSpillWrite k d = spillNext k
    (showReads (spillAck { d with bus := { d.bus with writes := dropFirst isSpill d.bus.writes } } j.data.length)) := by
  rw [traceSpillWrite, isOut]

end Spills

/-! ### REPLAY_DRAIN (R325, R328, R370) -/

section Drains
variable {k : Cfg} {d : Dyn}

/-- The presented writes of a staged record, one for each of its slots. -/
def replayWrites (k : Cfg) (d : Dyn) (r : RRec) (t : List RRec) : Dyn :=
  let n := r.slots.length
  let slot (i : Nat) : Nat := (k.replayBase.toNat + 32 * ((d.rp.tail.toNat + i) % 2 ^ k.replayLog2.toNat)) % p64
  (r.slots.zip (upFrom 0 n)).foldl (fun d w => busWrite k d (slot w.2) (leBytes 32 w.1.toNat) (.replay n))
    { d with rp := { d.rp with stage := t, full := false } }

theorem replayNext_nil (none : d.rp.stage = []) : replayNext k d = d := by rw [replayNext, none]

section Staged
variable {r : RRec} {t : List RRec} (staged : d.rp.stage = r :: t)
include staged

theorem ringLacks_staged : ringLacks k d.rp = decide (2 ^ k.replayLog2.toNat < dist32 d.rp.head d.rp.tail + r.slots.length) := by
  rw [ringLacks, staged]

theorem replayNext_staged : replayNext k d =
    if r.img.isSome || d.bus.writes.any isReplay || !k.replayEn then d
    else if 2 ^ k.replayLog2.toNat < dist32 d.rp.head d.rp.tail + r.slots.length then { d with rp := { d.rp with full := true } }
    else replayWrites k d r t := by
  simp only [replayNext, staged, ringLacks_staged staged, decide_eq_true_eq]
  rfl

theorem replayNext_held (held : r.img ≠ none ∨ (∃ j ∈ d.bus.writes, isReplay j = true) ∨ k.replayEn = false) : replayNext k d = d :=
  (replayNext_staged staged).trans (if_pos (by simpa [Option.isSome_iff_ne_none, or_assoc] using held))

section Free
variable (known : r.img = none) (quiet : ∀ j ∈ d.bus.writes, isReplay j = false) (enabled : k.replayEn = true)
include known quiet enabled

theorem replayNext_free : replayNext k d =
    if 2 ^ k.replayLog2.toNat < dist32 d.rp.head d.rp.tail + r.slots.length then { d with rp := { d.rp with full := true } }
    else replayWrites k d r t :=
  (replayNext_staged staged).trans (if_neg (by simpa [known, enabled] using quiet))

theorem replayNext_full (lacks : 2 ^ k.replayLog2.toNat < dist32 d.rp.head d.rp.tail + r.slots.length) :
    replayNext k d = { d with rp := { d.rp with full := true } } :=
  (replayNext_free staged known quiet enabled).trans (if_pos lacks)

theorem replayNext_writes (room : dist32 d.rp.head d.rp.tail + r.slots.length ≤ 2 ^ k.replayLog2.toNat) :
    replayNext k d = replayWrites k d r t :=
  (replayNext_free staged known quiet enabled).trans (if_neg (Nat.not_lt.mpr room))

end Free
end Staged

theorem replayDrain_noneOut (none : ∀ j ∈ d.bus.writes, isReplay j = false) : replayDrain k d = replayNext k d := by
  rw [replayDrain, List.find?_eq_none.mpr (by simpa using none)]

theorem replayDrain_acked {j : WrJob} {n : Nat} (isOut : d.bus.writes.find? isReplay = some j) (use : j.use = .replay n) :
    replayDrain k d = replayNext k
      (showReads (replayAck { d with bus := { d.bus with writes := d.bus.writes.filter (fun x => !isReplay x) } } n)) := by
  simp only [replayDrain, isOut, use]

end Drains

/-! ### The commands -/

section Observers
variable {s : State} (h : s.serving)
include h

theorem exec_inspect : exec .inspect s = .next (s.served (inspect s.m.cfg s.fresh)) := runSrv_open h _

theorem exec_samplingTick (taps : List (Nat × W64 × BitVec 3)) :
    exec (.samplingTick taps) s = .next (s.served (samplingTick taps s.m.cfg s.fresh)) := runSrv_open h _

theorem exec_lossRecord : exec .lossRecord s = .next (s.served (traceLoss s.m.cfg s.fresh)) := runSrv_open h _

theorem exec_traceSpillWrite {hits : List Hit} (clean : Clean hits) :
    exec (.traceSpillWrite hits) s = .next (s.served (traceSpillWrite s.m.cfg s.fresh)) :=
  (runSrv_open h (withHits Stored.isTrace hits traceSpillWrite)).trans (by rw [withHits_clean clean])

theorem exec_replayDrain : exec .replayDrain s = .next (s.served (replayDrain s.m.cfg s.fresh)) := runSrv_open h _

end Observers

/-! ### The obligation -/

/-- Settles O56: INSPECT by its object, a tick by the cycle, a loss by the room, a spill and a drain by the write that is out and by the oldest record
(one record at a time is log 71). -/
theorem observation : Obligations.Observation := by
  unfold Obligations.Observation
  intro s hits h clean k after
  have inspects : ∀ {d : Dyn}, inspect k s.fresh = d → after .inspect d := fun leaves => leaves ▸ exec_inspect h
  have samples : ∀ {taps} {d : Dyn}, samplingTick taps k s.fresh = d → after (.samplingTick taps) d :=
    fun leaves => leaves ▸ exec_samplingTick h _
  have records : ∀ {d : Dyn}, traceLoss k s.fresh = d → after .lossRecord d := fun leaves => leaves ▸ exec_lossRecord h
  have spills : ∀ {d : Dyn}, traceSpillWrite k s.fresh = d → after (.traceSpillWrite hits) d :=
    fun leaves => leaves ▸ exec_traceSpillWrite h clean
  have drains : ∀ {d : Dyn}, replayDrain k s.fresh = d → after .replayDrain d := fun leaves => leaves ▸ exec_replayDrain h
  exact ⟨fun none => inspects (inspect_none none),
    fun q front => ⟨fun unknown => inspects (inspect_unknown front unknown), fun ps parts => inspects (inspect_parts front parts)⟩,
    fun taps => ⟨fun tick => samples (samplingTick_samples (d := s.fresh) tick),
      fun between => samples (samplingTick_between (d := s.fresh) between)⟩,
    fun nothing => records (traceLoss_nothing nothing), fun dropped room => records (traceLoss_writes (d := s.fresh) dropped room),
    fun none => spills (traceSpillWrite_noneOut (d := s.fresh) none), fun j isOut => spills (traceSpillWrite_acked (d := s.fresh) isOut),
    fun none => drains (replayDrain_noneOut (d := s.fresh) none),
    fun j n isOut use => drains (replayDrain_acked (d := s.fresh) isOut use),
    fun d => ⟨spillNext_stays, fun w t buf spill room => spillNext_writes buf spill room, replayNext_nil,
      fun r t staged => ⟨replayNext_held staged, fun known quiet enabled =>
        ⟨replayNext_full staged known quiet enabled, replayNext_writes staged known quiet enabled⟩⟩⟩⟩

end Sys2Proof.Machine
